-- ==== Sys2Proof/Word.lean ====
section
/-!
DEFINITION. Word types of the C9 and sorted tables of plain data.

`Cells α` is a list of (key, value) pairs with strictly rising keys: memory, register files and the tables of agents are
all of this form, so that equal tables are equal lists.
-/

namespace Sys2Proof

/-- One byte. -/
abbrev Byte := BitVec 8
/-- A lane register (R22). -/
abbrev Word := BitVec 32
/-- A uniform, mask or special register (R22). -/
abbrev DWord := BitVec 64

/-- A sparse table: pairs of a key and a value, keys strictly rising. -/
abbrev Cells (α : Type) := List (Nat × α)

namespace Cells

variable {α β : Type}

/-- The value listed under key `k`, if any. -/
def get? (k : Nat) : Cells α → Option α
  | [] => none
  | (j, v) :: r => if j = k then some v else get? k r

/-- The value under key `k`, or `d` where `k` is not listed. -/
def get (d : α) (k : Nat) (m : Cells α) : α := (get? k m).getD d

/-- List `v` under key `k`, in key order. -/
def insert (k : Nat) (v : α) : Cells α → Cells α
  | [] => [(k, v)]
  | (j, w) :: r =>
    if k < j then (k, v) :: (j, w) :: r
    else if k = j then (k, v) :: r
    else (j, w) :: insert k v r

/-- Remove key `k`. -/
def erase (k : Nat) : Cells α → Cells α
  | [] => []
  | (j, w) :: r => if j = k then erase k r else (j, w) :: erase k r

/-- Write `v` under `k` in a table whose unlisted keys read `d`: a value equal to `d` is not listed. -/
def put [DecidableEq α] (d : α) (k : Nat) (v : α) (m : Cells α) : Cells α :=
  if v = d then erase k m else insert k v m

/-- Apply `f` to the value under `k`, where one is listed. -/
def modify (k : Nat) (f : α → α) : Cells α → Cells α
  | [] => []
  | (j, w) :: r => if j = k then (j, f w) :: r else (j, w) :: modify k f r

/-- The values, in key order. -/
def vals (m : Cells α) : List α := m.map Prod.snd

/-- Apply `f` to every value. -/
def mapVals (f : Nat → α → β) (m : Cells α) : Cells β := m.map fun p => (p.1, f p.1 p.2)

/-- Keys rise strictly. -/
def sorted : Cells α → Bool
  | [] => true
  | [_] => true
  | (j, _) :: (k, v) :: r => decide (j < k) && sorted ((k, v) :: r)

/-- The canonical form over default `d`: keys rise strictly and no listed value is `d`. -/
def canon [DecidableEq α] (d : α) (m : Cells α) : Bool :=
  sorted m && m.all fun p => decide (p.2 ≠ d)

end Cells

end Sys2Proof
end

