-- ==== Sys2Proof/Machine/Float.lean ====
section
/-!
DEFINITION. Number formats, exact values and rounding (03_numbers.md R66 to R100).

A finite value is an exact dyadic number `m * 2 ^ e`; every operation computes its exact result and rounds once (R76).
Flags are the eight AFL bits of R27 in their order.
-/

namespace Sys2Proof.Num

/-- The eight sticky conditions of AFL (R27). -/
abbrev Flags := BitVec 8
def fNone : Flags := 0x00
def fINV : Flags := 0x01
def fDZ : Flags := 0x02
def fOVF : Flags := 0x04
def fUNF : Flags := 0x08
def fINX : Flags := 0x10
def fSAT : Flags := 0x20
def fOOV : Flags := 0x40
def fBOVF : Flags := 0x80

/-- The floating-point formats that instructions convert between (R67). -/
inductive Fmt where
  | f32 | bf16 | f16 | e4m3 | e5m2
  deriving DecidableEq, Repr

/-- Exponent field width (R67). -/
def Fmt.ebits : Fmt → Nat
  | .f32 => 8 | .bf16 => 8 | .f16 => 5 | .e4m3 => 4 | .e5m2 => 5
/-- Mantissa field width (R67). -/
def Fmt.mbits : Fmt → Nat
  | .f32 => 23 | .bf16 => 7 | .f16 => 10 | .e4m3 => 3 | .e5m2 => 2
/-- Exponent bias (R67). -/
def Fmt.bias : Fmt → Nat
  | .f32 => 127 | .bf16 => 127 | .f16 => 15 | .e4m3 => 7 | .e5m2 => 15
/-- Bits of a code. -/
def Fmt.width (f : Fmt) : Nat := 1 + f.ebits + f.mbits
/-- The code of the largest finite magnitude (R67, R70). -/
def Fmt.maxCode : Fmt → Nat
  | .f32 => 0x7F7FFFFF | .bf16 => 0x7F7F | .f16 => 0x7BFF | .e4m3 => 0x7E | .e5m2 => 0x7B
/-- The canonical NaN (R81). -/
def Fmt.nan : Fmt → Nat
  | .f32 => 0x7FC00000 | .bf16 => 0x7FC0 | .f16 => 0x7E00 | .e4m3 => 0x7F | .e5m2 => 0x7E
/-- The code of +infinity; E4M3 has none and gives its NaN (R79). -/
def Fmt.inf : Fmt → Nat
  | .f32 => 0x7F800000 | .bf16 => 0x7F80 | .f16 => 0x7C00 | .e4m3 => 0x7F | .e5m2 => 0x7C
/-- The sign bit. -/
def Fmt.signBit (f : Fmt) : Nat := 2 ^ (f.ebits + f.mbits)

/-- A decoded operand: a NaN (signalling or quiet, R82), an infinity, or the exact value `(-1)^neg * m * 2^e`. -/
inductive FVal where
  | nan (signalling : Bool)
  | inf (neg : Bool)
  | fin (neg : Bool) (m : Nat) (e : Int)
  deriving DecidableEq, Repr

/-- The value of a code (R67 to R70). Bits above the format are ignored (R69). -/
def decodeF (f : Fmt) (code : Nat) : FVal :=
  let c := code % 2 ^ f.width
  let neg := decide (f.signBit ≤ c)
  let x := c % f.signBit
  let ef := x / 2 ^ f.mbits
  let mf := x % 2 ^ f.mbits
  if f = .e4m3 then
    if x = 0x7F then .nan false
    else if ef = 0 then .fin neg mf (1 - (f.bias : Int) - f.mbits)
    else .fin neg (2 ^ f.mbits + mf) ((ef : Int) - f.bias - f.mbits)
  else if ef = 2 ^ f.ebits - 1 then
    if mf = 0 then .inf neg
    else .nan (f.mbits > 2 && mf < 2 ^ (f.mbits - 1))
  else if ef = 0 then .fin neg mf (1 - (f.bias : Int) - f.mbits)
  else .fin neg (2 ^ f.mbits + mf) ((ef : Int) - f.bias - f.mbits)

/-- Is a signalling NaN (R82). -/
def FVal.isSNaN : FVal → Bool
  | .nan s => s
  | _ => false
/-- Is a NaN. -/
def FVal.isNaN : FVal → Bool
  | .nan _ => true
  | _ => false
/-- The flag a signalling operand sets (R82). -/
def snanFlag (v : FVal) : Flags := if v.isSNaN then fINV else fNone

/-- The rounding modes, in the order of `fcvt`'s sub field (R78, R158). -/
inductive Mode where
  | rne | rz | rneSat | rdn | rup
  deriving DecidableEq, Repr

/-- Number of bits of `m`. -/
def bitLen (m : Nat) : Nat := if m = 0 then 0 else m.log2 + 1

/-- Does rounding step away from zero: `n` kept, `rem` of `2^sh` dropped, `st` more below, sign `neg` (R76, R78). -/
def roundsUp (mode : Mode) (neg : Bool) (n rem sh : Nat) (st : Bool) : Bool :=
  let inexact := rem ≠ 0 || st
  match mode with
  | .rne | .rneSat =>
    if sh = 0 then false
    else
      let h := 2 ^ (sh - 1)
      decide (h < rem) || (rem == h && (st || n % 2 == 1))
  | .rz => false
  | .rdn => neg && inexact
  | .rup => !neg && inexact

/-- `m / 2^sh` and the remainder; a shift beyond the width of `m` leaves a remainder below one half. -/
def shiftSplit (m sh : Nat) : Nat × Nat × Nat × Bool :=
  if bitLen m + 2 ≤ sh then (0, 0, 2, m ≠ 0)
  else (m / 2 ^ sh, m % 2 ^ sh, sh, false)

/-- The code of an overflowing result and its flags (R79). -/
def overflowCode (f : Fmt) (mode : Mode) (neg : Bool) : Nat × Flags :=
  let sg := if neg then f.signBit else 0
  let infC := if f = .e4m3 then f.nan else f.inf + sg
  match mode with
  | .rne => (infC, fOVF ||| fINX)
  | .rz => (f.maxCode + sg, fOVF ||| fINX)
  | .rneSat => (f.maxCode + sg, fSAT)
  | .rdn => (if neg then infC else f.maxCode + sg, fOVF ||| fINX)
  | .rup => (if neg then f.maxCode + sg else infC, fOVF ||| fINX)

/-- round_mode of R76 to R80 on the magnitude `m * 2^e`, plus a positive amount below one unit of `m` when `st`. The code
and the flags OVF, UNF, INX, SAT. A zero result keeps the sign. -/
def roundTo (f : Fmt) (mode : Mode) (neg : Bool) (m : Nat) (e : Int) (st : Bool) : Nat × Flags :=
  let sg := if neg then f.signBit else 0
  if m = 0 then (sg, fNone)
  else
    let minE : Int := 1 - (f.bias : Int)
    let ex : Int := e + (bitLen m : Int) - 1
    let q : Int := (if ex < minE then minE else ex) - f.mbits
    let r : Nat × Nat × Nat × Bool :=
      if q ≤ e then (m * 2 ^ (e - q).toNat, 0, 0, false) else shiftSplit m (q - e).toNat
    let n := r.1
    let st' := st || r.2.2.2
    let inexact := r.2.1 ≠ 0 || st'
    let n' := if roundsUp mode neg n r.2.1 r.2.2.1 st' then n + 1 else n
    -- the code of n' * 2^q under an unbounded exponent range
    let code : Nat := if n' < 2 ^ f.mbits then n'
      else n' + ((q + f.mbits + f.bias - 1).toNat) * 2 ^ f.mbits
    if f.maxCode < code then overflowCode f mode neg
    else
      let tiny := decide (ex < minE)
      (code + sg, (if tiny && inexact then fUNF else fNone) ||| (if inexact then fINX else fNone))

/-- An exact dyadic number `m * 2^e`. -/
structure Dy where
  m : Int
  e : Int
  deriving DecidableEq, Repr

namespace Dy

/-- Zero. -/
def zero : Dy := ⟨0, 0⟩
/-- The signed value of a finite operand. -/
def ofFin (neg : Bool) (m : Nat) (e : Int) : Dy := ⟨if neg then -(m : Int) else m, e⟩
/-- The mantissa of `a` at exponent `e`, which is at most `a.e`. -/
def at_ (a : Dy) (e : Int) : Int := a.m * 2 ^ (a.e - e).toNat
/-- Exact sum. -/
def add (a b : Dy) : Dy :=
  if a.m = 0 then b else if b.m = 0 then a else
  let e := min a.e b.e
  ⟨a.at_ e + b.at_ e, e⟩
/-- Exact product. -/
def mul (a b : Dy) : Dy := ⟨a.m * b.m, a.e + b.e⟩
/-- Negation. -/
def neg (a : Dy) : Dy := ⟨-a.m, a.e⟩
/-- Magnitude. -/
def abs (a : Dy) : Dy := ⟨a.m.natAbs, a.e⟩
/-- `a <= b`, exactly. -/
def le (a b : Dy) : Bool :=
  let e := min a.e b.e
  decide (a.at_ e ≤ b.at_ e)
/-- `a < b`, exactly. -/
def lt (a b : Dy) : Bool := !le b a
/-- Round once to a format; a zero is +0 (R84). -/
def round (f : Fmt) (mode : Mode) (a : Dy) : Nat × Flags :=
  roundTo f mode (decide (a.m < 0)) a.m.natAbs a.e false

end Dy

/-- The canonical NaN with flags. -/
def nanR (f : Fmt) (fl : Flags) : Nat × Flags := (f.nan, fl)
/-- An infinity. -/
def infR (f : Fmt) (neg : Bool) : Nat × Flags := (f.inf + if neg then f.signBit else 0, fNone)
/-- A signed zero. -/
def zeroR (f : Fmt) (neg : Bool) : Nat × Flags := (if neg then f.signBit else 0, fNone)

/-- Exact sum of two values, rounded once; zero signs of R84, invalid sums of R83. -/
def addV (f : Fmt) (a b : FVal) : Nat × Flags :=
  match a, b with
  | .nan s, y => nanR f (if s || y.isSNaN then fINV else fNone)
  | .inf _, .nan s => nanR f (if s then fINV else fNone)
  | .fin _ _ _, .nan s => nanR f (if s then fINV else fNone)
  | .inf p, .inf q => if p = q then infR f p else nanR f fINV
  | .inf p, .fin _ _ _ => infR f p
  | .fin _ _ _, .inf q => infR f q
  | .fin p m d, .fin q n e =>
    if m = 0 && n = 0 then zeroR f (p && q)
    else (Dy.add (.ofFin p m d) (.ofFin q n e)).round f .rne

/-- The negated value. -/
def FVal.negate : FVal → FVal
  | .nan s => .nan s
  | .inf n => .inf !n
  | .fin n m e => .fin (!n) m e

/-- Exact product rounded once (R83, R84). -/
def mulV (f : Fmt) (a b : FVal) : Nat × Flags :=
  match a, b with
  | .nan s, y => nanR f (if s || y.isSNaN then fINV else fNone)
  | .inf _, .nan s => nanR f (if s then fINV else fNone)
  | .fin _ _ _, .nan s => nanR f (if s then fINV else fNone)
  | .inf p, .inf q => infR f (p != q)
  | .inf p, .fin q n _ => if n = 0 then nanR f fINV else infR f (p != q)
  | .fin p m _, .inf q => if m = 0 then nanR f fINV else infR f (p != q)
  | .fin p m d, .fin q n e =>
    if m = 0 || n = 0 then zeroR f (p != q) else roundTo f .rne (p != q) (m * n) (d + e) false

/-- `a * b + c`, exact, rounded once; `0 * infinity` is invalid even beside a quiet NaN addend (R83). -/
def fmaV (f : Fmt) (a b c : FVal) : Nat × Flags :=
  let sn := if a.isSNaN || b.isSNaN || c.isSNaN then fINV else fNone
  match a, b with
  | .nan _, _ => nanR f sn
  | .inf _, .nan _ => nanR f sn
  | .fin _ _ _, .nan _ => nanR f sn
  | .inf p, .inf q => addInf (p != q) c sn
  | .inf p, .fin q n _ => if n = 0 then nanR f fINV else addInf (p != q) c sn
  | .fin p m _, .inf q => if m = 0 then nanR f fINV else addInf (p != q) c sn
  | .fin p m d, .fin q n e =>
    match c with
    | .nan _ => nanR f sn
    | .inf r => infR f r
    | .fin r k g =>
      if (m = 0 || n = 0) && k = 0 then zeroR f ((p != q) && r)
      else (Dy.add (.ofFin (p != q) (m * n) (d + e)) (.ofFin r k g)).round f .rne
where
  /-- An infinite product of sign `p` plus `c`. -/
  addInf (p : Bool) (c : FVal) (sn : Flags) : Nat × Flags :=
    match c with
    | .nan _ => nanR f sn
    | .inf r => if p = r then infR f p else nanR f fINV
    | .fin _ _ _ => infR f p

/-- Correctly rounded quotient (R83). -/
def divV (f : Fmt) (a b : FVal) : Nat × Flags :=
  match a, b with
  | .nan s, y => nanR f (if s || y.isSNaN then fINV else fNone)
  | .inf _, .nan s => nanR f (if s then fINV else fNone)
  | .fin _ _ _, .nan s => nanR f (if s then fINV else fNone)
  | .inf _, .inf _ => nanR f fINV
  | .inf p, .fin q _ _ => infR f (p != q)
  | .fin p _ _, .inf q => zeroR f (p != q)
  | .fin p m d, .fin q n e =>
    if n = 0 then
      if m = 0 then nanR f fINV else ((infR f (p != q)).1, fDZ)
    else if m = 0 then zeroR f (p != q)
    else
      let k := 34 + bitLen n
      let num := m * 2 ^ k
      roundTo f .rne (p != q) (num / n) (d - e - k) (num % n ≠ 0)

/-- Bits of the integer square root, highest first: with `k` bits left, extend root `r` of `n`. -/
def isqrtGo : Nat → Nat → Nat → Nat
  | 0, _, r => r
  | k + 1, n, r =>
    let r' := r + 2 ^ k
    if r' * r' ≤ n then isqrtGo k n r' else isqrtGo k n r

/-- The integer square root. -/
def isqrt (n : Nat) : Nat := isqrtGo (bitLen n / 2 + 1) n 0

/-- Correctly rounded square root (R83). -/
def sqrtV (f : Fmt) (a : FVal) : Nat × Flags :=
  match a with
  | .nan s => nanR f (if s then fINV else fNone)
  | .inf n => if n then nanR f fINV else infR f false
  | .fin n m e =>
    if m = 0 then zeroR f n
    else if n then nanR f fINV
    else
      let odd := e % 2
      let m' := m * 2 ^ (64 + odd.toNat)
      let s := isqrt m'
      roundTo f .rne false s ((e - odd) / 2 - 32) (s * s ≠ m')

/-- Correctly rounded reciprocal (R83). -/
def rcpV (f : Fmt) (a : FVal) : Nat × Flags :=
  match a with
  | .nan s => nanR f (if s then fINV else fNone)
  | .inf n => zeroR f n
  | .fin n m e =>
    if m = 0 then ((infR f n).1, fDZ)
    else
      let k := 34 + bitLen m
      roundTo f .rne n (2 ^ k / m) (-e - k) (2 ^ k % m ≠ 0)

/-- Correctly rounded reciprocal square root (R83). -/
def rsqV (f : Fmt) (a : FVal) : Nat × Flags :=
  match a with
  | .nan s => nanR f (if s then fINV else fNone)
  | .inf n => if n then nanR f fINV else zeroR f false
  | .fin n m e =>
    if m = 0 then ((infR f n).1, fDZ)
    else if n then nanR f fINV
    else
      let odd := e % 2
      let m' := m * 2 ^ odd.toNat
      let s := isqrt (2 ^ 128 / m')
      roundTo f .rne false s (-((e - odd) / 2) - 64) (s * s * m' ≠ 2 ^ 128)

/-- `a * 2^n`, exact, rounded once (R162). -/
def scaleV (f : Fmt) (a : FVal) (n : Int) : Nat × Flags :=
  match a with
  | .nan s => nanR f (if s then fINV else fNone)
  | .inf p => infR f p
  | .fin p m e => roundTo f .rne p m (e + n) false

/-- Rank of a non-NaN code in the total order where -0 lies below +0 (R89). -/
def totalKey (f : Fmt) (code : Nat) : Int :=
  let x := (code % f.signBit : Nat)
  if code % 2 ^ f.width < f.signBit then (x : Int) else -(x : Int) - 1

/-- fmin, fmax, fminn, fmaxn on codes of `f` (R90): `max` picks the greater, `num` prefers the number. -/
def minMax (f : Fmt) (max num : Bool) (a b : Nat) : Nat × Flags :=
  let x := decodeF f a
  let y := decodeF f b
  let fl := if x.isSNaN || y.isSNaN then fINV else fNone
  let a' := a % 2 ^ f.width
  let b' := b % 2 ^ f.width
  match x.isNaN, y.isNaN with
  | true, true => (f.nan, fl)
  | true, false => (if num then b' else f.nan, fl)
  | false, true => (if num then a' else f.nan, fl)
  | false, false =>
    let lessA := decide (totalKey f a' ≤ totalKey f b')
    (if lessA != max then a' else b', fl)

/-- IEEE comparison of two values as exact numbers: less, equal (R89). -/
def cmpV (a b : FVal) : Bool × Bool :=
  match a, b with
  | .fin p m d, .fin q n e =>
    let x := Dy.ofFin p m d
    let y := Dy.ofFin q n e
    (x.lt y, x.le y && y.le x)
  | .inf p, .inf q => (p && !q, p == q)
  | .inf p, _ => (p, false)
  | _, .inf q => (!q, false)
  | _, _ => (false, false)

/-- A condition of `fcmp` (R157). -/
def fcmpHolds (f : Fmt) (cond : BitVec 3) (a b : Nat) : Bool × Flags :=
  let x := decodeF f a
  let y := decodeF f b
  let fl := if x.isSNaN || y.isSNaN then fINV else fNone
  let un := x.isNaN || y.isNaN
  let (lt, eq) := cmpV x y
  let r := match cond.toNat with
    | 0 => !un && eq
    | 1 => un || !eq
    | 2 => !un && lt
    | 3 => !un && (lt || eq)
    | 4 => !un && !(lt || eq)
    | 5 => !un && !lt
    | 6 => un
    | _ => !un
  (r, fl)

/-- Magnitude of `m * 2^e` rounded to an integer under a mode, and whether it was inexact. -/
def roundInt (mode : Mode) (neg : Bool) (m : Nat) (e : Int) : Nat × Bool :=
  if 0 ≤ e then (m * 2 ^ e.toNat, false)
  else
    let r := shiftSplit m (-e).toNat
    let n := if roundsUp mode neg r.1 r.2.1 r.2.2.1 r.2.2.2 then r.1 + 1 else r.1
    (n, r.2.1 ≠ 0 || r.2.2.2)

/-- The class bit of R155. -/
def fclass (code : Word) : Nat :=
  match decodeF .f32 code.toNat with
  | .nan s => if s then 8 else 9
  | .inf n => if n then 0 else 7
  | .fin n m _ =>
    if m = 0 then (if n then 3 else 4)
    else if m < 2 ^ 23 then (if n then 2 else 5) else (if n then 1 else 6)

/-- `fround` (R156): an integral F32 value; only a signalling NaN sets a flag. -/
def fround (mode : Mode) (code : Word) : Word × Flags :=
  match decodeF .f32 code.toNat with
  | .nan s => (0x7FC00000, if s then fINV else fNone)
  | .inf _ => (code, fNone)
  | .fin n m e =>
    let r := roundInt mode n m e
    (BitVec.ofNat 32 (roundTo .f32 .rne n r.1 0 false).1, fNone)

/-- A source or destination of `fcvt` (R85 to R87, R158). -/
inductive CvtFmt where
  | flt (f : Fmt) | i32 | n32
  deriving DecidableEq, Repr

/-- The fcvt codes 0 to 6. -/
def cvtFmt (c : BitVec 3) : CvtFmt :=
  match c.toNat with
  | 0 => .flt .f32 | 1 => .flt .bf16 | 2 => .flt .f16 | 3 => .flt .e4m3 | 4 => .flt .e5m2
  | 5 => .i32 | _ => .n32

/-- The fcvt modes 0 to 4. -/
def cvtMode (c : BitVec 3) : Mode :=
  match c.toNat with
  | 0 => .rne | 1 => .rz | 2 => .rneSat | 3 => .rdn | _ => .rup

/-- Bytes of an element of an fcvt format (R263, R264). -/
def CvtFmt.bytes : CvtFmt → Nat
  | .flt .f32 | .i32 | .n32 => 4
  | .flt .bf16 | .flt .f16 => 2
  | .flt .e4m3 | .flt .e5m2 => 1

/-- `fcvt` of one value (R85 to R87, R158). A signalling NaN sets INV in an exact conversion too (R82; DEDUCED, log entry 88). -/
def fcvt (src dst : CvtFmt) (mode : Mode) (a : Word) : Word × Flags :=
  match src, dst with
  | .i32, .n32 => if a.toInt < 0 then (0, fSAT) else (a, fNone)
  | .n32, .i32 => if 0x7FFFFFFF < a.toNat then (0x7FFFFFFF, fSAT) else (a, fNone)
  | .i32, .i32 => (a, fNone)
  | .n32, .n32 => (a, fNone)
  | .i32, .flt f =>
    let r := roundTo f mode (decide (a.toInt < 0)) a.toInt.natAbs 0 false
    (BitVec.ofNat 32 r.1, r.2)
  | .n32, .flt f =>
    let r := roundTo f mode false a.toNat 0 false
    (BitVec.ofNat 32 r.1, r.2)
  | .flt f, .i32 => toInt f (-2147483648) 2147483647
  | .flt f, .n32 => toInt f 0 4294967295
  | .flt f, .flt g =>
    match decodeF f a.toNat with
    | .nan s => (BitVec.ofNat 32 g.nan, if s then fINV else fNone)
    | .inf n =>
      if g = .e4m3 then
        if mode = .rneSat then (BitVec.ofNat 32 (g.maxCode + if n then g.signBit else 0), fSAT)
        else (BitVec.ofNat 32 g.nan, fINV)
      else (BitVec.ofNat 32 (infR g n).1, fNone)
    | .fin n m e =>
      let r := roundTo g mode n m e false
      (BitVec.ofNat 32 r.1, r.2)
where
  /-- Rounding to an integer between `lo` and `hi` (R86). Any NaN gives 0 with INV (R83, R86), a quiet one of 8 bits too: what R159 says
  of those is about the INV of a signalling source (DEDUCED, log entry 88). -/
  toInt (f : Fmt) (lo hi : Int) : Word × Flags :=
    match decodeF f a.toNat with
    | .nan _ => (0, fINV)
    | .inf n => (BitVec.ofInt 32 (if n then lo else hi), fINV ||| fSAT)
    | .fin n m e =>
      let r := roundInt (if mode = .rneSat then .rne else mode) n m e
      let v : Int := if n then -(r.1 : Int) else r.1
      if v < lo then (BitVec.ofInt 32 lo, fINV ||| fSAT)
      else if hi < v then (BitVec.ofInt 32 hi, fINV ||| fSAT)
      else (BitVec.ofInt 32 v, if r.2 then fINX else fNone)

/-- Floor of a dyadic number. -/
def Dy.floor (a : Dy) : Int := if 0 ≤ a.e then a.m * 2 ^ a.e.toNat else a.m / 2 ^ (-a.e).toNat

/-- An F32 code as an exact number; infinities and NaNs, which the callers exclude, give 0. -/
def dyF32 (c : Nat) : Dy :=
  match decodeF .f32 c with
  | .fin n m e => .ofFin n m e
  | _ => .zero

/-- `exp2_arch` of R95. -/
def exp2Arch (x : Word) : Word × Flags :=
  match decodeF .f32 x.toNat with
  | .nan s => (0x7FC00000, if s then fINV else fNone)
  | .inf n => if n then (0, fNone) else (0x7F800000, fOVF ||| fINX)
  | .fin n m e =>
    let v := Dy.ofFin n m e
    if (Dy.mk 128 0).le v then (0x7F800000, fOVF ||| fINX)
    else if v.lt ⟨-150, 0⟩ then (0, fUNF ||| fINX)
    else
      let k := v.floor
      let f := v.add ⟨-k, 0⟩
      let r (d : Dy) : Dy := dyF32 (d.round .f32 .rne).1
      let t := r (((dyF32 0x3DA2B18D).mul f).add (dyF32 0x3E65E1D7))
      let t := r ((t.mul f).add (dyF32 0x3F32314C))
      let p := r ((t.mul f).add ⟨1, 0⟩)
      let y := roundTo .f32 .rne false p.m.natAbs (p.e + k) false
      let keep := y.2 &&& (fOVF ||| fUNF)
      (BitVec.ofNat 32 y.1, if keep = 0 then fNone else keep ||| fINX)

/-! ### Binned sums (R75, R96 to R99) -/

/-- What an FB128 value means (R75). -/
inductive FB where
  | nan
  | inf (neg : Bool)
  | fin (s : Int)
  deriving DecidableEq, Repr

/-- Classify the 128 bits of a binned value (R75). -/
def fbDecode (b : BitVec 128) : FB :=
  let t := b.toNat / 2 ^ 96
  if t = 0x80000000 then
    if b.toNat % 2 ^ 96 = 1 then .inf false
    else if b.toNat % 2 ^ 96 = 2 then .inf true
    else .nan
  else if t = 0x7FFFFFFF then .nan
  else .fin b.toInt

/-- The code of a binned value (R75). -/
def fbEncode : FB → BitVec 128
  | .nan => 0x80000000000000000000000000000000
  | .inf false => 0x80000000000000000000000000000001
  | .inf true => 0x80000000000000000000000000000002
  | .fin s => BitVec.ofInt 128 s

/-- Lies in the finite range of R75. -/
def fbInRange (s : Int) : Bool := decide (-(2 ^ 127 - 2 ^ 96) ≤ s) && decide (s ≤ 2 ^ 127 - 2 ^ 96 - 1)

/-- e(x) of R96 for a finite nonzero value. -/
def termExp (m : Nat) (e : Int) : Int :=
  let x := e + (bitLen m : Int) - 1
  if x < -126 then -126 else x

/-- `binned_convert` of R97. -/
def binnedConvert (x : Word) (e : Int) : BitVec 128 × Flags :=
  if e < -126 || 127 < e then (fbEncode .nan, fINV)
  else match decodeF .f32 x.toNat with
    | .nan s => (fbEncode .nan, if s then fINV else fNone)
    | .inf n => (fbEncode (.inf n), fNone)
    | .fin n m d =>
      let r := roundInt .rne n m (d + 88 - e)
      let v : Int := if n then -(r.1 : Int) else r.1
      if fbInRange v then (fbEncode (.fin v), if r.2 then fINX else fNone)
      else (fbEncode (.inf n), fBOVF)

/-- `binned_add` of R98. -/
def binnedAdd (a b : BitVec 128) : BitVec 128 × Flags :=
  match fbDecode a, fbDecode b with
  | .nan, _ => (fbEncode .nan, fNone)
  | _, .nan => (fbEncode .nan, fNone)
  | .inf p, .inf q => if p = q then (fbEncode (.inf p), fNone) else (fbEncode .nan, fINV)
  | .inf p, .fin _ => (fbEncode (.inf p), fNone)
  | .fin _, .inf q => (fbEncode (.inf q), fNone)
  | .fin s, .fin t =>
    if fbInRange (s + t) then (fbEncode (.fin (s + t)), fNone)
    else (fbEncode (.inf (decide (s + t < 0))), fBOVF)

/-- `binned_final` of R99. An E outside −126 to 127 is tested before the codes, those of the infinities among them (DESIGN CHOICE, log
entry 97). -/
def binnedFinal (a : BitVec 128) (e : Int) : Word × Flags :=
  if e < -126 || 127 < e then (0x7FC00000, fINV)
  else match fbDecode a with
    | .nan => (0x7FC00000, fNone)
    | .inf n => (BitVec.ofNat 32 (infR .f32 n).1, fNone)
    | .fin s =>
      let r := Dy.round .f32 .rne ⟨s, e - 88⟩
      (BitVec.ofNat 32 r.1, r.2)

end Sys2Proof.Num
end

