-- ==== Sys2Proof/Config.lean ====
section
/-!
DEFINITION. Free values: what the manual leaves open and the machine goes on with. Each is a constant without a body, so
that no proof can see what it is. Where a fresh value is needed each time, it is applied to a counter of the state.
-/

namespace Sys2Proof.Config

/-- Cycles that have passed on a core since CYC was last read, by the count of steps (R5; DESIGN CHOICE, log entry 10). -/
opaque elapsed : Nat → Nat
/-- Which of the states of a dictionary table that R57 leaves open a reference uses, by the count of steps (R57; DESIGN CHOICE, log entry
21). -/
opaque staleTable : Nat → Nat
/-- Whether a read that hits in an L1 fetches its 32-byte sector anew, by the count of steps (R212, R242; DESIGN CHOICE, log entry 7). -/
opaque sectorMiss : Nat → Bool
/-- A count of `prof` that measures time (counters 0, 3, 4 and 5 of R391), by the count of steps (DESIGN CHOICE, log entry 11). -/
opaque profTime : Nat → DWord
/-- Bytes that one staged entry takes of the 64 MiB of a die (R240; DESIGN CHOICE, log entry 14). -/
opaque stagedEntryBytes : Nat
/-- How many teams of a launch of a given length its part area provides for, at most all of them (R21; DESIGN CHOICE, log entry 18). -/
opaque liveTeams : Nat → Nat
/-- Bytes that the save area and spilled-monitor area of a context take of its partition's pool (R285; DESIGN CHOICE, log entry
18). -/
opaque areaBytes : Nat → Nat
/-- This module's device id in its load-store domain (R329, R349; DESIGN CHOICE, log entry 22). -/
opaque deviceId : BitVec 9
/-- Whether a device id is one of this module's load-store domain (R267; DESIGN CHOICE, log entry 22). -/
opaque inDomain : BitVec 9 → Bool
/-- The die beside which a UALink port lies (R336; DESIGN CHOICE, log entry 22). -/
opaque portDie : BitVec 3 → BitVec 2
/-- The PASID of a partition's process on its VF (R337, R342; DESIGN CHOICE, log entry 12). -/
opaque pasid : BitVec 6 → BitVec 20
/-- Length of the range that a peer's partition exports to this device (R349; DESIGN CHOICE, log entry 22). -/
opaque peerLength : BitVec 9 → BitVec 6 → Nat
/-- Read right of the range that a peer's partition exports to this device (R349; DESIGN CHOICE, log entry 22). -/
opaque peerRead : BitVec 9 → BitVec 6 → Bool
/-- Write right of the range that a peer's partition exports to this device (R349; DESIGN CHOICE, log entry 22). -/
opaque peerWrite : BitVec 9 → BitVec 6 → Bool
/-- What a peer answers for a page of its exported range, by the count of steps and the page: 0 it is not resident, 1 the data
are poisoned, else it is there (R335, R349; DESIGN CHOICE, log entry 22). -/
opaque peerPage : Nat → Nat → Nat
/-- Contents of messages, keys, nonces and digests that the manual does not give, by the count of steps (DESIGN CHOICE, log entry 12). -/
opaque content : Nat → Nat
/-- Whether a signature verifies, under the key with the given digest, over the three fields that are bytes 0 to 47 of a debug policy
(R350; DESIGN CHOICE, log entry 12). -/
opaque signatureValid : Nat → DWord → BitVec 256 → DWord → Nat → Bool
/-- Whether a firmware image carries a valid Rhoyn signature (R348; DESIGN CHOICE, log entry 12). -/
opaque imageValid : Nat → Bool
/-- The fused minimum security version of a kind of firmware, 0 SP, 1 MC, 2 microcode (R348; DESIGN CHOICE, log entry 12). -/
opaque minVersion : Nat → Nat
/-- The version of the firmware that a module is delivered with (R348; DESIGN CHOICE, log entry 12). -/
opaque shippedVersion : Nat → Nat
/-- The image of the firmware that a module is delivered with (R348; DESIGN CHOICE, log entry 12). -/
opaque shippedImage : Nat → Nat
/-- The digest of what a measurement block covers, by the block and the image, if any (R348; DESIGN CHOICE, log entry 12). -/
opaque digest : Nat → Nat → Nat
/-- The digest of SP firmware with its security version number (R348; DESIGN CHOICE, log entry 12). -/
opaque versionDigest : Nat → Nat → Nat
/-- The digest of an interface report: quads, pool, quantum, BAR layout, feature bits, policy digest (R348; DESIGN CHOICE, log entry 12). -/
opaque reportDigest : List Nat → Nat → Nat → Nat → DWord → Nat → Nat
/-- The digest of an interface report with its quad map only (R348; DESIGN CHOICE, log entry 12). -/
opaque quadDigest : List Nat → Nat
/-- The BAR layout of a VF (R343, R348; DESIGN CHOICE, log entry 12). -/
opaque barLayout : BitVec 6 → Nat
/-- The Rhoyn root certificate, and the device certificate, whose key comes from a fused secret (R347; DESIGN CHOICE, log entry 12). -/
opaque rootCert : Nat
/-- The device certificate (R347; DESIGN CHOICE, log entry 12). -/
opaque deviceCert : Nat
/-- The alias certificate, whose key comes from the device secret and measurements 1 to 5 (R347; DESIGN CHOICE, log entry 12). -/
opaque aliasCert : List Nat → Nat
/-- The alias key (R347; DESIGN CHOICE, log entry 12). -/
opaque aliasKey : List Nat → Nat
/-- The digest of a certificate chain (R347; DESIGN CHOICE, log entry 12). -/
opaque chainDigest : Nat → Nat → Nat → Nat
/-- Module power, by the count of steps (R351; DESIGN CHOICE, log entry 12). -/
opaque power : Nat → Nat
/-- Temperature of a die, by the count of steps (R351; DESIGN CHOICE, log entry 12). -/
opaque dieTemperature : Nat → Nat → Nat
/-- CAUSE of a record for which the manual names none (R364, R365; DESIGN CHOICE, log entry 26), by the count of steps. -/
opaque noteCause : Nat → BitVec 8
/-- DETAIL of such a record (DESIGN CHOICE, log entry 26). -/
opaque noteDetail : Nat → BitVec 8
/-- Whether the safe-tier device is attested (R377; DESIGN CHOICE, log entry 12). -/
opaque tierAttested : BitVec 9 → Bool
/-- Whether the tags of an image's chunks and manifest verify at a restore, by the count of steps and the partition (R379; DESIGN
CHOICE, log entry 29). -/
opaque imageTags : Nat → BitVec 6 → Bool
/-- Whether the saved state of a context passes its checks at a restore, by the count of steps and the context (R379; DESIGN CHOICE, log
entry 29). -/
opaque stateSound : Nat → Nat → Bool
/-- Whether the peers of an exported or imported window attest again at a restore (R379; DESIGN CHOICE, log entry 12). -/
opaque peerRepairs : BitVec 9 → Bool
/-- Whether a host's table has a page that the device table does not list, by the count of steps and the address (R334; DESIGN CHOICE, log
entry 31). -/
opaque hostMaps : Nat → Nat → Bool
/-- Whether a copy whose ranges overlap reads an element's source bytes as they stood before it wrote any of them, by the command
and the element's address (R264; DESIGN CHOICE, log entry 66). -/
opaque copyReadsOld : Nat → Nat → Bool
/-- Which of several free numbers the device takes where the manual leaves it open: 0 context ids, 1 box slots, 2 team slots, 3
group slots, 4 pages of the table area, 5 lines of a drain that have landed when its box is settled, 6 steps of a pass that are
applied when its context is pre-empted; by a count (R135, R200, R258, R285, R411; DESIGN CHOICE, log entry 32). -/
opaque choice : Nat → Nat → Nat
/-- Bytes of a checkpoint image, by the count of steps and the partition (R377, R378; DESIGN CHOICE, log entry 23). -/
opaque imageBytes : Nat → Nat

end Sys2Proof.Config
end

