-- ==== Sys2Proof/Syntax.lean ====
section
/-!
DEFINITION. The instructions of the Zyndal instruction architecture and the operations of the C9 around them: one
constructor of `Instr` for every row of the table of operations (spec/opcode_table.json). An encoded form carries the
fields its encoding gives it (R41, R42), grouped by format; an operation without an encoding (a host write, a message, a
step of an engine or of the memory system) carries what identifies it.
-/

namespace Sys2Proof

/-- Operands: compact lane operation (R38). -/
structure OpC where
  vd : BitVec 5
  vs : BitVec 5
  deriving DecidableEq, Repr

/-- Operands: dictionary reference (R40). -/
structure OpRef where
  entry : BitVec 7
  ha : BitVec 4
  hb : BitVec 3
  deriving DecidableEq, Repr

/-- Operands: format R with two sources (R41). -/
structure OpR where
  pk : BitVec 2
  vd : BitVec 6
  va : BitVec 6
  vb : BitVec 6
  wa : Bool
  wb : Bool
  deriving DecidableEq, Repr

/-- Operands: format R with one source (R41). -/
structure OpR1 where
  pk : BitVec 2
  vd : BitVec 6
  va : BitVec 6
  wa : Bool
  deriving DecidableEq, Repr

/-- Operands: format F, vd also the third source (R41). -/
structure OpF where
  pk : BitVec 2
  vd : BitVec 6
  va : BitVec 6
  vb : BitVec 6
  wa : Bool
  wb : Bool
  wc : Bool
  deriving DecidableEq, Repr

/-- Operands: format R-cmp (R41). -/
structure OpCmp where
  pk : BitVec 2
  kd : BitVec 3
  cond : BitVec 3
  va : BitVec 6
  vb : BitVec 6
  wa : Bool
  wb : Bool
  deriving DecidableEq, Repr

/-- Operands: format I (R41). -/
structure OpI where
  pk : BitVec 2
  vd : BitVec 6
  va : BitVec 6
  wa : Bool
  imm : BitVec 10
  deriving DecidableEq, Repr

/-- Operands: shfi: kind and count in the immediate (R150). -/
structure OpShfi where
  pk : BitVec 2
  vd : BitVec 6
  va : BitVec 6
  wa : Bool
  count : BitVec 5
  kind : BitVec 2
  deriving DecidableEq, Repr

/-- Operands: movi (R149). -/
structure OpMovi where
  pk : BitVec 2
  vd : BitVec 6
  imm : BitVec 10
  deriving DecidableEq, Repr

/-- Operands: format W (R41). -/
structure OpW where
  pk : BitVec 2
  vd : BitVec 6
  imm : BitVec 16
  deriving DecidableEq, Repr

/-- Operands: fround, the mode in vb (R156). -/
structure OpFround where
  pk : BitVec 2
  vd : BitVec 6
  va : BitVec 6
  mode : BitVec 6
  wa : Bool
  deriving DecidableEq, Repr

/-- Operands: fcvt: mode in sub, source and destination formats in vb (R158). -/
structure OpFcvt where
  pk : BitVec 2
  vd : BitVec 6
  va : BitVec 6
  dst : BitVec 3
  src : BitVec 3
  wa : Bool
  mode : BitVec 3
  deriving DecidableEq, Repr

/-- Operands: reductions, the operation in vb (R174). -/
structure OpRedux where
  pk : BitVec 2
  vd : BitVec 6
  va : BitVec 6
  op : BitVec 6
  wa : Bool
  deriving DecidableEq, Repr

/-- Operands: mask operation with two mask sources (R175). -/
structure OpK2 where
  pk : BitVec 2
  kd : BitVec 3
  ka : BitVec 3
  kb : BitVec 3
  deriving DecidableEq, Repr

/-- Operands: mask operation with one mask source (R175). -/
structure OpK1 where
  pk : BitVec 2
  kd : BitVec 3
  ka : BitVec 3
  deriving DecidableEq, Repr

/-- Operands: mask count or search into a lane register (R176). -/
structure OpKv where
  pk : BitVec 2
  vd : BitVec 6
  ka : BitVec 3
  deriving DecidableEq, Repr

/-- Operands: vbcast (R177). -/
structure OpVbcast where
  pk : BitVec 2
  vd : BitVec 6
  sa : BitVec 5
  hi : Bool
  wa : Bool
  deriving DecidableEq, Repr

/-- Operands: vread (R177). -/
structure OpVread where
  sd : BitVec 5
  va : BitVec 6
  lane : BitVec 6
  wa : Bool
  deriving DecidableEq, Repr

/-- Operands: kget (R177). -/
structure OpKget where
  sd : BitVec 5
  ka : BitVec 3
  deriving DecidableEq, Repr

/-- Operands: kset (R177). -/
structure OpKset where
  pk : BitVec 2
  kd : BitVec 3
  sa : BitVec 5
  wa : Bool
  deriving DecidableEq, Repr

/-- Operands: emget (R177). -/
structure OpEmget where
  sd : BitVec 5
  deriving DecidableEq, Repr

/-- Operands: emset (R177). -/
structure OpEmset where
  sa : BitVec 5
  wa : Bool
  deriving DecidableEq, Repr

/-- Operands: emand (R177). -/
structure OpEmand where
  ka : BitVec 3
  deriving DecidableEq, Repr

/-- Operands: format U with sd, sa, sb (R41). -/
structure OpU where
  sd : BitVec 5
  sa : BitVec 5
  sb : BitVec 5
  wsa : Bool
  wsb : Bool
  deriving DecidableEq, Repr

/-- Operands: format V (R41). -/
structure OpV where
  sd : BitVec 5
  sa : BitVec 5
  wsa : Bool
  imm : BitVec 11
  deriving DecidableEq, Repr

/-- Operands: smovi (R181). -/
structure OpSmovi where
  sd : BitVec 5
  imm : BitVec 11
  deriving DecidableEq, Repr

/-- Operands: format M (R41): x, kr or scope, size. -/
structure OpM where
  pk : BitVec 2
  vt : BitVec 6
  va : BitVec 6
  wa : Bool
  wt : Bool
  size : BitVec 3
  kr : BitVec 2
  x : BitVec 4
  deriving DecidableEq, Repr

/-- Operands: fence, the scope in sd (R252). -/
structure OpFence where
  scope : BitVec 5
  deriving DecidableEq, Repr

/-- Operands: pgreq (R253). -/
structure OpPgreq where
  pk : BitVec 2
  va : BitVec 6
  wa : Bool
  size : BitVec 3
  kr : BitVec 2
  deriving DecidableEq, Repr

/-- Operands: pfch (R253). -/
structure OpPfch where
  pk : BitVec 2
  va : BitVec 6
  wa : Bool
  size : BitVec 3
  deriving DecidableEq, Repr

/-- Operands: box access in format M (R254): handle register in x. -/
structure OpB where
  pk : BitVec 2
  vt : BitVec 6
  va : BitVec 6
  wa : Bool
  wt : Bool
  size : BitVec 3
  kr : BitVec 2
  sh : BitVec 4
  deriving DecidableEq, Repr

/-- Operands: format M-A (R255). -/
structure OpMA where
  pk : BitVec 2
  vt : BitVec 6
  va : BitVec 6
  wa : Bool
  wt : Bool
  op : BitVec 5
  sh : BitVec 4
  deriving DecidableEq, Repr

/-- Operands: bxnew (R257). -/
structure OpBxnew where
  sd : BitVec 5
  sa : BitVec 5
  f : Bool
  deriving DecidableEq, Repr

/-- Operands: format X with sa only (R257, R206). -/
structure OpXa where
  sa : BitVec 5
  deriving DecidableEq, Repr

/-- Operands: bxgive (R257). -/
structure OpXab where
  sa : BitVec 5
  sb : BitVec 5
  deriving DecidableEq, Repr

/-- Operands: format X with sd and f only (bxtake, mpick). -/
structure OpXd where
  sd : BitVec 5
  f : Bool
  deriving DecidableEq, Repr

/-- Operands: bxlend (R257); f is 1. -/
structure OpBxlend where
  sa : BitVec 5
  sb : BitVec 5
  chit : BitVec 6
  deriving DecidableEq, Repr

/-- Operands: bxinfo (R257). -/
structure OpXad where
  sd : BitVec 5
  sa : BitVec 5
  deriving DecidableEq, Repr

/-- Operands: cpy (R263). -/
structure OpCpy where
  sa : BitVec 5
  chit : BitVec 6
  f : Bool
  deriving DecidableEq, Repr

/-- Operands: cpyx (R265). -/
structure OpCpyx where
  vi : BitVec 5
  sa : BitVec 5
  sb : BitVec 5
  chit : BitVec 6
  f : Bool
  deriving DecidableEq, Repr

/-- Operands: format X with sa, sb, chit and f (cpyq, collectives, mdec). -/
structure OpX2 where
  sa : BitVec 5
  sb : BitVec 5
  chit : BitVec 6
  f : Bool
  deriving DecidableEq, Repr

/-- Operands: format U with sd and sa. -/
structure OpUad where
  sd : BitVec 5
  sa : BitVec 5
  wsa : Bool
  deriving DecidableEq, Repr

/-- Operands: format U with sa only. -/
structure OpUa where
  sa : BitVec 5
  wsa : Bool
  deriving DecidableEq, Repr

/-- Operands: chget (R269). -/
structure OpChget where
  sd : BitVec 5
  sa : BitVec 5
  wsa : Bool
  err : Bool
  deriving DecidableEq, Repr

/-- Operands: sqres (R271). -/
structure OpSqres where
  sd : BitVec 5
  sa : BitVec 5
  sb : BitVec 5
  wsa : Bool
  wsb : Bool
  try_ : Bool
  deriving DecidableEq, Repr

/-- Operands: format U with a third source in bits 14:10 (sqcom, sqfork). -/
structure OpUn where
  sn : BitVec 5
  sa : BitVec 5
  sb : BitVec 5
  wsa : Bool
  wsb : Bool
  deriving DecidableEq, Repr

/-- Operands: sqlen (R271). -/
structure OpSqlen where
  sd : BitVec 5
  sa : BitVec 5
  wsa : Bool
  cl : BitVec 4
  loc : Bool
  deriving DecidableEq, Repr

/-- Operands: sqwait (R271). -/
structure OpSqwait where
  sd : BitVec 5
  sa : BitVec 5
  sb : BitVec 5
  wsa : Bool
  wsb : Bool
  cl : BitVec 4
  loc : Bool
  deriving DecidableEq, Repr

/-- Operands: sqbind (R271). -/
structure OpSqbind where
  sa : BitVec 5
  wsa : Bool
  cl : BitVec 4
  off : Bool
  deriving DecidableEq, Repr

/-- Operands: format U with sa and sb (sqext, dload). -/
structure OpUab where
  sa : BitVec 5
  sb : BitVec 5
  wsa : Bool
  wsb : Bool
  deriving DecidableEq, Repr

/-- Operands: sqinfo (R271). -/
structure OpSqinfo where
  sd : BitVec 5
  sa : BitVec 5
  wsa : Bool
  k : BitVec 5
  deriving DecidableEq, Repr

/-- Operands: menc (R190). -/
structure OpMenc where
  sp : BitVec 5
  sa : BitVec 5
  sb : BitVec 5
  chit : BitVec 6
  f : Bool
  deriving DecidableEq, Repr

/-- Operands: mpost (R194). -/
structure OpMpost where
  ctx : BitVec 3
  sa : BitVec 5
  sb : BitVec 5
  chit : BitVec 6
  f : Bool
  deriving DecidableEq, Repr

/-- Operands: mma and mstore (R183): shape or scope in s. -/
structure OpMma where
  acc : BitVec 2
  s : BitVec 2
  sa : BitVec 5
  sb : BitVec 5
  chit : BitVec 6
  f : Bool
  deriving DecidableEq, Repr

/-- Operands: mmb (R198). -/
structure OpMmb where
  acc : BitVec 2
  shape : BitVec 3
  sa : BitVec 5
  sb : BitVec 5
  chit : BitVec 6
  f : Bool
  deriving DecidableEq, Repr

/-- Operands: mzero (R199). -/
structure OpMzero where
  acc : BitVec 2
  chit : BitVec 6
  f : Bool
  deriving DecidableEq, Repr

/-- Operands: mdrain (R200). -/
structure OpMdrain where
  acc : BitVec 2
  sa : BitVec 5
  chit : BitVec 6
  f : Bool
  deriving DecidableEq, Repr

/-- Operands: mscale (R203). -/
structure OpMscale where
  acc : BitVec 2
  sa : BitVec 5
  f : Bool
  deriving DecidableEq, Repr

/-- Operands: mwait (R204). -/
structure OpMwait where
  mask : BitVec 4
  all : Bool
  deriving DecidableEq, Repr

/-- Operands: msig (R205). -/
structure OpMsig where
  mask : BitVec 4
  sa : BitVec 5
  deriving DecidableEq, Repr

/-- Operands: branch on a mask (R311). -/
structure OpBk where
  k : BitVec 3
  disp : BitVec 19
  deriving DecidableEq, Repr

/-- Operands: branch on a uniform register (R313). -/
structure OpBs where
  cond : BitVec 3
  sa : BitVec 5
  disp : BitVec 17
  deriving DecidableEq, Repr

/-- Operands: jump (R314). -/
structure OpJ where
  disp : BitVec 19
  deriving DecidableEq, Repr

/-- Operands: call (R315). -/
structure OpCall where
  frame : BitVec 3
  disp : BitVec 19
  deriving DecidableEq, Repr

/-- Operands: callr (R315). -/
structure OpCallr where
  sa : BitVec 5
  wsa : Bool
  frame : BitVec 3
  deriving DecidableEq, Repr

/-- Operands: join token (R319). -/
structure OpTok where
  tok : BitVec 4
  deriving DecidableEq, Repr

/-- Operands: 5-bit code (brkp, trap). -/
structure OpCode where
  code : BitVec 5
  deriving DecidableEq, Repr

/-- Operands: watch (R324). -/
structure OpWatch where
  sd : BitVec 5
  sa : BitVec 5
  sb : BitVec 5
  wsa : Bool
  wsb : Bool
  is64 : Bool
  deriving DecidableEq, Repr

/-- Operands: team barrier number (R325). -/
structure OpTbar where
  num : BitVec 4
  deriving DecidableEq, Repr

/-- Operands: route tag (R325). -/
structure OpRtag where
  num : BitVec 3
  deriving DecidableEq, Repr

/-- Operands: tret mode (R385). -/
structure OpTret where
  mode : BitVec 2
  deriving DecidableEq, Repr

/-- Operands: sget (R387). -/
structure OpSget where
  sd : BitVec 5
  sel : BitVec 5
  deriving DecidableEq, Repr

/-- Operands: sset (R387). -/
structure OpSset where
  sa : BitVec 5
  wsa : Bool
  sel : BitVec 5
  deriving DecidableEq, Repr

/-- Operands: prof (R391). -/
structure OpProf where
  sd : BitVec 5
  cnt : BitVec 5
  deriving DecidableEq, Repr

/-- Operands: fltget (R392). -/
structure OpFltget where
  vn : BitVec 5
  frame : BitVec 2
  deriving DecidableEq, Repr

/-- Operands: fltget.mask (R392). -/
structure OpFltmask where
  sd : BitVec 5
  frame : BitVec 2
  deriving DecidableEq, Repr

/-- A PCIe function: the operator's PF, or a tenant's VF (R342). -/
inductive Fn where
  | pf
  | vf (i : BitVec 6)
  deriving DecidableEq, Repr

/-- What executes an instruction: nothing, the part with this identifier, or the sequencer context `quad * 8 + index`
(R11, R18). -/
inductive Agent where
  | none
  | part (pid : Nat)
  | seq (sc : Nat)
  deriving DecidableEq, Repr

/-- A barrier of R294: of a team, of a cluster (route tag) or of a whole launch (route tag). -/
inductive Barrier where
  | team (tid : Nat) (num : Nat)
  | cluster (uid : Nat) (num : Nat)
  | grid (ctx : Nat) (num : Nat)
  deriving DecidableEq, Repr

/-- The signed record of R350: word 0, the nonce, word 5 and the signature, with the digest of the key that signed. -/
structure Policy where
  head : BitVec 64
  nonce : BitVec 256
  grants : BitVec 64
  keyDigest : Nat
  sig : Nat
  deriving DecidableEq, Repr

/-- The measured firmware of R348. -/
inductive FirmwareKind where
  | sp | mc | microcode
  deriving DecidableEq, Repr

/-- A firmware image the operator presents (R348). -/
structure Firmware where
  kind : FirmwareKind
  version : Nat
  image : Nat
  deriving DecidableEq, Repr

/-- The links of R371. -/
inductive Link where
  | fabric | ualink (port : BitVec 3) | pcie
  deriving DecidableEq, Repr

/-- The kinds of access one agent makes for another: a plain read or write, or an atomic of R250. -/
inductive AccKind where
  | read
  | write
  | atomic (op : BitVec 4) (size : BitVec 3)
  deriving DecidableEq, Repr

/-- An access that arrives from a peer device through its window onto this one (R349): the peer, its partition, the
exporting partition here and the offset in its window, with the bytes written or the atomic's operand bytes, and the UALink
port that received it (R336). -/
structure PeerAccess where
  dev : BitVec 9
  port : BitVec 3
  part : BitVec 6
  target : BitVec 6
  offset : Nat
  kind : AccKind
  len : Nat
  data : List (BitVec 8)
  tag : Nat
  deriving DecidableEq, Repr

/-- A collective message from another device of the domain (R267, R268): a send with its bytes, a receive that waits, or
an `xred` word with that device's buffer. -/
structure PeerCollective where
  dev : BitVec 9
  kind : BitVec 2
  chan : BitVec 6
  word : BitVec 64
  data : List (BitVec 8)
  deriving DecidableEq, Repr

/-- A host access to partition memory on the device (R222). -/
structure HostAccess where
  part : BitVec 6
  va : Nat
  write : Bool
  len : Nat
  data : List (BitVec 8)
  deriving DecidableEq, Repr

/-- What a scrubber reads (R373): the structures of R371 that can be poisoned or that kill their context. -/
inductive ScrubLoc where
  | laneWord (gid phys lane : Nat)
  | uniform (who : Agent) (reg : Nat)
  | mask (gid reg : Nat)
  | accElem (sc acc elem : Nat)
  | dictEntry (core entry : Nat)
  | sector (phys : Nat)
  | copySector (die phys : Nat)
  | boxGranule (core slot offset : Nat) (escrow : Bool)
  | queueEntry (quad queue index : Nat)
  | fifoEntry (quad index : Nat)
  | control (ctx : Nat)
  | tableLine (part : BitVec 6) (va : Nat)
  | tlbEntry (quad index : Nat)
  deriving DecidableEq, Repr

/-- What the protection code says of the location read (R371, R373). -/
inductive SoftError where
  | clean | correctable | uncorrectable
  deriving DecidableEq, Repr


/-- Every row of the table of operations, in the table's order. -/
inductive Instr where
  /-- COMPACT_MOV: Compact 16-bit move VD := VS, executing as mov of major 0x04; halfword 0x0000 is nop (R38) -/
  | compactMov (o : OpC)
  /-- COMPACT_IADD: Compact 16-bit iadd VD := VD + VS, executing as the 32-bit iadd with pk 0 and wait bits 0 (R38) -/
  | compactIadd (o : OpC)
  /-- COMPACT_ISUB: Compact 16-bit isub VD := VD - VS (R38) -/
  | compactIsub (o : OpC)
  /-- COMPACT_IMUL: Compact 16-bit imul VD := VD x VS (R38) -/
  | compactImul (o : OpC)
  /-- COMPACT_AND: Compact 16-bit and VD := VD AND VS (R38) -/
  | compactAnd (o : OpC)
  /-- COMPACT_OR: Compact 16-bit or VD := VD OR VS (R38) -/
  | compactOr (o : OpC)
  /-- COMPACT_XOR: Compact 16-bit xor VD := VD XOR VS (R38) -/
  | compactXor (o : OpC)
  /-- COMPACT_SHL: Compact 16-bit shl VD := VD << VS (R38) -/
  | compactShl (o : OpC)
  /-- COMPACT_SHR: Compact 16-bit logical shift right (R38) -/
  | compactShr (o : OpC)
  /-- COMPACT_SAR: Compact 16-bit arithmetic shift right (R38) -/
  | compactSar (o : OpC)
  /-- COMPACT_IMIN_I32: Compact 16-bit signed minimum (R38) -/
  | compactIminI32 (o : OpC)
  /-- COMPACT_IMAX_I32: Compact 16-bit signed maximum (R38) -/
  | compactImaxI32 (o : OpC)
  /-- COMPACT_FADD: Compact 16-bit F32 add (R38) -/
  | compactFadd (o : OpC)
  /-- COMPACT_FSUB: Compact 16-bit F32 subtract (R38) -/
  | compactFsub (o : OpC)
  /-- COMPACT_FMUL: Compact 16-bit F32 multiply (R38) -/
  | compactFmul (o : OpC)
  /-- COMPACT_FMAX: Compact 16-bit F32 maximum (R38) -/
  | compactFmax (o : OpC)
  /-- DICTIONARY_REFERENCE: 16-bit reference that fills the holes of a dictionary entry from HA and HB and executes the filled instruction, or raises DICT or UNDEF (R53) -/
  | dictionaryReference (o : OpRef)
  /-- IADD: Lane integer add modulo 2^32 (R141) -/
  | iadd (o : OpR)
  /-- ISUB: Lane integer subtract modulo 2^32 (R141) -/
  | isub (o : OpR)
  /-- IADDSAT_I32: Signed saturating add, setting SAT when clamped (R141) -/
  | iaddsatI32 (o : OpR)
  /-- IADDSAT_N32: Unsigned saturating add, setting SAT when clamped (R141) -/
  | iaddsatN32 (o : OpR)
  /-- IMUL: Low 32 bits of the product (R141) -/
  | imul (o : OpR)
  /-- IMULH_I32: High 32 bits of the signed product (R141) -/
  | imulhI32 (o : OpR)
  /-- IMULH_N32: High 32 bits of the unsigned product (R141) -/
  | imulhN32 (o : OpR)
  /-- INEG: Integer negation modulo 2^32 (R141) -/
  | ineg (o : OpR1)
  /-- IMIN_I32: Signed lane minimum (R142) -/
  | iminI32 (o : OpR)
  /-- IMIN_N32: Unsigned lane minimum (R142) -/
  | iminN32 (o : OpR)
  /-- IMAX_I32: Signed lane maximum (R142) -/
  | imaxI32 (o : OpR)
  /-- IMAX_N32: Unsigned lane maximum (R142) -/
  | imaxN32 (o : OpR)
  /-- AND: Bitwise AND (R142) -/
  | and (o : OpR)
  /-- OR: Bitwise OR (R142) -/
  | or (o : OpR)
  /-- XOR: Bitwise XOR (R142) -/
  | xor (o : OpR)
  /-- ANDN: va AND NOT vb (R142) -/
  | andn (o : OpR)
  /-- SHL: Shift left by vb mod 32 (R143) -/
  | shl (o : OpR)
  /-- SHR: Logical shift right (R143) -/
  | shr (o : OpR)
  /-- SAR: Arithmetic shift right (R143) -/
  | sar (o : OpR)
  /-- ROTL: Rotate left (R143) -/
  | rotl (o : OpR)
  /-- CLZ: Count leading zeros (R143) -/
  | clz (o : OpR1)
  /-- POPC: Population count (R143) -/
  | popc (o : OpR1)
  /-- BREV: Bit reverse (R143) -/
  | brev (o : OpR1)
  /-- NOT: Bitwise NOT (R143) -/
  | not (o : OpR1)
  /-- BFX_N32: Unsigned bit-field extract with position and length from vb (R144) -/
  | bfxN32 (o : OpR)
  /-- BFX_I32: Signed bit-field extract (R144) -/
  | bfxI32 (o : OpR)
  /-- BFI: Bit-field insert into vd (R144) -/
  | bfi (o : OpR)
  /-- SEL: Per-lane select of va or vb under mask kN over every lane of EM (R145) -/
  | sel (o : OpR)
  /-- MOV: Lane register move (R146) -/
  | mov (o : OpR1)
  /-- LEA_1: va + (vb << 1) modulo 2^32 (R146) -/
  | lea1 (o : OpR)
  /-- LEA_2: va + (vb << 2) modulo 2^32 (R146) -/
  | lea2 (o : OpR)
  /-- LEA_3: va + (vb << 3) modulo 2^32 (R146) -/
  | lea3 (o : OpR)
  /-- IMAD: Integer multiply-add va x vb + vd modulo 2^32 (R147) -/
  | imad (o : OpF)
  /-- ICMP_I32: Signed compare writing mask bits of kd for active lanes (R148) -/
  | icmpI32 (o : OpCmp)
  /-- ICMP_N32: Unsigned compare writing mask bits of kd (R148) -/
  | icmpN32 (o : OpCmp)
  /-- IADDI: Add a signed 10-bit immediate (R149) -/
  | iaddi (o : OpI)
  /-- ANDI: AND with a sign-extended immediate (R149) -/
  | andi (o : OpI)
  /-- ORI: OR with a sign-extended immediate (R149) -/
  | ori (o : OpI)
  /-- XORI: XOR with a sign-extended immediate (R149) -/
  | xori (o : OpI)
  /-- SHFI: Shift or rotate by a constant count of kind shl, shr, sar or rotl (R150) -/
  | shfi (o : OpShfi)
  /-- MOVI: Move a sign-extended 10-bit immediate (R149) -/
  | movi (o : OpMovi)
  /-- MOVW: Move a zero-extended 16-bit immediate (R151) -/
  | movw (o : OpW)
  /-- MOVW_HI: Replace the high 16 bits of vd with an immediate (R151) -/
  | movwHi (o : OpW)
  /-- FADD: F32 add rounded once RNE (R152) -/
  | fadd (o : OpR)
  /-- FSUB: F32 subtract (R152) -/
  | fsub (o : OpR)
  /-- FMUL: F32 multiply (R152) -/
  | fmul (o : OpR)
  /-- FDIV: Correctly rounded F32 divide (R152) -/
  | fdiv (o : OpR)
  /-- FMIN: F32 minimum under the total order, NaN propagating (R152) -/
  | fmin (o : OpR)
  /-- FMAX: F32 maximum, NaN propagating (R152) -/
  | fmax (o : OpR)
  /-- FMINN: F32 minimum preferring the number (R152) -/
  | fminn (o : OpR)
  /-- FMAXN: F32 maximum preferring the number (R152) -/
  | fmaxn (o : OpR)
  /-- FFMA: Fused multiply-add va x vb + vd rounded once (R153) -/
  | ffma (o : OpF)
  /-- FNMA: Fused vd - va x vb rounded once (R153) -/
  | fnma (o : OpF)
  /-- PFMA_BF16X2: Packed BF16 fused multiply-add per element (R153) -/
  | pfmaBf16x2 (o : OpF)
  /-- PFMA_F16X2: Packed F16 fused multiply-add per element (R153) -/
  | pfmaF16x2 (o : OpF)
  /-- FSQRT: Correctly rounded F32 square root (R154) -/
  | fsqrt (o : OpR1)
  /-- FRCP: F32 reciprocal (R154) -/
  | frcp (o : OpR1)
  /-- FRSQ: F32 reciprocal square root (R154) -/
  | frsq (o : OpR1)
  /-- EXP2: Architected exp2 approximation exp2_arch (R95) -/
  | exp2 (o : OpR1)
  /-- FNEG: Invert the sign bit; NaN gives the canonical NaN (R154) -/
  | fneg (o : OpR1)
  /-- FABS: Clear the sign bit; NaN gives the canonical NaN (R154) -/
  | fabs (o : OpR1)
  /-- FCLASS: Write the one-hot class mask of an F32 value (R155) -/
  | fclass (o : OpR1)
  /-- FROUND: Round F32 to an integral F32 under the mode in vb (R156) -/
  | fround (o : OpFround)
  /-- FCMP_F32: Quiet F32 compare into mask kd (R157) -/
  | fcmpF32 (o : OpCmp)
  /-- FCMP_F16: Quiet F16 compare into mask kd (R157) -/
  | fcmpF16 (o : OpCmp)
  /-- FCMP_BF16: Quiet BF16 compare into mask kd (R157) -/
  | fcmpBf16 (o : OpCmp)
  /-- FCVT: Convert between the seven fcvt formats under the rounding mode in sub (R158) -/
  | fcvt (o : OpFcvt)
  /-- PADD_BF16X2: Packed BF16 add (R160) -/
  | paddBf16x2 (o : OpR)
  /-- PADD_F16X2: Packed F16 add (R160) -/
  | paddF16x2 (o : OpR)
  /-- PMUL_BF16X2: Packed BF16 multiply (R160) -/
  | pmulBf16x2 (o : OpR)
  /-- PMUL_F16X2: Packed F16 multiply (R160) -/
  | pmulF16x2 (o : OpR)
  /-- PK2H: Pack two 16-bit values into one register (R161) -/
  | pk2h (o : OpR)
  /-- FSCALE: va x 2^vb rounded once (R162) -/
  | fscale (o : OpR)
  /-- BEXP: Block exponent of the active lanes' terms (R163) -/
  | bexp (o : OpR1)
  /-- BCVT: Convert an F32 term to FB128 under exponent E (R163) -/
  | bcvt (o : OpR)
  /-- BADD: Exact FB128 addition of two quads (R163) -/
  | badd (o : OpR)
  /-- BFIN: Round an FB128 sum once to F32 (R163) -/
  | bfin (o : OpR)
  /-- SHFL_IDX: Shuffle from lane vb within the active set (R170) -/
  | shflIdx (o : OpR)
  /-- SHFL_XOR: Shuffle from lane l XOR c (R170) -/
  | shflXor (o : OpR)
  /-- SHFL_UP: Shuffle from lane l - c (R170) -/
  | shflUp (o : OpR)
  /-- SHFL_DOWN: Shuffle from lane l + c (R170) -/
  | shflDown (o : OpR)
  /-- BALLOT: Write the 64-bit set of active lanes with nonzero va to a register pair (R171) -/
  | ballot (o : OpR1)
  /-- TOPK_MAX: Rank active lanes by maxidx order and write the winners' indices (R172) -/
  | topkMax (o : OpR)
  /-- TOPK_MIN: Rank active lanes by minidx order and write the winners' indices (R172) -/
  | topkMin (o : OpR)
  /-- REDUX: Fixed-tree reduction over the group (R174) -/
  | redux (o : OpRedux)
  /-- SCAN_INC: Inclusive fixed-tree scan (R174) -/
  | scanInc (o : OpRedux)
  /-- SCAN_EXC: Exclusive fixed-tree scan (R174) -/
  | scanExc (o : OpRedux)
  /-- MAXIDX_F32: Maximum F32 value and its lane index (R173) -/
  | maxidxF32 (o : OpR1)
  /-- MAXIDX_F16: Maximum F16 value and its lane index (R173) -/
  | maxidxF16 (o : OpR1)
  /-- MAXIDX_BF16: Maximum BF16 value and its lane index (R173) -/
  | maxidxBf16 (o : OpR1)
  /-- MINIDX_F32: Minimum F32 value and its lane index (R173) -/
  | minidxF32 (o : OpR1)
  /-- MINIDX_F16: Minimum F16 value and its lane index (R173) -/
  | minidxF16 (o : OpR1)
  /-- MINIDX_BF16: Minimum BF16 value and its lane index (R173) -/
  | minidxBf16 (o : OpR1)
  /-- KAND: Mask AND at active lanes (R175) -/
  | kand (o : OpK2)
  /-- KOR: Mask OR at active lanes (R175) -/
  | kor (o : OpK2)
  /-- KXOR: Mask XOR at active lanes (R175) -/
  | kxor (o : OpK2)
  /-- KANDN: Mask AND NOT at active lanes (R175) -/
  | kandn (o : OpK2)
  /-- KNOT: Mask NOT at active lanes (R175) -/
  | knot (o : OpK1)
  /-- KPOP: Count set mask bits among active lanes (R176) -/
  | kpop (o : OpKv)
  /-- KFFS: Lowest active lane with its mask bit set (R176) -/
  | kffs (o : OpKv)
  /-- KMOV: Mask copy at active lanes (R175) -/
  | kmov (o : OpK1)
  /-- VBCAST: Broadcast the low or high word of a uniform register to active lanes (R178) -/
  | vbcast (o : OpVbcast)
  /-- VREAD: Read one lane of a lane register into a uniform register, pending if empty (R179) -/
  | vread (o : OpVread)
  /-- KGET: Read a mask register restricted to owned lanes into a uniform register (R178) -/
  | kget (o : OpKget)
  /-- KSET: Write mask bits of active lanes from a uniform register (R178) -/
  | kset (o : OpKset)
  /-- EMGET: Read the part's EM (R178) -/
  | emget (o : OpEmget)
  /-- EMSET: Set EM to a uniform value AND owned lanes (R178) -/
  | emset (o : OpEmset)
  /-- EMAND: EM := EM AND ka (R178) -/
  | emand (o : OpEmand)
  /-- SADD: 64-bit uniform add (R180) -/
  | sadd (o : OpU)
  /-- SSUB: 64-bit uniform subtract (R180) -/
  | ssub (o : OpU)
  /-- SMUL: 64-bit uniform multiply, low half (R180) -/
  | smul (o : OpU)
  /-- SAND: Uniform AND (R180) -/
  | sand (o : OpU)
  /-- SOR: Uniform OR (R180) -/
  | sor (o : OpU)
  /-- SXOR: Uniform XOR (R180) -/
  | sxor (o : OpU)
  /-- SSHL: Uniform shift left by sb mod 64 (R180) -/
  | sshl (o : OpU)
  /-- SSHR: Uniform logical shift right (R180) -/
  | sshr (o : OpU)
  /-- SADDI: Uniform add of a signed 11-bit immediate (R181) -/
  | saddi (o : OpV)
  /-- SANDI: Uniform AND with an immediate (R181) -/
  | sandi (o : OpV)
  /-- SORI: Uniform OR with an immediate (R181) -/
  | sori (o : OpV)
  /-- SMOVI: Uniform move of a sign-extended immediate (R181) -/
  | smovi (o : OpSmovi)
  /-- SSHLI: Uniform shift left by a constant (R181) -/
  | sshli (o : OpV)
  /-- SSHRI: Uniform logical shift right by a constant (R181) -/
  | sshri (o : OpV)
  /-- SSARI: Uniform arithmetic shift right by a constant (R181) -/
  | ssari (o : OpV)
  /-- SLD_64: Uniform 64-bit plain load (R246) -/
  | sld64 (o : OpV)
  /-- SLD_32: Uniform 32-bit plain load, zero-extended (R246) -/
  | sld32 (o : OpV)
  /-- SST_64: Uniform 64-bit plain store (R246) -/
  | sst64 (o : OpV)
  /-- SST_32: Uniform 32-bit plain store (R246) -/
  | sst32 (o : OpV)
  /-- SLDA: Uniform 64-bit load with acquire at package scope (R246) -/
  | slda (o : OpV)
  /-- SSTL: Uniform 64-bit store with release at package scope (R246) -/
  | sstl (o : OpV)
  /-- LD: Lane load of 8 to 128 bits with optional residency mask (R247) -/
  | ld (o : OpM)
  /-- ST: Lane store of 8 to 128 bits (R247) -/
  | st (o : OpM)
  /-- ATOM: Lane read-modify-write at the home, returning the old value, acquire and release at its scope (R250) -/
  | atom (o : OpM)
  /-- LDA: Lane load with acquire at the named scope (R249) -/
  | lda (o : OpM)
  /-- STL: Lane store with release at the named scope (R249) -/
  | stl (o : OpM)
  /-- FENCE_FULL: Full fence at the scope in sd (R252) -/
  | fenceFull (o : OpFence)
  /-- FENCE_ACQ: Acquire fence (R252) -/
  | fenceAcq (o : OpFence)
  /-- FENCE_REL: Release fence (R252) -/
  | fenceRel (o : OpFence)
  /-- FENCE_ENG: Fence ordering earlier accesses before later engine commands (R252) -/
  | fenceEng (o : OpFence)
  /-- PGREQ: Request residency of each active lane's page and wait for grant or refusal (R253) -/
  | pgreq (o : OpPgreq)
  /-- PFCH: Prefetch hint for each lane's line; never faults (R253) -/
  | pfch (o : OpPfch)
  /-- BLD: Lane load from the front copy of a held box (R254) -/
  | bld (o : OpB)
  /-- BST: Lane store to the front copy of a held box (R254) -/
  | bst (o : OpB)
  /-- BATOM: Box atomic at the vault bank (R255) -/
  | batom (o : OpMA)
  /-- BXNEW: Allocate a zero-filled box, optionally with an escrow copy, in the core's vault (R258) -/
  | bxnew (o : OpBxnew)
  /-- BXFREE: Free a box after its accesses and lends end, advancing its generation (R224) -/
  | bxfree (o : OpXa)
  /-- BXGIVE: Give a box to a group's take queue, release at cluster scope (R259) -/
  | bxgive (o : OpXab)
  /-- BXTAKE: Take the oldest handle from the group's take queue (R259) -/
  | bxtake (o : OpXd)
  /-- BXLEND: Lend a box read-only to a quad's matrix engine with a chit set at the lend's end (R260) -/
  | bxlend (o : OpBxlend)
  /-- SETTLE: Exchange the front and escrow copies of a box in one step (R227) -/
  | settle (o : OpXa)
  /-- BXINFO: Read box information for any handle (R261) -/
  | bxinfo (o : OpXad)
  /-- BXRECALL: End every lend of a held box and wait for their chits (R260) -/
  | bxrecall (o : OpXa)
  /-- CPY: Multi-dimensional tensor copy from a 128-byte descriptor, with conversion or encoding (R264) -/
  | cpy (o : OpCpy)
  /-- CPYX: Gather whole blocks by per-lane index into a box (R265) -/
  | cpyx (o : OpCpyx)
  /-- CPYQ: Push outlier-queue entries from 1-4 split tiles (R266) -/
  | cpyq (o : OpX2)
  /-- XSEND: Send a buffer to a device of the domain on a channel (R267) -/
  | xsend (o : OpX2)
  /-- XRECV: Receive a buffer from a device on a channel (R267) -/
  | xrecv (o : OpX2)
  /-- XRED: Cross-device in-place reduction of block exponents or FB128 sums (R268) -/
  | xred (o : OpX2)
  /-- CHWA: Wait until any chit of the mask is ready and return the lowest (R269) -/
  | chwa (o : OpUad)
  /-- CHWL: Wait until every chit of the mask is ready and return their error bits (R269) -/
  | chwl (o : OpUad)
  /-- CHFF: Return the lowest ready chit without waiting (R269) -/
  | chff (o : OpUad)
  /-- CHCLR: Clear ready and error bits of chits (R269) -/
  | chclr (o : OpUa)
  /-- CHGET: Read CHR or CHERR under a mask (R269) -/
  | chget (o : OpChget)
  /-- CHSET: Set ready bits of chits (R269) -/
  | chset (o : OpUa)
  /-- SQMINT: Bring a sequence descriptor to life at its home SCU, allocating its tables (R271) -/
  | sqmint (o : OpUa)
  /-- SQRES: Reserve slots at the home, queueing or failing with try (R272) -/
  | sqres (o : OpSqres)
  /-- SQCOM: Commit a reserved range, advancing CL over contiguous commits (R273) -/
  | sqcom (o : OpUn)
  /-- SQLEN: Read CL from the home or a bound register, as an acquire (R271) -/
  | sqlen (o : OpSqlen)
  /-- SQWAIT: Wait until CL reaches a target (R271) -/
  | sqwait (o : OpSqwait)
  /-- SQFORK: Fork a committed prefix into a new sequence, sharing whole segments (R275) -/
  | sqfork (o : OpUn)
  /-- SQBIND: Bind or unbind a team committed-length register (R274) -/
  | sqbind (o : OpSqbind)
  /-- SQDROP: End a sequence and release its segments and tables (R276) -/
  | sqdrop (o : OpUa)
  /-- SQEXT: Raise a sequence's capacity (R271) -/
  | sqext (o : OpUab)
  /-- SQSUM: Return the address of a segment's summary record, or 0 (R277) -/
  | sqsum (o : OpU)
  /-- SQADDR: Return a slot's address in the window (R271) -/
  | sqaddr (o : OpU)
  /-- SQINFO: Read CL, RL, CAP, CFG, segment count or mint availability (R271) -/
  | sqinfo (o : OpSqinfo)
  /-- MENC: Encode a BF16 tile in a box into a split tile (R191) -/
  | menc (o : OpMenc)
  /-- MDEC: Decode a split tile into a BF16 tile (R192) -/
  | mdec (o : OpX2)
  /-- MPOST: Append a request entry to the quad's request FIFO for a sequencer context (R194) -/
  | mpost (o : OpMpost)
  /-- MMA: Post a split matrix pass on an accumulator (R197) -/
  | mma (o : OpMma)
  /-- MMB: Post a dense BF16 matrix pass (R198) -/
  | mmb (o : OpMmb)
  /-- MZERO: Zero an accumulator (R199) -/
  | mzero (o : OpMzero)
  /-- MDRAIN: Drain an accumulator into a box's escrow copy (R200) -/
  | mdrain (o : OpMdrain)
  /-- MSTORE: Write an accumulator to global memory through the epilogue (R202) -/
  | mstore (o : OpMma)
  /-- MSCALE: Scale an accumulator by a scalar or per-row values (R203) -/
  | mscale (o : OpMscale)
  /-- MWAIT: Wait for earlier engine operations on named accumulators (R204) -/
  | mwait (o : OpMwait)
  /-- MSIG: Queue a chit signal to a cluster core behind earlier operations (R205) -/
  | msig (o : OpMsig)
  /-- MPICK: Take the oldest request entry addressed to the context (R195) -/
  | mpick (o : OpXd)
  /-- MREL: End a lend to this engine behind earlier operations naming the box (R206) -/
  | mrel (o : OpXa)
  /-- BK: Divergent branch that may split off a fragment (R311) -/
  | bk (o : OpBk)
  /-- BKANY: Whole-part branch when any EM lane's mask bit is set (R312) -/
  | bkany (o : OpBk)
  /-- BKALL: Whole-part branch when every EM lane's mask bit is set (R312) -/
  | bkall (o : OpBk)
  /-- BKNONE: Whole-part branch when no EM lane's mask bit is set (R312) -/
  | bknone (o : OpBk)
  /-- BS: Branch on a uniform register compared with zero (R313) -/
  | bs (o : OpBs)
  /-- JMP: PC-relative jump (R314) -/
  | jmp (o : OpJ)
  /-- CALL: PC-relative call sliding the register window, spilling if needed (R315) -/
  | call (o : OpCall)
  /-- JMPR: Jump to the address in a uniform register (R314) -/
  | jmpr (o : OpUa)
  /-- CALLR: Call the address in a uniform register (R315) -/
  | callr (o : OpCallr)
  /-- RET: Return, filling a spilled frame if needed (R317) -/
  | ret
  /-- JOIN: Wait to merge with the group's other live parts at a token (R319) -/
  | join (o : OpTok)
  /-- EXIT: End the executing part or sequencer context (R321) -/
  | exit
  /-- YIELD: Give the part a new ready time (R322) -/
  | yield
  /-- BRKP: Stop under an armed debug session, else raise BRKP (R323) -/
  | brkp (o : OpCode)
  /-- WATCH: Read a location at its home and wait for a write until it differs from sb (R324) -/
  | watch (o : OpWatch)
  /-- TBAR_ARRIVE: Arrive at a team barrier (R326) -/
  | tbarArrive (o : OpTbar)
  /-- TBAR_WAIT: Wait on a team barrier phase (R326) -/
  | tbarWait (o : OpTbar)
  /-- TBAR_SYNC: Arrive and wait at a team barrier (R326) -/
  | tbarSync (o : OpTbar)
  /-- CBAR_ARRIVE: Arrive at a cluster barrier route tag (R326) -/
  | cbarArrive (o : OpRtag)
  /-- CBAR_WAIT: Wait on a cluster barrier phase (R326) -/
  | cbarWait (o : OpRtag)
  /-- CBAR_SYNC: Arrive and wait at a cluster barrier (R326) -/
  | cbarSync (o : OpRtag)
  /-- GBAR_SYNC: Arrive and wait at a grid barrier of a COOP launch (R326) -/
  | gbarSync (o : OpRtag)
  /-- TRAP: Raise SWTRAP with a code (R384) -/
  | trap (o : OpCode)
  /-- TRET: Pop the top trap frame and retry, skip or kill (R385) -/
  | tret (o : OpTret)
  /-- TFENCE: Wait for the part's flag merges and raise ARITH if AFL AND AEN is nonzero (R386) -/
  | tfence
  /-- SGET: Read a special register (R387) -/
  | sget (o : OpSget)
  /-- SSET: Write a special register under its access rules (R387) -/
  | sset (o : OpSset)
  /-- DLOAD: Replace dictionary entries of this core's table in one all-or-nothing step (R55) -/
  | dload (o : OpUab)
  /-- DFENCE: Order the part's fetch after table updates and clear UNFENCED (R57) -/
  | dfence
  /-- DGET: Read one dictionary entry of this core's table (R390) -/
  | dget (o : OpUad)
  /-- PROF: Read a per-core event counter of the context (R391) -/
  | prof (o : OpProf)
  /-- FLTGET: Read the lane addresses of a trap frame's report (R392) -/
  | fltget (o : OpFltget)
  /-- FLTGET_MASK: Read the FLTMASK of a trap frame's report (R392) -/
  | fltgetMask (o : OpFltmask)
  /-- REGISTER_WRITE: Host write to a register that has no row of its own, such as FEATREQ, LQBASE, MVA, MLEN, MPEER, MLBASE, CKPART or DBGPROF (R9) -/
  | registerWrite (f : Fn) (off : Nat) (val : BitVec 64)
  /-- VF_ENABLE: PF sets SR-IOV VF Enable, checking FEATREQ against FEAT (R9) -/
  | vfEnable (on : Bool)
  /-- GET_TDISP_VERSION: TDISP version request (R342) -/
  | getTdispVersion (p : BitVec 6)
  /-- GET_TDISP_CAPABILITIES: TDISP capabilities request (R342) -/
  | getTdispCapabilities (p : BitVec 6)
  /-- LOCK_INTERFACE: Freeze the TDI's configuration, reserve its frame pool and enter CONFIG_LOCKED (R343) -/
  | lockInterface (p : BitVec 6)
  /-- GET_DEVICE_INTERFACE_REPORT: Return the TDI's interface report (R342) -/
  | getDeviceInterfaceReport (p : BitVec 6)
  /-- GET_DEVICE_INTERFACE_STATE: Return the TDI's state (R342) -/
  | getDeviceInterfaceState (p : BitVec 6)
  /-- START_INTERFACE: Check required features and move the TDI to RUN or answer an error (R9) -/
  | startInterface (p : BitVec 6)
  /-- STOP_INTERFACE: Stop the TDI and make the partition leave (R344) -/
  | stopInterface (p : BitVec 6)
  /-- LEAVE_SCRUB: Once nothing of the partition is in flight, scrub its state, destroy keys, return frames and report (R344) -/
  | leaveScrub (p : BitVec 6)
  /-- IDE_KM: Set the IDE stream keys of a TDI (R342) -/
  | ideKm (p : BitVec 6)
  /-- IDE_INTEGRITY_FAILURE: An IDE integrity failure moves the TDI to ERROR (R343) -/
  | ideIntegrityFailure (p : BitVec 6)
  /-- GET_VERSION: SPDM version request (R347) -/
  | getVersion (f : Fn)
  /-- GET_CAPABILITIES: SPDM capabilities request (R347) -/
  | getCapabilities (f : Fn)
  /-- NEGOTIATE_ALGORITHMS: SPDM algorithm negotiation (R347) -/
  | negotiateAlgorithms (f : Fn)
  /-- GET_DIGESTS: SPDM certificate digests (R347) -/
  | getDigests (f : Fn)
  /-- GET_CERTIFICATE: SPDM certificate chain read (R347) -/
  | getCertificate (f : Fn)
  /-- CHALLENGE: SPDM challenge signed by the alias key (R347) -/
  | challenge (f : Fn)
  /-- GET_MEASUREMENTS: Return measurement blocks 1 to 6 (R348) -/
  | getMeasurements (f : Fn)
  /-- KEY_EXCHANGE: SPDM session key exchange (R347) -/
  | keyExchange (f : Fn)
  /-- FINISH: SPDM session finish (R347) -/
  | finish (f : Fn)
  /-- END_SESSION: End an SPDM session (R347) -/
  | endSession (f : Fn)
  /-- VENDOR_DEFINED_REQUEST: SPDM vendor-defined request (R347) -/
  | vendorDefinedRequest (f : Fn)
  /-- KEY_ROTATION_REQUEST: Tenant asks for a key rotation; the SP fills the next slot and re-encryption begins (R346) -/
  | keyRotationRequest (p : BitVec 6)
  /-- FRAME_REENCRYPT: One frame is rewritten under the next key; after the last, next becomes current (R346) -/
  | frameReencrypt (p : BitVec 6) (frame : Nat)
  /-- DEBUG_POLICY: A signed debug policy is checked and sets DLOCK (R350) -/
  | debugPolicy (p : BitVec 6) (pol : Policy)
  /-- CHECKPOINT_PERMIT: Tenant permits checkpoint of its partition in its SPDM session (R377) -/
  | checkpointPermit (p : BitVec 6) (on : Bool)
  /-- CHECKPOINT_KEY_SUPPLY: Tenant supplies the checkpoint key to a target module (R379) -/
  | checkpointKeySupply (p : BitVec 6) (key : Nat)
  /-- PARTITION_CREATE: PF creates a partition in CONFIG_UNLOCKED (R343) -/
  | partitionCreate (p : BitVec 6)
  /-- PARTITION_DESTROY: PF destroys a partition, which leaves (R344) -/
  | partitionDestroy (p : BitVec 6)
  /-- ASSIGN_QUADS: PF assigns whole quads to a partition (R286) -/
  | assignQuads (p : BitVec 6) (quads : List Nat)
  /-- SET_QUANTUM: PF sets a partition's quantum (R300) -/
  | setQuantum (p : BitVec 6) (us : Nat)
  /-- SET_POOL_SIZE: PF sets a partition's frame pool size (R409) -/
  | setPoolSize (p : BitVec 6) (bytes : Nat)
  /-- FIRMWARE_UPDATE: PF updates firmware, measured and verified at restart (R348) -/
  | firmwareUpdate (img : Firmware)
  /-- DEVICE_START: Power-on start: the SP verifies and measures firmware and derives keys (R348) -/
  | deviceStart
  /-- LQCTL_WRITE: Write to LQCTL taking LOG and setting EN only for a valid value (R280) -/
  | lqctlWrite (p : BitVec 6) (q : BitVec 2) (val : BitVec 64)
  /-- LQPROD_WRITE: Doorbell write of the producer index of a launch queue (R281) -/
  | lqprodWrite (p : BitVec 6) (q : BitVec 2) (val : BitVec 64)
  /-- LAUNCH_FETCH: Device fetches the next 128-byte launch record and advances CONS (R281) -/
  | launchFetch (p : BitVec 6) (q : BitVec 2)
  /-- LAUNCH_ADMIT: Admit a launch in queue order or reject it with a status (R285) -/
  | launchAdmit (p : BitVec 6) (q : BitVec 2)
  /-- CLUSTER_PLACE: Place the next cluster first-fit and dispatch its teams and sequencer contexts (R288) -/
  | clusterPlace (ctx : Nat)
  /-- LAUNCH_COMPLETE: All teams, sequencer contexts and commands done: free resources and write DONE (R305) -/
  | launchComplete (ctx : Nat)
  /-- DONE_WRITE: Write the 16-byte completion record, or a management-log record if it cannot be written (R284) -/
  | doneWrite (id : Nat)
  /-- RESERVE: Memory command making pages Touch with given rights (R332) -/
  | mcmdReserve (p : BitVec 6) (val : BitVec 64)
  /-- UNMAP: Memory command removing pages and returning frames (R332) -/
  | mcmdUnmap (p : BitVec 6) (val : BitVec 64)
  /-- PROTECT: Memory command changing page rights (R332) -/
  | mcmdProtect (p : BitVec 6) (val : BitVec 64)
  /-- ADMIT: Host-started residency of pages (R332) -/
  | mcmdAdmit (p : BitVec 6) (val : BitVec 64)
  /-- RECLAIM: Flip pages from device to host (R337) -/
  | mcmdReclaim (p : BitVec 6) (val : BitVec 64)
  /-- INVAL: Drop cached translations of a range (R332) -/
  | mcmdInval (p : BitVec 6) (val : BitVec 64)
  /-- EXPORT: Export a range to a peer partition in a slot (R349) -/
  | mcmdExport (p : BitVec 6) (val : BitVec 64)
  /-- IMPORT: Bind a peer window to a remote partition (R349) -/
  | mcmdImport (p : BitVec 6) (val : BitVec 64)
  /-- MCMD_REFUSED_OP: MCMD with OP 8-15 is refused with RESULT 0x01 (R332) -/
  | mcmdRefusedOp (p : BitVec 6) (val : BitVec 64)
  /-- MCMD_COMPLETE: A memory command completes once old translations and accesses have drained, clearing BUSY (R333) -/
  | mcmdComplete (p : BitVec 6)
  /-- MLCTL_WRITE: Write to MLCTL taking LOG and setting EN only for a valid value (R368) -/
  | mlctlWrite (p : BitVec 6) (val : BitVec 64)
  /-- KILL_CONTEXT: CCMD OP 1 kills a context (R375) -/
  | killContext (p : BitVec 6) (val : BitVec 64)
  /-- RESUME_PART: CCMD OP 2 resumes a stopped or escalated part in a tret mode (R369) -/
  | resumePart (p : BitVec 6) (val : BitVec 64)
  /-- RESUME_SEQUENCER_CONTEXT: CCMD OP 3 resumes or ends a stopped sequencer context (R369) -/
  | resumeSequencerContext (p : BitVec 6) (val : BitVec 64)
  /-- CCMD_REFUSED_OP: CCMD with OP 4-15 is refused (R368) -/
  | ccmdRefusedOp (p : BitVec 6) (val : BitVec 64)
  /-- CHECKPOINT: Start a consistent checkpoint of named partitions to the safe tier (R378) -/
  | checkpoint (val : BitVec 64)
  /-- CHECKPOINT_COMPLETE: After the copy, write the manifest and KIND 7 record and resume or stay stopped (R378) -/
  | checkpointComplete
  /-- RESTORE: Start restoring partition images from the safe tier (R379) -/
  | restore (val : BitVec 64)
  /-- RESTORE_COMPLETE: After verification and reload, place the restored contexts as waiting units (R379) -/
  | restoreComplete
  /-- ABORT: Abort a running checkpoint command (R380) -/
  | checkpointAbort (val : BitVec 64)
  /-- LINK_FAILURE: A UALink port stops operating (R380) -/
  | linkFailure (port : BitVec 3)
  /-- DEBUG_STOP: DBGCTL action halting every part of a context (R394) -/
  | debugStop (p : BitVec 6) (val : BitVec 64)
  /-- DEBUG_RESUME: DBGCTL action continuing every stopped part (R394) -/
  | debugResume (p : BitVec 6) (val : BitVec 64)
  /-- DEBUG_STEP: DBGCTL action letting one stopped part execute one instruction (R394) -/
  | debugStep (p : BitVec 6) (val : BitVec 64)
  /-- ARM_BREAKPOINTS: DBGCTL action arming breakpoints (R393) -/
  | armBreakpoints (p : BitVec 6) (val : BitVec 64)
  /-- DISARM_BREAKPOINTS: DBGCTL action disarming breakpoints (R393) -/
  | disarmBreakpoints (p : BitVec 6) (val : BitVec 64)
  /-- DBGREG_ACCESS: Read or write a register of a stopped part through the debug window (R394) -/
  | dbgregAccess (p : BitVec 6) (val : BitVec 64)
  /-- DBGMEM_ACCESS: Debugger 8-byte access to partition memory or a box (R394) -/
  | dbgmemAccess (p : BitVec 6) (val : BitVec 64)
  /-- PRI_RESPONSE: Tenant runtime's PRI response grants or refuses a page request (R337) -/
  | priResponse (p : BitVec 6) (va : Nat) (ok : Bool)
  /-- PEER_ACCESS: An access arriving from a peer device through a peer window (R349) -/
  | peerAccess (a : PeerAccess)
  /-- PEER_AUTHENTICATION: Mutual SPDM authentication of two SPs over UALink setting link keys (R349) -/
  | peerAuthentication (dev : BitVec 9) (ok : Bool)
  /-- DATA_LANDING: Data of a long-latency producer lands and marks destination lanes full (R25) -/
  | dataLanding (ticket : Nat)
  /-- HOME_WRITE: A store or atomic is performed at its home and updates go to die copies (R220) -/
  | homeWrite (ticket : Nat)
  /-- DIE_COPY_UPDATE: A line update reaches a die and is applied in causal order (R221) -/
  | dieCopyUpdate (ticket : Nat)
  /-- L1_LINE_EXPIRY: An L1 line is discarded at most 4,096 cycles after its fill (R219) -/
  | l1LineExpiry (core : Nat) (ctx : Nat) (line : Nat)
  /-- TELLER_APPLY: The teller applies an exited team's staged entries once lower teams are applied (R239) -/
  | tellerApply (ctx : Nat)
  /-- PASS_GRANT: The arbiter grants the highest-priority eligible pass, checks it and pops its entries (R127) -/
  | passGrant (quad : Nat)
  /-- PASS_COMPLETE: A pass's last step is applied, flags merged and its chit set (R187) -/
  | passComplete (sc : Nat)
  /-- ENGINE_OP_COMPLETE: An mzero, mscale, mdrain or mstore completes, releasing queued msig and mrel (R187) -/
  | engineOpComplete (sc : Nat) (op : Nat)
  /-- COMMAND_COMPLETE: A copy, encoder or collective command completes and sets its chit (R262) -/
  | commandComplete (ticket : Nat)
  /-- OUTLIER_QUEUE_PUSH: A held cpyq pushes its entry when the queue frees (R122) -/
  | outlierQueuePush (ticket : Nat)
  /-- QUANTUM_BOUNDARY: At each quantum, waiting units choose victims for pre-emption (R300) -/
  | quantumBoundary (p : BitVec 6)
  /-- BANK_SWAP: Once the incoming image is loaded, cores swap primary and shadow banks (R302) -/
  | bankSwap (unit : Nat)
  /-- UNIT_SAVED: After the outgoing unit's accesses are performed, its state is written to the save area (R302) -/
  | unitSaved (unit : Nat)
  /-- RESEAT_EXCHANGE: Every 1,024 cycles a parked part is exchanged with a seated part (R292) -/
  | reseatExchange (core : Nat)
  /-- MONITOR_WAKE: An event reaches a monitor and the waiting part becomes ready if its condition holds (R297) -/
  | monitorWake (who : Agent)
  /-- BARRIER_COMPLETE: A barrier's last arrival completes the phase and wakes its waiters (R294) -/
  | barrierComplete (b : Barrier)
  /-- WEDGE_DETECT: The blocked condition held 100 us and the MC raises WEDGE in the chosen part (R306) -/
  | wedgeDetect (ctx : Nat)
  /-- SEQUENCER_CONTEXT_AUTO_END: A sequencer context waiting in mpick ends once its cluster's teams on the quad have exited (R304) -/
  | sequencerContextAutoEnd (sc : Nat)
  /-- PENDING_RECORD_WRITE: A write of CONS lets a pending fault-ring record be written (R366) -/
  | pendingRecordWrite (id : Nat)
  /-- SCRUBBER_READ: A scrubber reads a location, repairs or poisons it and records uncorrectable errors (R373) -/
  | scrubberRead (loc : ScrubLoc) (err : SoftError)
  /-- THERMAL_LIMIT: Temperature or power exceeds its limit and the MC lowers the clock by 100 MHz (R4) -/
  | thermalLimit
  /-- THERMAL_RESUME: After 1 s within limits the MC places units again (R376) -/
  | thermalResume
  /-- THERMAL_SAVE_TIMEOUT: A unit not saved within 10 ms of a trip is killed with reason 0x03 (R376) -/
  | thermalSaveTimeout (unit : Nat)
  /-- LINK_CRC_ERROR: A link CRC error on the Talsia fabric, UALink or PCIe makes the link retry or retrain and a lost request be retried (R371) -/
  | linkCrcError (link : Link)
  /-- UALINK_PORT_RESTORED: A UALink port returns to operation and CKSTAT.PORTS rises (R377) -/
  | ualinkPortRestored (port : BitVec 3)
  /-- PEER_COLLECTIVE_ARRIVAL: An xsend, xrecv or xred from another device of the domain reaches this device's collective unit and is matched in arrival order (R267) -/
  | peerCollectiveArrival (a : PeerCollective)
  /-- HOST_MEMORY_ACCESS: A host PCIe access to partition memory on the device, which can release watch waits under EXTWAKE (R222) -/
  | hostMemoryAccess (a : HostAccess)
  deriving DecidableEq, Repr

end Sys2Proof
end

