-- ==== Sys2Proof/Machine/State.lean ====
section
/-!
DEFINITION. The state of a Cerien C9 module: everything the manual gives it, as plain data.

Agents stand in flat tables keyed by an identifier: partitions and functions, contexts, clusters (the unit of residence),
teams, groups, parts, sequencer contexts, cores and quads. `State.reset` is the module after power-on: no partition, no
context, every register 0 (R9, R27, R280, R331, R368, R377, R393), no byte of memory listed.
-/

namespace Sys2Proof.Machine

/-- The machine stops with a fault of the model's own. The manual's own causes are traps, which are next states. -/
inductive Fault where
  /-- An encoded instruction was executed while `State.agent` names no live part and no sequencer context. Raised by every
  meaning of an encoded form; no step does that, because `step` chooses an agent first. Safe: the model stops. -/
  | noAgent
  deriving DecidableEq, Repr

/-- No meaning. -/
inductive Refusal where
  /-- The row of the table has no meaning in this model yet. Raised only in the dispatcher. Safe: the model stops. -/
  | notModelled (mnemonic : String)
  deriving DecidableEq, Repr

/-! ### Registers and threads -/

/-- A lane word with its full/empty bit and poison mark (R22, R25, R371). -/
structure LaneWord where
  val : Word
  full : Bool
  poison : Bool
  deriving DecidableEq, Repr
/-- The lane word every unlisted lane of a register file holds (R31). -/
def LaneWord.zero : LaneWord := ⟨0, true, false⟩

/-- A uniform register with its full/empty bit and poison mark (R22, R25, R371). -/
structure SReg where
  val : DWord
  full : Bool
  poison : Bool
  deriving DecidableEq, Repr
/-- A uniform register at entry (R31, R32). -/
def SReg.zero : SReg := ⟨0, true, false⟩

/-- The report of a trap (R355, R356): FLTINFO, FLTVA, FLTMASK and the lane addresses (0 where unlisted). -/
structure Report where
  info : DWord
  va : DWord
  mask : DWord
  addrs : Cells DWord
  deriving DecidableEq, Repr
/-- The report registers at reset (R27). -/
def Report.zero : Report := ⟨0, 0, 0, []⟩

/-- A trap frame (R355, R356). -/
structure TFrame where
  pc : DWord
  next : Nat
  em : DWord
  wb : Nat
  priv : Bool
  rep : Report
  deriving DecidableEq, Repr

/-- An entry of the window stack: return PC and slide (R315). -/
structure WFrame where
  rpc : DWord
  slide : Nat
  deriving DecidableEq, Repr

/-- A monitor entry: what a monitor wait watches, with the condition that its instruction checks again (R296). -/
inductive Monitor where
  /-- `watch`: the address, its length and the value to wait past. -/
  | watch (addr len : Nat) (val : DWord)
  /-- `sqwait` on a handle's committed length. -/
  | seqLen (handle target : Nat)
  /-- A queued `sqres`. -/
  | seqGrant (handle : Nat)
  /-- `sqfork` waiting for a segment. -/
  | seqSegment (handle : Nat)
  /-- The local `sqwait` on a bound committed length. -/
  | boundCl (n target : Nat)
  | barrier (b : Barrier) (phase : Nat)
  /-- `chwa` (any) and `chwl` (all) on a set of chits. -/
  | chits (all : Bool) (mask : DWord)
  | takeQueue
  | giveQueue (gid : Nat)
  /-- `bxrecall` and `bxfree` on a lent box are no monitor waits; `mpost` without an entry it may take is. -/
  | fifoRoom (quad target : Nat)
  | fifoEntry
  | reservation
  | engineOps (accs : BitVec 4) (all : Bool)
  deriving DecidableEq, Repr

/-- Why an agent does not issue (R290). -/
inductive Wait where
  | none
  | reg
  | fence
  /-- Held by a command with f = 0 until it completes (R262), with the length of its instruction. -/
  | command (ticket len : Nat)
  /-- `tfence` until the part's own encoder commands have merged their flags (R386). -/
  | flagMerge
  | issueLimit
  | pages
  | monitor (m : Monitor)
  | join (token len : Nat)
  | ring
  | staging
  | boxDrain
  deriving DecidableEq, Repr

/-- Why an agent is stopped (R357, R358, R323, R367). -/
inductive Stop where
  | running | noHandler | escalated | brkp | seqStopped
  deriving DecidableEq, Repr

/-- An entry of a dictionary table with its poison mark (R51, R371). -/
structure DictEntry where
  val : DWord
  poison : Bool
  deriving DecidableEq, Repr

/-- How the next dictionary reference of a part finds its entry (R54, R57): by the rules of R57; at a PC, from the table as it
stands; or at a PC, by the entry that it was already decoded against while it waits. -/
inductive RefHold where
  | free
  | now (pc : DWord)
  | held (pc : DWord) (entry : BitVec 7) (e : DictEntry)
  deriving DecidableEq, Repr

/-- What a part and a sequencer context have in common: PC, uniform registers, wait and stop state, report, the pages an
access in progress has asked for with their answers (R337), and the counts that stand for its ready time and the start of
its wait (R290, R307). `woken` is the wait from which an event last woke it, until its instruction goes on (R296), `next` the length of
the instruction at which it last stopped, 0 where none raised the cause (R355, R369). -/
structure Thread where
  pc : DWord
  sregs : Cells SReg
  wait : Wait
  stop : Stop
  report : Report
  asked : List (Nat × Option Bool)
  ready : Nat
  since : Nat
  ref : RefHold
  woken : Wait
  next : Nat
  deriving DecidableEq, Repr

/-- A part of a group (R18, R19). `pend` holds the pending barrier phases and `latch` the phase of a sync that has arrived
and waits (R326). `issued` counts instructions since the part was last seated, `last` is the count of steps at which it issued
last (R292). `fenced` is the count of steps before which no state of the dictionary table reaches its references any more (R57,
R58). -/
structure Part where
  gid : Nat
  thr : Thread
  own : DWord
  em : DWord
  wb : Nat
  wsp : DWord
  spc : Nat
  wstack : List WFrame
  tstack : List TFrame
  priv : Bool
  unfenced : Bool
  fenced : Nat
  pend : List (Barrier × Nat)
  latch : Option (Barrier × Nat)
  seated : Bool
  issued : Nat
  last : Nat
  deriving DecidableEq, Repr

/-- A group (R14, R22, R29). Lane word l of physical register p stands under key p * 64 + l; mask register k under key k.
`gone` holds the lanes of parts that have exited (R294). -/
structure Group where
  tid : Nat
  grp : Nat
  gslot : Nat
  w : Nat
  vregs : Nat
  groups : Nat
  lanes : Cells LaneWord
  masks : Cells DWord
  maskPoison : List Nat
  afl : BitVec 8
  aen : BitVec 8
  ovf : DWord
  takeq : List (BitVec 32)
  gone : DWord
  exited : Bool
  deriving DecidableEq, Repr

/-- A barrier's phase and the lanes marked in it, by group (R294, R326). -/
structure BarState where
  phase : Nat
  marks : Cells DWord
  deriving DecidableEq, Repr
/-- A barrier at launch. -/
def BarState.zero : BarState := ⟨0, []⟩

/-- A committed-length register bound to a sequence, with the clock of the commits that its value covers (R231, R274). `bound`
falls when the sequence is dropped. -/
structure ClBind where
  handle : Nat
  bound : Bool
  val : DWord
  clock : List Nat
  deriving DecidableEq, Repr

/-- A staged store or atomic of a deterministic team (R237): the virtual address, the bytes or operand, the group that
staged it, the operation (`none` a plain store), and whether its instruction has with it stored the whole 32-byte sector
(R372). -/
structure Staged where
  gid : Nat
  va : Nat
  data : List Byte
  op : Option (BitVec 4)
  size : Nat
  whole : Bool
  deriving DecidableEq, Repr

/-- A dictionary table with NDEF and GEN (R27, R51, R59). -/
structure DictTable where
  entries : Cells DictEntry
  ndef : Nat
  gen : BitVec 16
  deriving DecidableEq, Repr
/-- A table with every entry undefined (R60). -/
def DictTable.empty : DictTable := ⟨[], 0, 0⟩

/-- A team (R14). `chr` and `cherr` are its part of its core's chit registers (R26). `view` lists, by virtual address, what ordered bytes
held before they changed after the team's start (R238), `through` is the write-through state of R240, `undo` what the bytes that the team
has written through held before, in both none for a byte of a poisoned sector (R372), `saved` the dictionary table kept with a saved
team (R59). -/
structure Team where
  ctx : Nat
  uid : Nat
  index : Nat
  rank : Nat
  core : Nat
  tslot : Nat
  chit0 : Nat
  chitN : Nat
  cls : Cells ClBind
  tbars : Cells BarState
  chr : DWord
  cherr : DWord
  staged : List Staged
  view : Cells (Option Byte)
  through : Bool
  undo : Cells (Option Byte)
  saved : Option DictTable
  exited : Bool
  applied : Bool
  deriving DecidableEq, Repr

/-- Residence of a unit (R300 to R302): waiting to be placed again, its image being loaded, resident, being saved. -/
inductive Residence where
  | resident | loading | saving | saved
  deriving DecidableEq, Repr

/-- A lend of a box: the engine's quad, the holder's team, the chit, and whether a `bxrecall` of it waits (R125, R225). -/
structure Lend where
  quad : Nat
  tid : Nat
  chit : Nat
  recalled : Bool
  deriving DecidableEq, Repr

/-- A box (R12, R223 to R227): generation, size in granules, holder group, team charged, both copies. -/
structure Box where
  gen : Nat
  gran : Nat
  escrow : Bool
  holder : Option Nat
  tid : Nat
  front : Cells Byte
  back : Cells Byte
  frontPoison : List Nat
  backPoison : List Nat
  lends : List Lend
  deriving DecidableEq, Repr

/-- A cluster with its rectangle of quads, its residence, since which step it has waited or been resident, and the units that leave
when it is swapped in (R15, R288, R300, R302), and the boxes of its vaults with the generation last given to each slot, keyed rank * 1024 + slot (R12). -/
structure Cluster where
  ctx : Nat
  number : Nat
  die : Nat
  qx : Nat
  qy : Nat
  res : Residence
  waited : Nat
  held : Nat
  since : Nat
  evicts : List Nat
  cbars : Cells BarState
  boxes : Cells Box
  gens : Cells Nat
  deriving DecidableEq, Repr

/-- A launch record (R282). -/
structure Launch where
  entry : DWord
  dict : DWord
  args : DWord
  seqEntry : DWord
  w : Nat
  groups : Nat
  vregs : Nat
  shape : Nat
  seqCtx : Nat
  tbars : Nat
  cbars : Nat
  gbars : Nat
  qos : Nat
  det : Bool
  coop : Bool
  extwake : Bool
  notify : Bool
  after : Bool
  chits : Nat
  teams : Nat
  boxq : Nat
  tvec : DWord
  place : DWord
  order : DWord
  nord : Nat
  done : DWord
  fring : DWord
  frlog : Nat
  tag : DWord
  deriving DecidableEq, Repr

/-- A context (R33): the descriptor of one admitted launch. `unplaced` is the next cluster number (R289), `waitedQ` the quanta
that it has waited and `sinceQ` since which step (R300), `tellerNext` the
next team index the teller applies (R239), `serial` the count of R355, `dbgStop` and `armed` the debug session (R393),
`step` the agent that a debugger lets take one step (R394). -/
structure Context where
  part : BitVec 6
  queue : BitVec 2
  index : Nat
  lr : Launch
  tvec : DWord
  level : BitVec 2
  serial : BitVec 32
  unplaced : Nat
  exitedTeams : Nat
  tellerNext : Nat
  waitedQ : Nat
  sinceQ : Nat
  ordered : List (Nat × Nat)
  placeMap : List (Nat × Option Nat)
  image : Cells DWord
  gbars : Cells BarState
  killed : Option (BitVec 8)
  armed : Bool
  dbgStop : Bool
  steps : List Agent
  deriving DecidableEq, Repr

/-! ### Cores, vaults, quads -/

/-- A line of 128 bytes as a cache holds it: its nonzero bytes by offset, and the offsets of its poisoned 32-byte sectors, rising
(R371). -/
structure Line where
  bytes : Cells Byte
  marks : List Nat
  deriving DecidableEq, Repr

/-- A line of a core's L1 data cache: context, virtual line, physical line, what it holds (R219, R339, R340, R371). -/
structure L1Line where
  ctx : Nat
  vline : Nat
  pline : Nat
  data : Line
  readOnly : Bool
  deriving DecidableEq, Repr

/-- A line of a core's L1 instruction cache: context, virtual line, physical line, its nonzero bytes by offset (R13, R219,
R339). -/
structure ILine where
  ctx : Nat
  vline : Nat
  pline : Nat
  bytes : Cells Byte
  deriving DecidableEq, Repr

/-- A core: dictionary table and its context, the states of the table that `dload`s have replaced with the count of steps at
which they did (R57), L1 data and instruction lines, cycle counter, profiling counters under key ctx * 16 + counter (R13,
R391), and the generation last given to each slot of its vault (R12, R258). -/
structure Core where
  tableCtx : Option Nat
  table : DictTable
  olds : List (Nat × DictTable)
  l1 : List L1Line
  l1i : List ILine
  cyc : DWord
  prof : Cells DWord
  gens : Cells Nat
  deriving DecidableEq, Repr
/-- A core at power-on. -/
def Core.zero : Core := ⟨none, .empty, [], [], [], 0, [], []⟩

/-- An entry of an outlier queue: TENSOR and the records (R122). -/
structure OQEntry where
  tensor : BitVec 16
  recs : List (BitVec 32)
  poison : Bool
  deriving DecidableEq, Repr

/-- An entry of a quad's request FIFO (R194, R195). -/
structure FifoEntry where
  ctx : Nat
  target : Nat
  w0 : DWord
  w1 : DWord
  sig : DWord
  poison : Bool
  deriving DecidableEq, Repr

/-- A TLB entry: context, page, size (R339). -/
structure TlbEntry where
  ctx : Nat
  page : Nat
  size : Nat
  deriving DecidableEq, Repr

/-- A quad's engine, sequencer core and TLB: outlier queues by number, request FIFO, TLB, the sequencer context whose pass
holds the array, and the sequencer core's cycle counter (R13, R122, R126). -/
structure Quad where
  queues : Cells (List OQEntry)
  fifo : List FifoEntry
  tlb : List TlbEntry
  busy : Option Nat
  cyc : DWord
  deriving DecidableEq, Repr
/-- A quad at power-on. -/
def Quad.zero : Quad := ⟨[], [], [], none, 0⟩

/-- An engine operation (R187), or a queued `msig` or `mrel` (R205, R206). -/
inductive EngKind where
  | pass (dense : Bool) (shape : Nat) (a b : DWord)
  | zero
  | drain (d : DWord)
  | store (addr epi : DWord) (scope : Nat)
  | scale (c : DWord)
  | scaleRow (d : DWord)
  | signal (word : DWord)
  | release (handle : DWord)
  deriving DecidableEq, Repr

/-- The error of a command or an engine operation that has failed (R188, R262); `paged` says whether its address is a virtual one,
not a box offset. -/
structure CmdErr where
  cause : BitVec 8
  detail : BitVec 8
  addr : DWord
  wr : Bool
  paged : Bool
  deriving DecidableEq, Repr

/-- A posted engine operation: the accumulators it touches, its chit, the PC that issued it, for a pass whether it is
granted, its age, the step in which it first became eligible, the flags it will merge, the queue entries popped for it and the tile
headers that passed its checks, the pages it has asked for, how far it has come (steps of a pass, lines of a drain, 64-byte units of
a store), whether its context has left the quad since its grant, and its error where that waits for the core's pending record (R121,
R126, R127, R135, R187, R202, R366). -/
structure EngOp where
  id : Nat
  kind : EngKind
  accs : BitVec 4
  chit : Option (BitVec 6)
  pc : DWord
  granted : Bool
  age : Nat
  elig : Option Nat
  flags : BitVec 8
  popped : List OQEntry
  heads : List (List Byte)
  asked : List (Nat × Option Bool)
  pos : Nat
  cut : Bool
  failed : Option CmdErr
  deriving DecidableEq, Repr

/-- A sequencer context (R32, R48), keyed quad * 8 + index while its unit is resident. Element e of accumulator a stands
under a * 4096 + e. `savedQueues` and `savedFifo` hold its outlier queues and requests while its unit is saved (R135), `popped`
the entries that a failed pass popped for steps it did not reach (R121); `ending` is set while a host command that ends it waits
for its operations (R369). -/
structure SeqCtx where
  ctx : Nat
  uid : Nat
  thr : Thread
  afl : BitVec 8
  aen : BitVec 8
  ovf : DWord
  acc : Cells Word
  accPoison : List Nat
  ops : List EngOp
  savedQueues : Cells (List OQEntry)
  savedFifo : List FifoEntry
  popped : List OQEntry
  ending : Bool
  ended : Bool
  deriving DecidableEq, Repr

/-! ### Commands and accesses in flight -/

/-- The fields of a copy descriptor (R263). -/
structure CpyDesc where
  src : DWord
  dst : DWord
  ctrl : DWord
  param : DWord
  count : List Nat
  valid : List Nat
  sstride : List Int
  dstride : List Int
  deriving DecidableEq, Repr

/-- The commands of the copy engine, encoder and collective unit (R190, R192, R263 to R268). -/
inductive CmdKind where
  | cpy (d : CpyDesc)
  | cpyx (dst : DWord) (base : Nat) (blk : Nat) (limit : Nat) (idx : List (Nat × Nat))
  | cpyq (sa word : DWord)
  | menc (dst src par : DWord)
  | mdec (dst src : DWord)
  | xsend (sa word : DWord)
  | xrecv (sa word : DWord)
  | xred (sa word : DWord)
  deriving DecidableEq, Repr

/-- An outstanding command (R262): who issued it, its chit when f = 1, the pages it has asked for, tiles already pushed
(`cpyq`) or whether its announcement has been sent (collectives), the buffer that `xred` has announced, where `cpyq` goes on, its error once it has failed, and whether that error's
record has been handed to the ring (R366). -/
structure Cmd where
  ticket : Nat
  core : Nat
  ctx : Nat
  tid : Nat
  gid : Nat
  who : Agent
  pc : DWord
  chit : Option (BitVec 6)
  kind : CmdKind
  asked : List (Nat × Option Bool)
  pushed : Nat
  sent : List Byte
  pos : Nat
  failed : Option CmdErr
  recorded : Bool
  deriving DecidableEq, Repr

/-- Where the data of a long-latency producer lands (R25): lane words of a group by key, a uniform register, or a uniform
register that waits for a lane word to become full (`vread`, R179). -/
inductive LandDest where
  | lanes (gid : Nat) (ws : List (Nat × Word))
  | sreg (who : Agent) (r : Nat) (v : DWord)
  | fromLane (who : Agent) (r : Nat) (gid key : Nat)
  deriving DecidableEq, Repr

/-- A landing in flight; `loads` and `stores` say which limits of R245 it counts against. -/
structure Landing where
  ticket : Nat
  who : Agent
  ctx : Nat
  dest : LandDest
  load : Bool
  store : Bool
  deriving DecidableEq, Repr

/-- A store accepted by a core's store queue and not yet performed at its home (R210, R220). `instr` names the instruction
that issued it, for the limit of R245, and `whole` says that the instruction has with it stored the whole 32-byte sector (R372). -/
structure PStore where
  ticket : Nat
  who : Agent
  core : Nat
  ctx : Nat
  instr : Nat
  peer : Bool
  addr : Nat
  data : List Byte
  whole : Bool
  deriving DecidableEq, Repr

/-- What a write within a 32-byte sector does to the sector's poison mark, where it does not cover the sector alone (R371, R372). -/
inductive SectorMark where
  /-- A partial write: the mark stays as it is. -/
  | kept
  /-- With this write its store has covered the sector. -/
  | cleared
  /-- The sector takes a mark, as a copy of poisoned data does. -/
  | set
  deriving DecidableEq, Repr

/-- A line update on its way to a die that holds a copy, with the sender's clock (R220, R221) and what it does to its sector's poison
mark (R371, R372). -/
structure DieUpd where
  ticket : Nat
  die : Nat
  addr : Nat
  data : List Byte
  mark : SectorMark
  clock : List Nat
  deriving DecidableEq, Repr

/-- A read-only copy of a line at a die, with the partition that it is tagged with (R220, R345) and its poison marks (R371). -/
structure DieCopy where
  die : Nat
  part : BitVec 6
  line : Nat
  data : Line
  deriving DecidableEq, Repr

/-- A fault-ring record that waits for room in its ring, held by an agent of a core (R366). -/
structure PendRec where
  id : Nat
  ctx : Nat
  core : Nat
  who : Agent
  words : List DWord
  asked : List (Nat × Option Bool)
  deriving DecidableEq, Repr

/-! ### Sequences -/

/-- A request queued at a sequence's home (R272, R296). -/
inductive SqReq where
  | res (pid : Nat) (n : Nat)
  | waitFor (pid : Nat) (len : Nat)
  | fork (pid : Nat)
  deriving DecidableEq, Repr

/-- A live sequence at its SCU (R270): its configuration, lengths, committed ranges beyond CL, and the frames of each
allocated segment (R410). `clock` is what an acquire of its committed length receives (R231). -/
structure Sq where
  part : BitVec 6
  handle : Nat
  cfg : DWord
  cap : Nat
  cl : Nat
  rl : Nat
  win : Nat
  wmax : Nat
  stab : Nat
  sumt : Nat
  committed : List (Nat × Nat)
  segs : Cells (List Nat)
  queue : List SqReq
  tampered : Bool
  clock : List Nat
  deriving DecidableEq, Repr

/-- A request of a part whose sequence was dropped while it waited (R276). -/
structure DroppedReq where
  pid : Nat
  handle : Nat
  deriving DecidableEq, Repr

/-! ### Pages and partitions -/

/-- State of a page with a device-table entry, or a host-owned page that keeps its rights (R334). -/
inductive PageState where
  | device (phys : Nat)
  | touch
  | host
  deriving DecidableEq, Repr

/-- Kind of a page (R332, R341, R411). -/
inductive PageKind where
  | ordinary | seq | table
  deriving DecidableEq, Repr

/-- A page of a partition's device table (R330, R331, R334). -/
structure Page where
  size : Nat
  rd : Bool
  wr : Bool
  ex : Bool
  kind : PageKind
  state : PageState
  deriving DecidableEq, Repr

/-- A page that a memory command has taken from the device table, whose frame stays until the command completes (R333): its
size, its frame, and whether its bytes go to the host. -/
structure Closing where
  size : Nat
  phys : Nat
  toHost : Bool
  deriving DecidableEq, Repr

/-- A frame: its size, its partition, and which key encrypts it (R336, R346, R409). -/
structure Frame where
  size : Nat
  part : BitVec 6
  nextKey : Bool
  deriving DecidableEq, Repr

/-- The states of a TDI (R343). -/
inductive Tdi where
  | unlocked | locked | run | error
  deriving DecidableEq, Repr

/-- Why a partition leaves (R343, R344): an error, STOP_INTERFACE, or its destruction. -/
inductive Leave where
  | error | stop | destroy
  deriving DecidableEq, Repr

/-- An export slot (R349). -/
structure Export where
  dev : Nat
  part : BitVec 6
  base : Nat
  len : Nat
  rd : Bool
  wr : Bool
  deriving DecidableEq, Repr

/-- An outstanding page request (R337): its page, and the die of the agent that asked first (R336). -/
structure PriReq where
  part : BitVec 6
  page : Nat
  die : Nat
  deriving DecidableEq, Repr

/-- A fetched launch record that awaits admission (R281). -/
structure Fetched where
  index : Nat
  words : List DWord
  deriving DecidableEq, Repr

/-- What LOCK_INTERFACE freezes, as the interface report gives it: quads, pool, quantum, digest of the debug-policy key (R343, R348,
R350). -/
structure Frozen where
  quads : List Nat
  pool : Nat
  quantum : Nat
  bar : Nat
  policy : Nat
  deriving DecidableEq, Repr

/-- A partition (R342 to R350): TDI, frozen configuration, keys, tables; `stopped` after a checkpoint that does not resume it
(R378). Keys are names; their values are never read (R345). -/
structure Partition where
  tdi : Tdi
  quads : List Nat
  pool : Nat
  quantum : Nat
  bar : Nat
  areaBytes : Cells Nat
  keyCur : Option Nat
  keyNext : Option Nat
  ideKeyed : Bool
  nonce : Option Nat
  policyDigest : Nat
  report : Option Frozen
  heldQuads : List Nat
  ckPermit : Bool
  ckKey : Option Nat
  leaving : Option Leave
  stopped : Bool
  pages : Cells Page
  closing : Cells Closing
  exports : Cells Export
  imports : Cells (BitVec 6)
  touchMap : Cells Nat
  hostMem : Cells Byte
  hostPoison : List Nat
  fetched : Cells Fetched
  deriving DecidableEq, Repr
/-- A created partition (R343): nothing assigned; the quantum is 2 ms when not set (R300). -/
def Partition.zero : Partition :=
  { tdi := .unlocked, quads := [], pool := 0, quantum := 2000, bar := 0, areaBytes := [], keyCur := none, keyNext := none,
    ideKeyed := false, nonce := none, policyDigest := 0, report := none, heldQuads := [], ckPermit := false, ckKey := none,
    leaving := none, stopped := false, pages := [], closing := [], exports := [], imports := [], touchMap := [], hostMem := [], hostPoison := [], fetched := [] }

/-- The four registers of a launch queue (R280). -/
structure LqRegs where
  base : DWord
  log : BitVec 5
  en : Bool
  prod : BitVec 32
  cons : BitVec 32
  deriving DecidableEq, Repr
/-- A launch queue at reset (R280). -/
def LqRegs.zero : LqRegs := ⟨0, 0, false, 0, 0⟩

/-- The BAR0 registers of a VF (R9, R280, R331, R351, R368, R393, R409). -/
structure FnRegs where
  featReq0 : DWord
  featReq1 : DWord
  featMiss0 : DWord
  featMiss1 : DWord
  lq : Cells LqRegs
  mcmd : DWord
  mva : DWord
  mlen : DWord
  mpeer : DWord
  mbusy : Bool
  mresult : BitVec 8
  mlbase : DWord
  mllog : BitVec 5
  mlen_ : Bool
  mldrop : BitVec 32
  ccmd : DWord
  cbusy : Bool
  cresult : BitVec 8
  dlock : BitVec 5
  dact : BitVec 4
  dstat : BitVec 8
  dsel : DWord
  dreg : DWord
  dmem : DWord
  ddata : DWord
  dprof : DWord
  deriving DecidableEq, Repr
/-- Every register of a VF at reset is 0 (R9, R280, R331, R368, R393). -/
def FnRegs.zero : FnRegs :=
  { featReq0 := 0, featReq1 := 0, featMiss0 := 0, featMiss1 := 0, lq := [], mcmd := 0, mva := 0, mlen := 0, mpeer := 0,
    mbusy := false, mresult := 0, mlbase := 0, mllog := 0, mlen_ := false, mldrop := 0, ccmd := 0, cbusy := false,
    cresult := 0, dlock := 0, dact := 0, dstat := 0, dsel := 0, dreg := 0, dmem := 0, ddata := 0, dprof := 0 }

/-- The PF's registers (R9, R377). -/
structure PfRegs where
  featReq0 : DWord
  featReq1 : DWord
  featMiss0 : DWord
  featMiss1 : DWord
  vfEnable : Bool
  ckcmd : DWord
  ckpart : DWord
  cktier : DWord
  ckbase : DWord
  ckbusy : Bool
  ckresult : BitVec 8
  cklen : DWord
  deriving DecidableEq, Repr

/-- What an SPDM response carries (R347): the versions answered; the signature algorithm, the hash and its length, with the lengths of
a signature and a public key; the digest of the chain of slot 0; that chain (the root's, the device's and the alias certificate); a
signature made with a key, over contents named by a free number; other contents; an error. Keys and certificates are names. -/
inductive SpdmBody where
  | versions (l : List Nat)
  | algorithms (sig hash : String) (digestBytes sigBytes keyBytes : Nat)
  | chainDigest (d : Nat)
  | chain (root device alias_ : Nat)
  | signed (key sigBytes content : Nat)
  | other (content : Nat)
  | error
  deriving DecidableEq, Repr

/-- Answers and signals that leave the module (R222, R283, R284, R337, R342, R347, R349, R267). Contents the manual does
not give are named by a free number. -/
inductive HostMsg where
  | irq (part : BitVec 6)
  | pri (part : BitVec 6) (pasid va : Nat)
  | tdisp (part : BitVec 6) (ok : Bool) (state : Option Tdi)
  | report (part : BitVec 6) (quads : List Nat) (pool quantum bar : Nat) (feat : DWord) (policy : Nat)
  | spdm (f : Fn) (kind : Nat) (body : SpdmBody)
  | unsupported (part : BitVec 6)
  | measurements (f : Fn) (blocks : List Nat)
  | left (part : BitVec 6)
  | firmwareRefused (kind : FirmwareKind)
  | thermalTrip
  | peerReply (dev tag : Nat) (bytes : List Byte) (resident : Bool) (cause : Nat)
  | collective (dev : Nat) (kind : Nat) (chan : Nat) (word : DWord) (data : List Byte)
  | regValue (part : BitVec 6) (off : Nat) (val : DWord)
  | linkRetrain (l : Link)
  | hostRead (part : BitVec 6) (va : Nat) (bytes : List Byte) (poisoned : Bool)
  | keyWrapped (part : BitVec 6) (key : Nat)
  deriving DecidableEq, Repr

/-- SPDM state of a function (R347). -/
inductive Spdm where
  | idle | negotiated | keyed | session
  deriving DecidableEq, Repr

/-- A completion record that waits to be written at DONE (R283, R284). -/
structure DonePend where
  id : Nat
  part : BitVec 6
  addr : Nat
  status : BitVec 8
  detail : BitVec 8
  tag : DWord
  notify : Bool
  asked : List (Nat × Option Bool)
  deriving DecidableEq, Repr

/-- A killed launch whose KIND 6 record waits for room in its ring or for a page, before its completion record (R366, R375). -/
structure KillPend where
  id : Nat
  part : BitVec 6
  ring : Nat
  log : Nat
  words : List DWord
  asked : List (Nat × Option Bool)
  reason : BitVec 8
  done : Nat
  tag : DWord
  notify : Bool
  deriving DecidableEq, Repr

/-- A KIND 5 or 7 record that waits for a Host page of its ring (R366): of a context's fault ring, or of the partition's management log. -/
structure NotePend where
  id : Nat
  part : BitVec 6
  ctx : Option Nat
  words : List DWord
  asked : List (Nat × Option Bool)
  deriving DecidableEq, Repr

/-- What a checkpoint image carries of one partition (R378): its tables and queue states, its contexts and everything they
hold, its sequences, and its frames with their bytes and poison marks. `dev` is the safe-tier device that holds it (R377), `top` lies above every identifier in it, `size` is its
length in the tier; its manifest holds measurements 1 to 5 of the source and the interface report. -/
structure Image where
  src : BitVec 6
  dev : BitVec 9
  base : Nat
  size : Nat
  key : Nat
  manifest : Bool
  measures : List Nat
  report : Option Frozen
  top : Nat
  part : Partition
  lq : Cells LqRegs
  ctxs : Cells Context
  clus : Cells Cluster
  teams : Cells Team
  groups : Cells Group
  parts : Cells Part
  seqs : Cells SeqCtx
  cmds : List Cmd
  lands : List Landing
  recs : List PendRec
  dones : List DonePend
  kills : List KillPend
  notes : List NotePend
  dropped : List DroppedReq
  sqs : List Sq
  frames : Cells Frame
  mem : Cells Byte
  poison : List Nat
  tablePoison : List Nat
  deriving DecidableEq, Repr

/-- A checkpoint or restore in progress (R378, R379). -/
structure CkRun where
  restore : Bool
  cont : Bool
  parts : List (BitVec 6)
  deriving DecidableEq, Repr

/-- What waits for the end of a checkpoint's or restore's copy: an access from a peer, a write of MCMD or CCMD, a kill, a leave (R378,
R381). -/
inductive Deferred where
  | kill (p : BitVec 6) (ctx : Nat) (reason : BitVec 8)
  | leave (p : BitVec 6) (why : Leave)
  | peer (a : PeerAccess)
  | mcmd (p : BitVec 6) (val : DWord)
  | ccmd (p : BitVec 6) (val : DWord)
  deriving DecidableEq, Repr

/-- What moves next: an operation of the table, or an agent that issues its next instruction. -/
inductive Turn where
  | event (i : Instr)
  | agent (a : Agent)
  /-- A register request that reaches a VF without IDE protection (R346). -/
  | bare (i : Instr)
  /-- A PF request that changes the BAR layout of a VF's TDI (R343), for which the table has no operation. -/
  | relayout (p : BitVec 6) (bar : Nat)
  deriving DecidableEq, Repr

/-- The issue latch: length of what was fetched and the dictionary entry it came through (R36, R47, R54). -/
structure Issue where
  len : Nat
  entry : Option (BitVec 7)
  deriving DecidableEq, Repr

/-- The state of the module. `inbox`, `agent`, `iss`, `bare`, `tick` and `nextId` are the model's own: what moves next, the
executing agent, its issue latch, whether the register request under way lacks IDE protection (R346), the count that free values are drawn with, and the next fresh identifier. `fwRuns` is set once a start has verified every
firmware image (R348). `deferred` holds the host commands, kills, leaves and peer accesses that wait for the end of a checkpoint's or
restore's copy (R378, R381), `stale` the devices and channels whose next `xred` announcement belongs to a round that has failed (R268),
`breaches` the partitions in whose table the MC has met a frame outside their pool (R339). -/
structure State where
  inbox : List Turn
  agent : Agent
  iss : Issue
  bare : Bool
  tick : Nat
  nextId : Nat
  clockMhz : Nat
  thermalStop : Bool
  measures : Cells Nat
  fwVersion : Cells Nat
  fwImage : Cells Nat
  fwRuns : Bool
  fns : Cells FnRegs
  pf : PfRegs
  spdm : Cells Spdm
  pars : Cells Partition
  ctxs : Cells Context
  clus : Cells Cluster
  teams : Cells Team
  groups : Cells Group
  parts : Cells Part
  seqs : Cells SeqCtx
  cores : Cells Core
  quads : Cells Quad
  frames : Cells Frame
  mem : Cells Byte
  poison : List Nat
  tablePoison : List (BitVec 6 × Nat)
  copies : List DieCopy
  clocks : Cells (List Nat)
  lands : List Landing
  stores : List PStore
  upds : List DieUpd
  cmds : List Cmd
  pris : List PriReq
  recs : List PendRec
  dones : List DonePend
  kills : List KillPend
  notes : List NotePend
  sqs : List Sq
  dropped : List DroppedReq
  deferred : List Deferred
  breaches : List (BitVec 6)
  ports : BitVec 8
  peers : List Nat
  peerMem : Cells Byte
  arrivals : List PeerCollective
  stale : List (BitVec 9 × BitVec 6)
  ck : Option CkRun
  tier : List Image
  out : List HostMsg
  deriving DecidableEq, Repr

/-- The module after power-on. -/
def State.reset : State :=
  { inbox := [], agent := .none, iss := ⟨4, none⟩, bare := false, tick := 0, nextId := 0, clockMhz := 3600, thermalStop := false,
    measures := [], fwVersion := [], fwImage := [], fwRuns := false, fns := [],
    pf := { featReq0 := 0, featReq1 := 0, featMiss0 := 0, featMiss1 := 0, vfEnable := false, ckcmd := 0, ckpart := 0,
            cktier := 0, ckbase := 0, ckbusy := false, ckresult := 0, cklen := 0 },
    spdm := [], pars := [], ctxs := [], clus := [], teams := [], groups := [], parts := [], seqs := [], cores := [],
    quads := [], frames := [], mem := [], poison := [], tablePoison := [], copies := [], clocks := [], lands := [],
    stores := [], upds := [], cmds := [], pris := [], recs := [], dones := [], kills := [], notes := [], sqs := [], dropped := [],
    deferred := [], breaches := [], ports := 0, peers := [], peerMem := [], arrivals := [], stale := [], ck := none, tier := [], out := [] }

/-- The canonical form of memory: addresses strictly rising, no listed byte 0. -/
abbrev Memory.wf (m : Cells Byte) : Prop := Cells.canon (0 : Byte) m = true

/-- The canonical form holds of every memory of the state: HBM4, the tenants' host memories, the peers' memory. -/
abbrev State.memWf (s : State) : Prop :=
  Memory.wf s.mem ∧ Memory.wf s.peerMem ∧ ∀ p ∈ s.pars, Memory.wf p.2.hostMem

end Sys2Proof.Machine
end

