-- ==== Sys2Proof/Machine/Place.lean ====
section
/-!
DEFINITION. Where things are: numbers of cores, quads and dies (R11, R15), and the agents' places, contexts and common
state.
-/

namespace Sys2Proof.Machine

/-- One of a list of free numbers, which one is left open (DESIGN CHOICE, log entry 32). -/
def anyOf (kind count : Nat) (l : List Nat) : Nat := l.getD (Config.choice kind count % l.length) 0

/-! ### Geometry -/

/-- Die of a core; sequencer cores are numbered 768 + quad here, copy engines 1024 + quad. -/
def coreDie (c : Nat) : Nat :=
  if c < 768 then c / 192 else if c < 1024 then (c - 768) / 48 else if c < 1216 then (c - 1024) / 48 else 0
/-- Quad of a core (R11). -/
def coreQuad (c : Nat) : Nat :=
  if c < 768 then c / 192 * 48 + c % 192 / 32 * 8 + c % 16 / 2 else if c < 1024 then c - 768 else c - 1024
/-- First core of a quad (R11). -/
def quadCore (q : Nat) : Nat := q / 48 * 192 + q % 48 / 8 * 32 + q % 8 * 2
/-- The four cores of a quad. -/
def quadCores (q : Nat) : List Nat := [quadCore q, quadCore q + 1, quadCore q + 16, quadCore q + 17]

/-- Width and height in cores of a cluster shape (R14, R27). -/
def shapeDims : Nat → Nat × Nat
  | 0 => (2, 2) | 1 => (2, 4) | 2 => (4, 2) | 3 => (2, 6) | _ => (6, 2)
/-- Teams per cluster (R15). -/
def shapeSize (sh : Nat) : Nat := (shapeDims sh).1 * (shapeDims sh).2
/-- The core of a rank in the cluster whose upper-left quad is (qx, qy) of a die (R15). -/
def rankCore (sh die qx qy r : Nat) : Nat :=
  die * 192 + (qy * 2 + r / (shapeDims sh).1) * 16 + (qx * 2 + r % (shapeDims sh).1)
/-- The quads of such a cluster, in rank order (R15). -/
def rectQuads (sh die qx qy : Nat) : List Nat :=
  (List.range (shapeSize sh / 4)).map fun k =>
    die * 48 + (qy + k / ((shapeDims sh).1 / 2)) * 8 + (qx + k % ((shapeDims sh).1 / 2))

/-! ### Agents -/

/-- A default value for a table read whose key is known to be listed. -/
def Thread.fresh (pc : DWord) (sregs : Cells SReg) : Thread :=
  { pc := pc, sregs := sregs, wait := .none, stop := .running, report := .zero, asked := [], ready := 0, since := 0, ref := .free,
    woken := .none, next := 0 }

/-- The team of a group. -/
def groupTeam (s : State) (g : Group) : Option Team := Cells.get? g.tid s.teams
/-- The team of a part. -/
def partTeam (s : State) (p : Part) : Option Team :=
  match Cells.get? p.gid s.groups with
  | some g => Cells.get? g.tid s.teams
  | none => none

/-- The context of an agent. -/
def agentCtx (s : State) : Agent → Option Nat
  | .none => none
  | .part pid => match Cells.get? pid s.parts with
    | some p => match partTeam s p with
      | some t => some t.ctx
      | none => none
    | none => none
  | .seq sc => match Cells.get? sc s.seqs with
    | some q => some q.ctx
    | none => none

/-- The core whose queues an agent uses: a part's core, 768 + quad for a sequencer context. -/
def agentCore (s : State) : Agent → Nat
  | .none => 0
  | .part pid => match Cells.get? pid s.parts with
    | some p => match partTeam s p with
      | some t => t.core
      | none => 0
    | none => 0
  | .seq sc => 768 + sc / 8

/-- The quad rank of a team in its cluster (R15). -/
def quadRank (sh r : Nat) : Nat := r / (shapeDims sh).1 / 2 * ((shapeDims sh).1 / 2) + r % (shapeDims sh).1 / 2
/-- The quad of a sequencer context; of a saved one (keys from 4096 on) the quad that it left, where its teams' cores were. -/
def seqQuad (s : State) (sc : Nat) : Nat :=
  if sc < 4096 then sc / 8
  else match Cells.get? sc s.seqs with
    | none => 0
    | some q =>
      let sh := ((Cells.get? q.ctx s.ctxs).map fun k => k.lr.shape).getD 0
      ((s.teams.find? fun t => t.2.uid == q.uid && quadRank sh t.2.rank == sc / 8 % 4).map fun t => coreQuad t.2.core).getD 0

/-- The launch record of a context, if it exists. -/
def ctxOf? (s : State) (c : Nat) : Option Context := Cells.get? c s.ctxs

/-- The partition id of a context. -/
def ctxPart (s : State) (c : Nat) : BitVec 6 :=
  match ctxOf? s c with
  | some k => k.part
  | none => 0

/-- What an agent's accesses are made as: context, partition, core, die and the agent itself, which is none for an engine. -/
structure Place where
  ctx : Nat
  part : BitVec 6
  core : Nat
  die : Nat
  who : Agent := .none
  deriving DecidableEq, Repr

/-- The place of an agent. -/
def placeOf (s : State) (a : Agent) : Place :=
  let c := (agentCtx s a).getD 0
  let k := agentCore s a
  { ctx := c, part := ctxPart s c, core := k, die := coreDie k, who := a }

/-- The thread of an agent. -/
def thread? (s : State) : Agent → Option Thread
  | .none => none
  | .part pid => (Cells.get? pid s.parts).map Part.thr
  | .seq sc => (Cells.get? sc s.seqs).map SeqCtx.thr

/-- Change the thread of an agent. -/
def setThread (a : Agent) (f : Thread → Thread) (s : State) : State :=
  match a with
  | .none => s
  | .part pid => { s with parts := Cells.modify pid (fun p => { p with thr := f p.thr }) s.parts }
  | .seq sc => { s with seqs := Cells.modify sc (fun q => { q with thr := f q.thr }) s.seqs }

/-- Change a part. -/
def setPart (pid : Nat) (f : Part → Part) (s : State) : State := { s with parts := Cells.modify pid f s.parts }
/-- Change a group. -/
def setGroup (gid : Nat) (f : Group → Group) (s : State) : State := { s with groups := Cells.modify gid f s.groups }
/-- Change a team. -/
def setTeam (tid : Nat) (f : Team → Team) (s : State) : State := { s with teams := Cells.modify tid f s.teams }
/-- Change a cluster. -/
def setCluster (uid : Nat) (f : Cluster → Cluster) (s : State) : State := { s with clus := Cells.modify uid f s.clus }
/-- Change a context. -/
def setCtx (c : Nat) (f : Context → Context) (s : State) : State := { s with ctxs := Cells.modify c f s.ctxs }
/-- Change a sequencer context. -/
def setSeq (sc : Nat) (f : SeqCtx → SeqCtx) (s : State) : State := { s with seqs := Cells.modify sc f s.seqs }
/-- Change a partition. -/
def setPar (p : BitVec 6) (f : Partition → Partition) (s : State) : State :=
  { s with pars := Cells.modify p.toNat f s.pars }
/-- Change a core, which reads as at power-on where not listed. -/
def setCore (k : Nat) (f : Core → Core) (s : State) : State :=
  { s with cores := Cells.put Core.zero k (f (Cells.get Core.zero k s.cores)) s.cores }
/-- Change a quad, which reads as at power-on where not listed. -/
def setQuad (q : Nat) (f : Quad → Quad) (s : State) : State :=
  { s with quads := Cells.put Quad.zero q (f (Cells.get Quad.zero q s.quads)) s.quads }
/-- A core's state. -/
def coreOf (s : State) (k : Nat) : Core := Cells.get Core.zero k s.cores
/-- A quad's state. -/
def quadOf (s : State) (q : Nat) : Quad := Cells.get Quad.zero q s.quads
/-- The registers of a VF. -/
def fnOf (s : State) (p : BitVec 6) : FnRegs := Cells.get FnRegs.zero p.toNat s.fns
/-- Change the registers of a VF. -/
def setFn (p : BitVec 6) (f : FnRegs → FnRegs) (s : State) : State :=
  { s with fns := Cells.put FnRegs.zero p.toNat (f (Cells.get FnRegs.zero p.toNat s.fns)) s.fns }
/-- The state of a partition, if created. -/
def parOf? (s : State) (p : BitVec 6) : Option Partition := Cells.get? p.toNat s.pars
/-- A message to the outside. -/
def send (m : HostMsg) (s : State) : State := { s with out := s.out ++ [m] }

/-- A fresh identifier. -/
def freshId (s : State) : Nat × State := (s.nextId, { s with nextId := s.nextId + 1 })

/-- The teams of a context. -/
def ctxTeams (s : State) (c : Nat) : List (Nat × Team) := s.teams.filter fun t => t.2.ctx == c
/-- The groups of a team. -/
def teamGroups (s : State) (tid : Nat) : List (Nat × Group) := s.groups.filter fun g => g.2.tid == tid
/-- The parts of a group. -/
def groupParts (s : State) (gid : Nat) : List (Nat × Part) := s.parts.filter fun p => p.2.gid == gid
/-- The sequencer contexts of a context. -/
def ctxSeqs (s : State) (c : Nat) : List (Nat × SeqCtx) := s.seqs.filter fun q => q.2.ctx == c
/-- The teams of a cluster. -/
def unitTeams (s : State) (uid : Nat) : List (Nat × Team) := s.teams.filter fun t => t.2.uid == uid
/-- A unit is resident or still running on its cores while its save goes on (R300, R302). -/
def unitResident (s : State) (uid : Nat) : Bool :=
  match Cells.get? uid s.clus with
  | some u => u.res == .resident
  | none => false
/-- The unit of an agent. -/
def agentUnit (s : State) : Agent → Option Nat
  | .none => none
  | .part pid => match Cells.get? pid s.parts with
    | some p => (partTeam s p).map Team.uid
    | none => none
  | .seq sc => (Cells.get? sc s.seqs).map SeqCtx.uid

/-- The lowest lane of a mask, or 64. -/
def lowLane (m : DWord) : Nat := ((List.range 64).find? fun l => m.getLsbD l).getD 64
/-- The lanes of a mask among the first w, ascending. -/
def lanesOf (w : Nat) (m : DWord) : List Nat := (List.range w).filter fun l => m.getLsbD l
/-- The mask of a list of lanes. -/
def maskOf (ls : List Nat) : DWord := ls.foldl (fun m l => m ||| (1#64 <<< l)) 0
/-- The low w bits. -/
def lowMask (w : Nat) : DWord := BitVec.ofNat 64 (2 ^ w - 1)

end Sys2Proof.Machine
end

