-- ==== Sys2Proof/Machine/Memory.lean ====
section
/-!
DEFINITION. Memory: bytes and byte order (R35), frames (R336, R409), translation (R329 to R341), homes with die copies and
their clocks (R220, R221), the L1 (R219, R339, R340), the store queue of a core (R210), staged writes of deterministic
launches (R237 to R240), and the values of atomics (R250).
-/

namespace Sys2Proof.Machine

/-! ### Bytes -/

/-- The number that little-endian bytes spell (R35). -/
def ofBytes : List Byte → Nat
  | [] => 0
  | b :: r => b.toNat + 256 * ofBytes r
/-- The n little-endian bytes of a number (R35). -/
def toBytes : Nat → Nat → List Byte
  | 0, _ => []
  | n + 1, v => BitVec.ofNat 8 v :: toBytes n (v / 256)
/-- A byte of a memory; an unlisted byte reads 0. -/
def memByte (m : Cells Byte) (a : Nat) : Byte := Cells.get 0 a m
/-- n bytes of a memory. -/
def memBytes (m : Cells Byte) (a n : Nat) : List Byte := (List.range n).map fun i => memByte m (a + i)
/-- Write bytes from an address upward. -/
def memWrite (m : Cells Byte) (a : Nat) : List Byte → Cells Byte
  | [] => m
  | b :: r => memWrite (Cells.put 0 a b m) (a + 1) r
/-- Zero n bytes. -/
def memZero (m : Cells Byte) (a n : Nat) : Cells Byte := m.filter fun p => decide (p.1 < a) || decide (a + n ≤ p.1)
/-- The n bytes from an address, re-based to 0. -/
def memSlice (m : Cells Byte) (a n : Nat) : Cells Byte :=
  m.filterMap fun p => if a ≤ p.1 ∧ p.1 < a + n then some (p.1 - a, p.2) else none
/-- n bytes from an address as a number. -/
def memNat (m : Cells Byte) (a n : Nat) : Nat := ofBytes (memBytes m a n)

/-- Cut bytes at the ends of lines of n bytes. -/
def splitAt (n : Nat) : Nat → Nat → List Byte → List (Nat × List Byte)
  | 0, _, _ => []
  | fuel + 1, a, d =>
    if d.length ≤ n - a % n then (if d.isEmpty then [] else [(a, d)])
    else (a, d.take (n - a % n)) :: splitAt n fuel (a + (n - a % n)) (d.drop (n - a % n))
/-- Cut bytes at line boundaries of 128 bytes. -/
def splitLines (a : Nat) (d : List Byte) : List (Nat × List Byte) := splitAt 128 (d.length / 128 + 2) a d

/-! ### Virtual addresses of a physical one -/

/-- First address of a region given by bits 55:48. -/
def region (b : Nat) : Nat := b * 2 ^ 48
/-- log2 of a sequence's element size (R270). -/
def cfgEsz (c : DWord) : Nat := (c.extractLsb' 0 5).toNat
/-- log2 of a sequence's slots per segment (R270). -/
def cfgG (c : DWord) : Nat := (c.extractLsb' 5 5).toNat
/-- The sequence keeps summaries (R270). -/
def cfgSummary (c : DWord) : Bool := c.getLsbD 10
/-- Columns summarised (R270). -/
def cfgCols (c : DWord) : Nat := (c.extractLsb' 16 16).toNat
/-- Bytes of a segment (R270). -/
def segBytes (cfg : DWord) : Nat := 2 ^ (cfgEsz cfg + cfgG cfg)
/-- Bytes of the frames of a segment: 4 KiB, 64 KiB or 2 MiB as its size allows (R410). -/
def segPiece (cfg : DWord) : Nat :=
  if 2097152 ≤ segBytes cfg then 2097152 else if 65536 ≤ segBytes cfg then 65536 else 4096
/-- The physical address of a byte of a segment in its frames. -/
def segByte (cfg : DWord) (fs : List Nat) (o : Nat) : Option Nat :=
  (fs[o / segPiece cfg]?).map fun a => a + o % segPiece cfg
/-- The address lies in an ordered range of a deterministic launch (R237). -/
def inOrdered (k : Context) (va : Nat) : Bool :=
  k.lr.det && k.ordered.any fun r => decide (r.1 ≤ va) && decide (va < r.1 + r.2)
/-- The virtual addresses of a partition at which a byte of a frame stands: in its pages, and in the windows of its sequences. -/
def virtuals (s : State) (p : BitVec 6) (pa : Nat) : List Nat :=
  (match parOf? s p with
   | some t => t.pages.filterMap fun e => match e.2.state with
     | .device ph => if e.2.kind ≠ .seq ∧ ph ≤ pa ∧ pa < ph + e.2.size then some (e.1 + (pa - ph)) else none
     | _ => none
   | none => []) ++
    (s.sqs.filter fun q => q.part == p).flatMap fun q => q.segs.flatMap fun g => (g.2.mapIdx fun i a => (i, a)).filterMap fun e =>
      if e.2 ≤ pa ∧ pa < e.2 + segPiece q.cfg then some (q.win + g.1 * segBytes q.cfg + e.1 * segPiece q.cfg + (pa - e.2)) else none
/-- Some 32-byte sector of a range is marked. -/
def anyPoison (a n : Nat) (l : List Nat) : Bool := l.any fun q => decide (q < a + n) && decide (a < q + 32)
/-- Stores at some addresses with their lengths cover the granule of z bytes that holds an address (R372). -/
def coversGranule (z : Nat) (rs : List (Nat × Nat)) (a : Nat) : Bool :=
  (List.range z).all fun i => rs.any fun r => decide (r.1 ≤ a / z * z + i) && decide (a / z * z + i < r.1 + r.2)
/-- n bytes of HBM4 with the poison marks of their sectors: none for a poisoned byte (R372). -/
def heldBytes (s : State) (pa n : Nat) : List (Option Byte) :=
  (List.range n).map fun i => if anyPoison (pa + i) 1 s.poison then none else some (memByte s.mem (pa + i))
/-- n bytes behind a peer window, where this device marks no poison. -/
def peerMarks (s : State) (o n : Nat) : List (Option Byte) := (memBytes s.peerMem o n).map some
/-- Add, under their addresses, the bytes that a list does not hold yet. -/
def addBytes (va : Nat) (old : List (Option Byte)) (m : Cells (Option Byte)) : Cells (Option Byte) :=
  (old.mapIdx fun i b => (va + i, b)).foldl (fun m q => if (Cells.get? q.1 m).isNone then Cells.insert q.1 q.2 m else m) m
/-- Before bytes of an ordered range change, every team of the launch that has not exited keeps what it started with (R238; DEDUCED,
log entry 68). -/
def keepViews (ctx va : Nat) (old : List (Option Byte)) (s : State) : State :=
  { s with teams := s.teams.map fun t =>
      if t.2.ctx = ctx ∧ t.2.exited = false then (t.1, { t.2 with view := addBytes va old t.2.view }) else t }
/-- Before bytes change that a team has written through, what they held before it is kept for teams that start until it is applied
(R238, R240). -/
def keepUndo (ctx va : Nat) (old : List (Option Byte)) (s : State) : State :=
  { s with teams := s.teams.map fun t =>
      if t.2.ctx = ctx ∧ t.2.through = true ∧ t.2.applied = false then (t.1, { t.2 with undo := addBytes va old t.2.undo }) else t }
/-- Another write to bytes that a team has written through stands for teams that start later. -/
def dropUndo (ctx va n : Nat) (s : State) : State :=
  { s with teams := s.teams.map fun t =>
      if t.2.ctx = ctx then (t.1, { t.2 with undo := t.2.undo.filter fun q => decide (q.1 < va) || decide (va + n ≤ q.1) }) else t }
/-- Bytes at virtual addresses change: the deterministic launches of some partitions in whose ordered ranges they lie keep their teams'
views (R238). -/
def keepAt (at_ : BitVec 6 → List Nat) (old : List (Option Byte)) (s : State) : State :=
  s.ctxs.foldl (fun s k =>
    if k.2.lr.det then
      ((at_ k.2.part).filter (inOrdered k.2)).foldl (fun s va => dropUndo k.1 va old.length (keepViews k.1 va old s)) s
    else s) s
/-- Write bytes behind a peer window at their home (R222). -/
def peerWrite (o : Nat) (d : List Byte) (s : State) : State :=
  let s := keepAt (fun _ => [region 0x80 + o]) (peerMarks s o d.length) s
  { s with peerMem := memWrite s.peerMem o d }

/-! ### Homes and dies -/

/-- Bytes of one HBM4 stack (R1). -/
def stackBytes : Nat := 51539607552
/-- Physical addresses of one stack as this model lays them out: three windows of 2^39, one for each page size, so that a
frame's place never depends on frames of other sizes (PRESUMED, log entry 9). -/
def stackSpan : Nat := 2 ^ 41
/-- First physical address of the window of a stack for frames of z bytes (PRESUMED, log entry 9). -/
def classBase (k z : Nat) : Nat := k * stackSpan + (if z = 4096 then 0 else if z = 65536 then 1 else 2) * 2 ^ 39
/-- The die beside a physical address's stack (R11). -/
def physDie (pa : Nat) : Nat := pa / stackSpan % 8 / 2

/-- A die's vector clock (R221). -/
def dieClock (s : State) (d : Nat) : List Nat := Cells.get [0, 0, 0, 0] d s.clocks
/-- No component of one clock is above the other's. -/
def leClock (a b : List Nat) : Bool := (a.zip b).all fun p => decide (p.1 ≤ p.2)
/-- A clock shows another as causally earlier: no component above, and not the same (R221). -/
def ltClock (a b : List Nat) : Bool := leClock a b && a != b
/-- The addresses of marked sectors, rising, after a write of n bytes at a: sectors wholly covered lose their mark, by this write or by
the last one of its store (R372). -/
def marksAfter (m : SectorMark) (a n : Nat) (l : List Nat) : List Nat :=
  let q := a / 32 * 32
  let l := l.filter fun x => !(decide (a ≤ x) && decide (x + 32 ≤ a + n))
  match m with
  | .kept => l
  | .cleared => l.filter fun x => x != q
  | .set => (l.filter fun x => decide (x < q)) ++ [q] ++ l.filter fun x => decide (q < x)
/-- What a store of some lanes does to a sector's mark: cleared where its instruction has covered the sector (R372). -/
def wholeMark (w : Bool) : SectorMark := if w then .cleared else .kept
/-- A line after a write at an offset. -/
def Line.write (m : SectorMark) (o : Nat) (d : List Byte) (l : Line) : Line := ⟨memWrite l.bytes o d, marksAfter m o d.length l.marks⟩
/-- Some of n bytes at an offset of a line lies in a marked sector. -/
def Line.marked (l : Line) (o n : Nat) : Bool := anyPoison o n l.marks
/-- n bytes at an offset of a line, unless one is poisoned (R372). -/
def Line.read (l : Line) (o n : Nat) : Option (List Byte) := if l.marked o n then none else some (memBytes l.bytes o n)
/-- A line as its home holds it (R371). -/
def homeData (s : State) (line : Nat) : Line :=
  ⟨memSlice s.mem (line * 128) 128, ([0, 32, 64, 96] : List Nat).filter fun o => anyPoison (line * 128 + o) 32 s.poison⟩
/-- Apply an update to the copy it is for. -/
def patchCopy (u : DieUpd) (c : DieCopy) : DieCopy :=
  if c.die = u.die ∧ c.line = u.addr / 128 then { c with data := c.data.write u.mark (u.addr % 128) u.data } else c
/-- Apply, in the order in which they were sent, the updates that meet a condition. -/
def applyUpds (c : DieUpd → Bool) (s : State) : State :=
  { s with copies := (s.upds.filter c).foldl (fun cs u => cs.map (patchCopy u)) s.copies, upds := s.upds.filter fun u => !c u }
/-- A die merges a clock that it receives into its own (R221). -/
def mergeClock (d : Nat) (c : List Nat) (s : State) : State :=
  { s with clocks := Cells.insert d (List.zipWith max (dieClock s d) c) s.clocks }
/-- A die receives a clock: it applies every update that the clock shows as causally earlier, and merges the clock (R221). -/
def joinClock (d : Nat) (c : List Nat) (s : State) : State :=
  mergeClock d c (applyUpds (fun u => u.die == d && ltClock u.clock c) s)
/-- An update that goes to its die no later than another: one that the other's clock shows as causally earlier, one that was
sent before it for the same line (R220, R221), or itself. -/
def noLater (u v : DieUpd) : Bool :=
  v.die == u.die && (ltClock v.clock u.clock || (v.addr / 128 == u.addr / 128 && decide (v.ticket ≤ u.ticket)))
/-- An update arrives: its die applies what goes before it, then the update, and merges its clock (R221). -/
def takeUpd (u : DieUpd) (s : State) : State := mergeClock u.die u.clock (applyUpds (noLater u) s)
/-- A release at package or system scope advances the entry of its own die (R221). -/
def advanceClock (d : Nat) (s : State) : State :=
  { s with clocks := Cells.insert d ((dieClock s d).modify d (· + 1)) s.clocks }
/-- Every update reaches its die, which merges its clock (fence.full at package scope R218, releases at system scope R210, R221). -/
def drainUpds (s : State) : State :=
  s.upds.foldl (fun s u => mergeClock u.die u.clock s)
    { s with copies := s.upds.foldl (fun cs u => cs.map (patchCopy u)) s.copies, upds := [] }

/-- The updates that a write at its home sends to the dies that hold a copy of its line (R220). -/
def lineUpds (m : SectorMark) (pa : Nat) (d : List Byte) (s : State) : List DieUpd :=
  (s.copies.filter fun c => c.line == pa / 128 && c.die != physDie pa).mapIdx fun i c =>
    { ticket := s.nextId + i, die := c.die, addr := pa, data := d, mark := m, clock := dieClock s (physDie pa) }
/-- A home changes bytes within one line, and the poison marks of its sectors with them (R371, R372): every die that holds a copy of the
line is sent the new bytes (R208, R213, R220), and teams of a deterministic launch keep what they started with (R238). -/
def changeLine (m : SectorMark) (pa : Nat) (d : List Byte) (s : State) : State :=
  let s := keepAt (fun p => virtuals s p pa) (heldBytes s pa d.length) s
  { s with
    mem := memWrite s.mem pa d
    poison := marksAfter m pa d.length s.poison
    upds := s.upds ++ lineUpds m pa d s
    nextId := s.nextId + (lineUpds m pa d s).length }
/-- Perform a write of an agent of die `src` within one line at its home. The home takes the writer's clock, the writer's die
takes the home's with its own copy of the line up to date, so that no later read there returns an older value (R210, R212,
R221; DEDUCED, log entry 6). -/
def homeLine (m : SectorMark) (src pa : Nat) (d : List Byte) (s : State) : State :=
  let h := physDie pa
  let s := changeLine m pa d (joinClock h (dieClock s src) s)
  mergeClock src (dieClock s h) (match s.upds.reverse.find? fun u => u.die == src && u.addr / 128 == pa / 128 with
    | some u => takeUpd u s
    | none => s)
/-- Perform a write at its home, line by line. -/
def homeWrite (src pa : Nat) (d : List Byte) (s : State) : State :=
  (splitLines pa d).foldl (fun s l => homeLine .kept src l.1 l.2 s) s
/-- Perform a store of an instruction within a sector at its home; `w` says that the instruction has now stored the whole sector
(R372). -/
def homeStore (w : Bool) (src pa : Nat) (d : List Byte) (s : State) : State :=
  if w then homeLine .cleared src pa d s else homeWrite src pa d s

/-- Some 32-byte sector of the range is poisoned (R371); the address of the first. -/
def poisonedAt (s : State) (pa n : Nat) : Option Nat :=
  s.poison.find? fun q => decide (q < pa + n) && decide (pa < q + 32)

/-! ### Frames -/

/-- Bytes of a partition's pool in use (R409). -/
def poolUsed (s : State) (p : BitVec 6) : Nat :=
  ((s.frames.filter fun f => f.2.part == p).map fun f => f.2.size).sum +
    (match parOf? s p with
     | some t => (t.areaBytes.map Prod.snd).sum
     | none => 0)
/-- Bytes of a partition's pool (R409). -/
def poolSize (s : State) (p : BitVec 6) : Nat :=
  match parOf? s p with
  | some t => t.pool
  | none => 0
/-- Bytes of a stack that frames use. -/
def stackUsed (fs : Cells Frame) (k : Nat) : Nat := ((fs.filter fun f => f.1 / stackSpan == k).map fun f => f.2.size).sum
/-- No frame holds a byte of c to c + z. -/
def placeFree (fs : Cells Frame) (z c : Nat) : Bool := fs.all fun f => decide (c + z ≤ f.1) || decide (f.1 + f.2.size ≤ c)
/-- The lowest free place for a frame of z bytes in stack k: the window of its size holds frames of that size only (R336;
PRESUMED, log entry 9). The place past every frame is taken only in a state whose frames stand outside their windows, which
no run reaches. -/
def stackPlace (fs : Cells Frame) (k z : Nat) : Nat :=
  let cand := classBase k z :: (fs.filter fun f => f.2.size == z && f.1 / stackSpan == k).map fun f => f.1 + z
  (cand.find? (placeFree fs z)).getD ((fs.map fun f => f.1 + f.2.size).foldl max 0)
/-- Stacks in the order of R336 for an agent of a die. -/
def stackOrder (die : Nat) : List Nat :=
  [2 * die, 2 * die + 1] ++ (List.range 8).filter fun k => k / 2 != die
/-- The stack in which a frame of z bytes is taken: the first of the order with room, else the first (R336, R409). -/
def stackFor (fs : Cells Frame) (die z : Nat) : Nat :=
  ((stackOrder die).find? fun k => decide (stackUsed fs k + z ≤ stackBytes)).getD (2 * die)
/-- A zero-filled frame of z bytes beside a die, unless the pool is exhausted (R336); where it is not, there always is one
(R409). -/
def allocFrame (p : BitVec 6) (die z : Nat) (s : State) : Option (Nat × State) :=
  if poolSize s p < poolUsed s p + z then none
  else
    let a := stackPlace s.frames (stackFor s.frames die z) z
    some (a,
      { s with
        frames := Cells.insert a ⟨z, p, false⟩ s.frames
        mem := memZero s.mem a z
        poison := s.poison.filter fun q => decide (q < a) || decide (a + z ≤ q)
        copies := s.copies.filter fun c => decide (c.line * 128 + 128 ≤ a) || decide (a + z ≤ c.line * 128)
        upds := s.upds.filter fun u => decide (u.addr < a) || decide (a + z ≤ u.addr) })
/-- n frames of z bytes beside a die, unless the pool cannot hold them (R409, R410). -/
def allocFrames (p : BitVec 6) (die z : Nat) : Nat → State → Option (List Nat × State)
  | 0, s => some ([], s)
  | n + 1, s => match allocFrame p die z s with
    | none => none
    | some (a, s) => match allocFrames p die z n s with
      | none => none
      | some (as, s) => some (a :: as, s)
/-- After the last frame has moved, next becomes current and the old key is destroyed (R346); nothing where no rotation runs. -/
def endRotation (p : BitVec 6) (s : State) : State :=
  if ((parOf? s p).bind Partition.keyNext).isNone || s.frames.any (fun f => f.2.part == p && !f.2.nextKey) then s
  else
    let s := setPar p (fun t => { t with keyCur := t.keyNext, keyNext := none }) s
    { s with frames := s.frames.map fun f => if f.2.part = p then (f.1, { f.2 with nextKey := false }) else f }
/-- A frame's bytes are zeroed and it returns to the pool (R332, R337, R410); nothing of it stays in a cache or a queue. -/
def freeFrame (a : Nat) (s : State) : State :=
  match Cells.get? a s.frames with
  | some f =>
    let out (x : Nat) : Bool := decide (x < a) || decide (a + f.size ≤ x)
    endRotation f.part { s with
      frames := Cells.erase a s.frames
      mem := memZero s.mem a f.size
      poison := s.poison.filter out
      copies := s.copies.filter fun c => out (c.line * 128)
      upds := s.upds.filter fun u => out u.addr
      stores := s.stores.filter fun q => q.peer || out q.addr
      cores := (s.cores.map fun k => (k.1, { k.2 with
          l1 := k.2.l1.filter fun l => out (l.pline * 128)
          l1i := k.2.l1i.filter fun l => out (l.pline * 128) })).filter fun k => k.2 != Core.zero }
  | none => s

/-! ### Sequences in the address space -/

/-- The live sequence whose window holds an address, and the slot index there (R232, R270): where two windows overlap, the one minted
first (DESIGN CHOICE, log entry 60). -/
def seqAt (s : State) (p : BitVec 6) (va : Nat) : Option (Sq × Nat) :=
  match s.sqs.find? fun q => q.part == p && decide (q.win ≤ va) && decide (va < q.win + q.wmax * 2 ^ cfgEsz q.cfg) with
  | some q => some (q, (va - q.win) / 2 ^ cfgEsz q.cfg)
  | none => none
/-- The physical address of a slot's byte, if its segment is allocated. -/
def seqPhys (q : Sq) (va : Nat) : Option Nat :=
  match Cells.get? ((va - q.win) / segBytes q.cfg) q.segs with
  | some fs => segByte q.cfg fs ((va - q.win) % segBytes q.cfg)
  | none => none
/-- A frame that a table entry names lies in its partition's pool (R339; DEDUCED, log entry 77). -/
def inPool (s : State) (p : BitVec 6) (ph size : Nat) : Bool :=
  match Cells.get? ph s.frames with
  | some f => f.part == p && decide (size ≤ f.size)
  | none => false
/-- The frame that holds an address of a window, by its sequence's segments, is one of the partition's pool (R339). -/
def seqInPool (s : State) (p : BitVec 6) (q : Sq) (va : Nat) : Bool :=
  let o := (va - q.win) % segBytes q.cfg
  match seqPhys q va with
  | some pa => inPool s p (pa - o % segPiece q.cfg) (segPiece q.cfg)
  | none => false
/-- An address in a window page whose segment is not allocated: not resident (R270). -/
def unbacked (s : State) (p : BitVec 6) (va : Nat) : Bool :=
  match seqAt s p va with
  | some (q, _) => (seqPhys q va).isNone
  | none => false
/-- A slot is marked committed beyond CL (R273). -/
def slotMarked (q : Sq) (i : Nat) : Bool := q.committed.any fun r => decide (r.1 ≤ i) && decide (i < r.2)
/-- The check of a slot store: `none` where it is performed, else the DETAIL of SEQW (R232, R278). -/
def slotCheck (q : Sq) (i : Nat) : Option Nat :=
  if i < q.cl ∨ slotMarked q i then some 1 else if q.rl ≤ i then some 2 else none
/-- A store of n bytes touches a live descriptor of the partition (R270). -/
def onDescriptor (s : State) (p : BitVec 6) (va n : Nat) : Bool :=
  s.sqs.any fun q => q.part == p && decide (va < q.handle + 64) && decide (q.handle < va + n)

/-! ### Translation -/

/-- The kinds of access that R335 tells apart. -/
inductive AccessKind where
  /-- `ld` and the lane loads of R247. -/
  | lane
  /-- Every other read of a part or sequencer context. -/
  | read
  | write
  | fetch
  /-- Reads of the copy engine, encoder, collective unit, or the device itself. -/
  | engineRead
  | engineWrite
  /-- Records that the device itself stores: fault rings, completion records (R284, R366). -/
  | deviceWrite
  deriving DecidableEq, Repr

/-- What an address reaches: bytes of a frame, in a state where a first touch has been made, with the page's base and size
and whether it may be written; a sequence slot at or beyond CL; no resident page, with the DETAIL of NOPAGE; a Host page
that an engine may request; bytes behind a peer window; or a cause. -/
inductive Reach where
  | phys (s : State) (pa page size : Nat) (wr : Bool)
  | beyond
  | missing (detail : Nat)
  | ask (page : Nat)
  | peer (addr : Nat)
  | bad (cause detail : Nat)
  deriving DecidableEq, Repr

/-- The page of the device table that holds an address (R330). -/
def pageOf (t : Partition) (va : Nat) : Option (Nat × Page) :=
  t.pages.find? fun p => decide (p.1 ≤ va) && decide (va < p.1 + p.2.size)
/-- The right that an access needs (R335). -/
def allowed (pg : Page) : AccessKind → Bool
  | .lane | .read | .engineRead => pg.rd
  | .write | .engineWrite | .deviceWrite => pg.wr
  | .fetch => pg.ex
/-- The access stores. -/
def AccessKind.stores : AccessKind → Bool
  | .write | .engineWrite | .deviceWrite => true
  | _ => false
/-- The access is made by an engine (R335). -/
def AccessKind.engine : AccessKind → Bool
  | .engineRead | .engineWrite | .deviceWrite => true
  | _ => false
/-- A page in neither table (R334, R339): not resident, or refused to an engine. -/
def unmapped (k : AccessKind) : Reach :=
  if k = .fetch then .bad 0x07 0x03 else if k.engine then .missing 0x02 else .missing 0x00
/-- The table entry of a page names a frame outside the partition's pool: the page is as unmapped, whatever its rights (R339). -/
def strayPage (s : State) (p : BitVec 6) (pg : Page) : Bool :=
  match pg.state with
  | .device ph => !inPool s p ph pg.size
  | _ => false
/-- A slot's segment names such a frame. -/
def straySlot (s : State) (p : BitVec 6) (q : Sq) (va : Nat) : Bool := (seqPhys q va).isSome && !seqInPool s p q va

/-- An access through a peer window (R349): rights at once, then the outcome that the exporter answers (R335), which is left
open: the page is there, it is not, or it is poisoned (DESIGN CHOICE, log entry 22). -/
def reachPeer (t : Partition) (tick : Nat) (k : AccessKind) (va : Nat) : Reach :=
  let o := va - region 0x80
  let dev := BitVec.ofNat 9 (o / 2 ^ 45)
  match Cells.get? (o / 2 ^ 45) t.imports with
  | none => .bad 0x08 0x02
  | some rp =>
    if dev = Config.deviceId ∨ Config.peerLength dev rp ≤ o % 2 ^ 45 then .bad 0x08 0x02
    else if (if k.stores then Config.peerWrite dev rp else Config.peerRead dev rp) then
      (match Config.peerPage tick (o / 4096) with
       | 0 => .missing 0x00
       | 1 => if k.stores then .peer o else .bad 0x10 0x02
       | _ => .peer o)
    else .bad 0x08 0x02

/-- The address lies in such a slot. -/
def strayAt (s : State) (p : BitVec 6) (va : Nat) : Bool :=
  match seqAt s p va with
  | some (q, _) => straySlot s p q va
  | none => false
/-- An access to a page of kind SEQ (R232, R335, R341): whatever it is, a slot whose frame lies outside the pool is as unmapped (R339);
else a segment's pages are mapped for reading, and stores are slot stores. A load of a page that has no segment reads 0 (R246, R270;
DEDUCED, log entry 60). -/
def reachSeq (s : State) (p : BitVec 6) (k : AccessKind) (b va : Nat) (pg : Page) : Reach :=
  if strayAt s p va then unmapped k
  else match k with
  | .fetch => .bad 0x08 0x03
  | .deviceWrite => .bad 0x08 0x00
  | .write | .engineWrite => match seqAt s p va with
    | none => .bad 0x0A 0x04
    | some (q, i) => match slotCheck q i with
      | some d => .bad 0x0A d
      | none => match seqPhys q va with
        | some pa => .phys s pa b pg.size true
        | none => .bad 0x0A 0x02
  | _ => match seqAt s p va with
    | none => if !pg.rd then .bad 0x08 0x00 else unmapped k
    | some (q, i) => match seqPhys q va with
      | some pa => if q.cl ≤ i then .beyond else .phys s pa b pg.size true
      | none => if !pg.rd then .bad 0x08 0x00 else .beyond

/-- Translate an access of n bytes made by a partition's agent on a die (R329, R335, R336, R341); `walk` says whether the
device table is walked, so that a poisoned line of it is met (R339). -/
def reachWalk (walk : Bool) (s : State) (p : BitVec 6) (die : Nat) (k : AccessKind) (va n : Nat) : Reach :=
  if region 0xE0 ≤ va then (if k = .fetch then .bad 0x08 0x03 else .bad 0x08 0x01)
  else match parOf? s p with
  | none => if k = .fetch then .bad 0x07 0x03 else .missing 0x00
  | some t =>
    if region 0x80 ≤ va ∧ va < region 0xC0 then
      (if k = .fetch then .bad 0x08 0x03 else reachPeer t s.tick k va)
    else match pageOf t va with
    | none => unmapped k
    | some (b, pg) =>
      if walk && s.tablePoison.contains (p, b) then .bad 0x10 0x06
      else if pg.kind = .seq then reachSeq s p k b va pg
      else if strayPage s p pg then unmapped k
      else if !allowed pg k then (if k = .fetch then .bad 0x08 0x03 else .bad 0x08 0x00)
      else if k.stores ∧ onDescriptor s p va n then .bad 0x0A 0x03
      else match pg.state with
      | .device ph =>
        .phys s (ph + (va - b)) b pg.size (pg.wr || pg.kind == .table)
      | .host => if k = .fetch then .bad 0x07 0x03 else if k.engine then .ask b else .missing 0x00
      | .touch =>
        if k = .fetch then .bad 0x07 0x03
        else match allocFrame p die pg.size s with
        | some (ph, s') =>
          .phys (setPar p (fun t => { t with pages := Cells.insert b { pg with state := .device ph } t.pages }) s')
            (ph + (va - b)) b pg.size pg.wr
        | none => if k.engine then .missing 0x02 else .missing 0x01
/-- A translation that walks the device table. -/
def reach (s : State) (p : BitVec 6) (die : Nat) (k : AccessKind) (va n : Nat) : Reach := reachWalk true s p die k va n

/-- The quad's TLB holds the translation of an address (R339). -/
def inTlb (s : State) (pl : Place) (va : Nat) : Bool :=
  (quadOf s (coreQuad pl.core)).tlb.any fun e => e.ctx == pl.ctx && decide (e.page ≤ va) && decide (va < e.page + e.size)
/-- A core's L1 holds the line that a read or a fetch asks for (R339). -/
def inL1 (s : State) (pl : Place) (k : AccessKind) (va : Nat) : Bool :=
  decide (pl.core < 768) && (match k with
    | .lane | .read => (coreOf s pl.core).l1.any fun l => l.ctx == pl.ctx && l.vline == va / 128
    | .fetch => (coreOf s pl.core).l1i.any fun l => l.ctx == pl.ctx && l.vline == va / 128
    | _ => false)
/-- Translate an access of an agent: only what misses the L1 and the TLB walks the device table (R339). -/
def translate (s : State) (pl : Place) (k : AccessKind) (va n : Nat) : Reach :=
  reachWalk (!(inTlb s pl va || inL1 s pl k va)) s pl.part pl.die k va n

/-! ### L1, die copies and the store queue -/

/-- Lines that the L2 slices of a die hold (R1). -/
def dieLines : Nat := 2 ^ 20
/-- Room for one more copy at a die: where its slices hold no more lines, its oldest copy goes, with the updates on their way to it
(R1, R220; DESIGN CHOICE, log entry 6). -/
def makeRoom (die : Nat) (s : State) : State :=
  if (s.copies.filter fun c => c.die == die).length < dieLines then s
  else match s.copies.find? fun c => c.die == die with
    | none => s
    | some c => { s with copies := s.copies.erase c, upds := s.upds.filter fun u => !(u.die == die && u.addr / 128 == c.line) }
/-- The bytes of a physical line as its home or the die's copy holds them; a first read of another die's line makes a copy
under the home's clock (R220, R221), poison marks with it (R371). A copy serves only the partition that it is tagged with
(R345). -/
def dieLine (die : Nat) (p : BitVec 6) (line : Nat) (s : State) : Line × State :=
  let h := physDie (line * 128)
  if h = die then (homeData s line, s)
  else match s.copies.find? fun c => c.die == die && c.line == line && c.part == p with
    | some c => (c.data, s)
    | none =>
      let s := makeRoom die (joinClock die (dieClock s h) s)
      let b := homeData s line
      (b, { s with
        copies := (s.copies.filter fun c => !(c.die == die && c.line == line)) ++ [⟨die, p, line, b⟩]
        upds := s.upds.filter fun u => !(u.die == die && u.addr / 128 == line) })
/-- The stores that a core's queue holds for a line, over its bytes (R210, R219). -/
def overlay (s : State) (core line : Nat) (b : Line) : Line :=
  (s.stores.filter fun q => q.core == core && !q.peer && q.addr / 128 == line).foldl
    (fun b q => b.write (wholeMark q.whole) (q.addr % 128) q.data) b
/-- Some of n bytes is poisoned at its home, once the core's own stores to the line are performed there (R210, R212, R372). -/
def homeMarked (s : State) (core pa n : Nat) : Bool := (overlay s core (pa / 128) (homeData s (pa / 128))).marked (pa % 128) n

/-- Count events of `prof` for a context on a core (R391). -/
def countProf (core ctx cnt n : Nat) (s : State) : State :=
  if core < 768 then
    setCore core (fun c =>
      { c with prof := Cells.insert (ctx * 16 + cnt) (Cells.get 0 (ctx * 16 + cnt) c.prof + BitVec.ofNat 64 n) c.prof }) s
  else s

/-- The quad's TLB is asked for a page (R339). -/
def touchTlb (core ctx page size : Nat) (s : State) : State :=
  let e : TlbEntry := ⟨ctx, page, size⟩
  if (quadOf s (coreQuad core)).tlb.contains e then s
  else countProf core ctx 7 1 (setQuad (coreQuad core) (fun q => { q with tlb := (e :: q.tlb).take 8192 }) s)

/-- A line with one 32-byte sector of another over it. -/
def sectorOver (l new : Line) (o : Nat) : Line := l.write (if new.marks.contains o then .set else .cleared) o (memBytes new.bytes o 32)
/-- A core's L1 line takes new data. -/
def setL1 (core : Nat) (l : L1Line) (b : Line) (s : State) : State :=
  setCore core (fun c => { c with l1 := c.l1.map fun x => if x = l then { x with data := b } else x }) s
/-- A core's line for a virtual line: a hit in its L1, or a fill that first drops an older copy of the same physical line
(R219, R339, R340). A hit may fetch the sector that it reads anew and leave the rest of the line as old as it was, so that plain
loads within a line are not ordered (R212, R242; DESIGN CHOICE, log entry 7). Sequencer cores have no L1 (DEDUCED, log entry 7). -/
def coreLine (pl : Place) (va pa page size : Nat) (wr : Bool) (s : State) : Line × State :=
  if pl.core < 768 then
    match (coreOf s pl.core).l1.find? fun l => l.ctx == pl.ctx && l.vline == va / 128 && l.pline == pa / 128 with
    | some l =>
      let r := dieLine pl.die pl.part (pa / 128) (touchTlb pl.core pl.ctx page size s)
      let b := sectorOver l.data (overlay r.2 pl.core (pa / 128) r.1) (pa % 128 / 32 * 32)
      if b = l.data then (b, s)
      else if Config.sectorMiss s.tick then
        (b, countProf pl.core pl.ctx 6 1 (setL1 pl.core l b r.2))
      else (l.data, s)
    | none =>
      let r := dieLine pl.die pl.part (pa / 128) s
      let b := overlay r.2 pl.core (pa / 128) r.1
      let s := countProf pl.core pl.ctx 6 1 (touchTlb pl.core pl.ctx page size r.2)
      let keep (l : L1Line) : Bool := !(l.pline == pa / 128 || (l.ctx == pl.ctx && l.vline == va / 128))
      let new : L1Line := ⟨pl.ctx, va / 128, pa / 128, b, !wr⟩
      (b, setCore pl.core (fun c => { c with l1 := (new :: c.l1.filter keep).take 2048 }) s)
  else
    let r := dieLine pl.die pl.part (pa / 128) (touchTlb pl.core pl.ctx page size s)
    (overlay r.2 pl.core (pa / 128) r.1, r.2)

/-- A plain read of up to 16 aligned bytes (R209, R212, R219): none where the line that it reads is poisoned there (R372). -/
def readAt (pl : Place) (va pa page size : Nat) (wr : Bool) (n : Nat) (s : State) : Option (List Byte) × State :=
  let r := coreLine pl va pa page size wr s
  (r.1.read (pa % 128) n, r.2)

/-- An acquire at cluster scope or wider discards the context's L1 lines on the core, but for lines of pages that are not
written (R219). -/
def discardL1 (core ctx : Nat) (s : State) : State :=
  if core < 768 then
    setCore core (fun c => { c with l1 := c.l1.filter fun l => !(l.ctx == ctx) || l.readOnly }) s
  else s

/-- A store's bytes in the L1 lines of the core that hold its physical line. -/
def patchL1 (core : Nat) (w : Bool) (pa : Nat) (d : List Byte) (s : State) : State :=
  if core < 768 then
    if (coreOf s core).l1.any fun l => l.pline == pa / 128 then
      let upd (l : L1Line) : L1Line :=
        if l.pline == pa / 128 then { l with data := l.data.write (wholeMark w) (pa % 128) d } else l
      setCore core (fun c => { c with l1 := c.l1.map upd }) s
    else s
  else s
/-- Accept a store in the core's queue and in its L1 (R210, R219). -/
def acceptStore (a : Agent) (pl : Place) (instr : Nat) (peer whole : Bool) (addr : Nat) (d : List Byte) (s : State) : State :=
  let s := { s with
    stores := s.stores ++ [{ ticket := s.nextId, who := a, core := pl.core, ctx := pl.ctx, instr := instr, peer := peer,
                             addr := addr, data := d, whole := whole }]
    nextId := s.nextId + 1 }
  if peer then s else patchL1 pl.core whole addr d s
/-- Perform an accepted store at its home (R208, R220, R222). -/
def performStore (q : PStore) (s : State) : State :=
  if q.peer then peerWrite q.addr q.data s
  else homeStore q.whole (coreDie q.core) q.addr q.data s
/-- Agents whose wait meets a condition look again. -/
def wakeIf (f : Agent → Wait → Bool) (s : State) : State :=
  { s with
    parts := s.parts.map fun p =>
      if f (.part p.1) p.2.thr.wait then (p.1, { p.2 with thr := { p.2.thr with wait := .none, ready := s.tick } }) else p
    seqs := s.seqs.map fun q =>
      if f (.seq q.1) q.2.thr.wait then (q.1, { q.2 with thr := { q.2.thr with wait := .none, ready := s.tick } }) else q }
/-- Staging space may have become free: agents that wait for some look again (R240). -/
def wakeStaging (s : State) : State := wakeIf (fun _ w => w == .staging) s
/-- A box has changed: agents that wait for its lends or its engine look again (R225 to R227, R258). -/
def wakeBoxes (s : State) : State := wakeIf (fun _ w => w == .boxDrain) s
/-- Perform, in queue order, the accepted stores that meet a condition; an agent that waited for room among its own looks again
(R245). -/
def drainStores (c : PStore → Bool) (s : State) : State :=
  let out := s.stores.filter c
  wakeIf (fun a w => w == .issueLimit && out.any fun q => decide (a = q.who))
    (out.foldl (fun s q => performStore q s) { s with stores := s.stores.filter fun q => !c q })

/-- What a release waits for (R210): at group and team scope nothing beyond the core's queue; at cluster scope the stores of
the core, performed at their homes and applied at its own die; at package scope its die's clock also advances; at system scope
every die copy is up to date and stores to peer windows are performed (R222). Scopes are those of `fence`: 0 group to 4
system. -/
def releaseAt (pl : Place) (scope : Nat) (s : State) : State :=
  if scope < 2 then s
  else
    let s := drainStores (fun q => q.core == pl.core && (!q.peer || decide (4 ≤ scope))) s
    if scope = 2 then s
    else
      let s := advanceClock pl.die s
      if scope = 3 then s else drainUpds s
/-- What an acquire does (R219): at cluster scope or wider the context's L1 lines go. What it pairs with has reached its die
by the read itself, by `joinClock` or by the release (R221). -/
def acquireAt (pl : Place) (scope : Nat) (s : State) : State :=
  if scope < 2 then s else discardL1 pl.core pl.ctx s
/-- A die hears from every other die: a synchronisation at package scope with an agent of any die (R214, R221). -/
def joinAll (d : Nat) (s : State) : State :=
  ([0, 1, 2, 3] : List Nat).foldl (fun s e => joinClock d (dieClock s e) s) s

/-! ### Atomics -/

/-- The signed value of n bytes. -/
def signedOf (n v : Nat) : Int := if v < 2 ^ (8 * n - 1) then v else (v : Int) - 2 ^ (8 * n)
/-- The new bytes of an atomic (R250): operation, size in bytes, old bytes, operand bytes (for cas, expected then new). -/
def atomNew (op n : Nat) (old opd : List Byte) : List Byte :=
  let a := ofBytes old
  let b := ofBytes (opd.take n)
  let f (c : Nat × Num.Flags) := toBytes n c.1
  match op with
  | 0 => toBytes n (a + b)
  | 1 => toBytes n (if signedOf n b < signedOf n a then b else a)
  | 2 => toBytes n (min a b)
  | 3 => toBytes n (if signedOf n a < signedOf n b then b else a)
  | 4 => toBytes n (max a b)
  | 5 => toBytes n (a &&& b)
  | 6 => toBytes n (a ||| b)
  | 7 => toBytes n (a ^^^ b)
  | 8 => toBytes n b
  | 9 => toBytes n (if a = b then ofBytes (opd.drop n) else a)
  | 10 => f (Num.addV .f32 (Num.decodeF .f32 a) (Num.decodeF .f32 b))
  | 11 => f (Num.minMax .f32 false false a b)
  | 12 => f (Num.minMax .f32 true false a b)
  | _ => toBytes n (Num.binnedAdd (BitVec.ofNat 128 a) (BitVec.ofNat 128 b)).1.toNat

/-! ### Deterministic launches -/

/-- Where a virtual address of a partition has its bytes now: in a peer window or not, and the address there; nowhere where the table
names a frame outside the pool (R339). A page that a
memory command has taken away keeps its frame for staged entries until the command completes (R333). -/
def locate (s : State) (p : BitVec 6) (va : Nat) : Option (Bool × Nat) :=
  match parOf? s p with
  | none => none
  | some t =>
    if region 0x80 ≤ va ∧ va < region 0xC0 then some (true, va - region 0x80)
    else match t.closing.find? fun c => decide (c.1 ≤ va) && decide (va < c.1 + c.2.size) with
      | some c => some (false, c.2.phys + (va - c.1))
      | none => match pageOf t va with
        | none => none
        | some (b, pg) => if pg.kind = .seq then (match seqAt s p va with
            | some (q, _) => if seqInPool s p q va then (seqPhys q va).map fun a => (false, a) else none
            | none => none)
          else match pg.state with
            | .device ph => if inPool s p ph pg.size then some (false, ph + (va - b)) else none
            | _ => none
/-- A byte at its home, 0 where there is none. -/
def byteAt (s : State) (p : BitVec 6) (va : Nat) : Byte :=
  match locate s p va with
  | some (true, o) => memByte s.peerMem o
  | some (false, a) => memByte s.mem a
  | none => 0
/-- A byte of an ordered range as the teller had left it when a team started (R238); a byte kept with a poison mark is never read
(R372, `viewMarked`). -/
def startByte (s : State) (p : BitVec 6) (t : Team) (va : Nat) : Byte :=
  match Cells.get? va t.view with
  | some b => b.getD 0
  | none => byteAt s p va
/-- List bytes, zeros too, under their addresses. -/
def listBytes (m : Cells Byte) (a : Nat) : List Byte → Cells Byte
  | [] => m
  | b :: r => listBytes (Cells.insert a b m) (a + 1) r
/-- The bytes that a staged entry leaves, over those before it (R238, R239). -/
def stagedBytes (e : Staged) (old : List Byte) : List Byte :=
  match e.op with
  | none => e.data
  | some op => atomNew op.toNat e.size old e.data
/-- The bytes that a team's staged entries have changed in its own view, in staging order (R238). -/
def ownWrites (s : State) (p : BitVec 6) (t : Team) : Cells Byte :=
  t.staged.foldl (fun m e =>
    listBytes m e.va (stagedBytes e ((List.range e.size).map fun i => (Cells.get? (e.va + i) m).getD (startByte s p t (e.va + i)))))
    []
/-- A team's view of n bytes of an ordered range (R238). -/
def teamBytes (s : State) (p : BitVec 6) (t : Team) (va n : Nat) : List Byte :=
  let m := ownWrites s p t
  (List.range n).map fun i => (Cells.get? (va + i) m).getD (startByte s p t (va + i))
/-- A staged store to a slot is checked again where it is performed (R232). -/
def slotOpen (s : State) (p : BitVec 6) (va : Nat) : Bool :=
  match seqAt s p va with
  | some (q, i) => (slotCheck q i).isNone
  | none => true
/-- What a started team finds before a team that writes through stays as it was before that team's own entry. -/
def sameUndo (u s : State) : State :=
  { s with teams := s.teams.map fun t => (t.1, { t.2 with undo := ((Cells.get? t.1 u.teams).map Team.undo).getD [] }) }
/-- Perform one staged entry at its home (R239). A staged store to a slot that has been committed or has left its window meanwhile
is not performed, without a cause or a record (R232; DESIGN CHOICE, log entry 68); nor is an atomic over bytes poisoned meanwhile, which
are never used as a value (R372; DESIGN CHOICE, log entry 68). -/
def applyEntry (ctx die : Nat) (p : BitVec 6) (e : Staged) (s : State) : State :=
  match locate s p e.va with
  | none => s
  | some (peer, a) =>
    if !slotOpen s p e.va || (e.op.isSome && !peer && (poisonedAt s a e.size).isSome) then s
    else
      let old := if peer then memBytes s.peerMem a e.size else memBytes s.mem a e.size
      let kept := if peer then peerMarks s a e.size else heldBytes s a e.size
      let s := keepUndo ctx e.va kept (keepViews ctx e.va kept s)
      sameUndo s (if peer then peerWrite a (stagedBytes e old) s else homeStore e.whole die a (stagedBytes e old) s)
/-- The team of an agent. -/
def agentTeam (s : State) : Agent → Option (Nat × Team)
  | .part pid => match Cells.get? pid s.parts with
    | some p => match Cells.get? p.gid s.groups with
      | some g => (Cells.get? g.tid s.teams).map fun t => (g.tid, t)
      | none => none
    | none => none
  | _ => none
/-- The team whose staging an access of an agent to an address goes through, if any (R237). -/
def stagingTeam (s : State) (a : Agent) (c va : Nat) : Option (Nat × Team) :=
  match ctxOf? s c with
  | some k => if inOrdered k va then agentTeam s a else none
  | none => none
/-- A byte at its home lies in a poisoned sector of this device. -/
def markedAt (s : State) (p : BitVec 6) (va : Nat) : Bool :=
  match locate s p va with
  | some (false, a) => (poisonedAt s a 1).isSome
  | _ => false
/-- Some of n bytes of a team's view of an ordered range is poisoned (R238, R372): as the teller had left it, unless a store of the team
has covered its sector. -/
def viewMarked (s : State) (p : BitVec 6) (t : Team) (va n : Nat) : Bool :=
  (List.range n).any fun i =>
    !(t.staged.any fun e => e.whole && e.va / 32 == (va + i) / 32) && (match Cells.get? (va + i) t.view with
      | some b => b.isNone
      | none => markedAt s p (va + i))
/-- A team's view of n bytes of an ordered range, unless one is poisoned. -/
def teamRead (s : State) (p : BitVec 6) (t : Team) (va n : Nat) : Option (List Byte) :=
  if viewMarked s p t va n then none else some (teamBytes s p t va n)
/-- Stage an entry of a team; a team that writes through performs it at once (R237, R240). -/
def stageEntry (tid ctx die : Nat) (p : BitVec 6) (e : Staged) (s : State) : State :=
  let s' := setTeam tid (fun t => { t with staged := t.staged ++ [e] }) s
  match Cells.get? tid s.teams with
  | some t => if t.through then applyEntry ctx die p e s' else s'
  | none => s'

end Sys2Proof.Machine
end

