-- ==== Sys2Proof/Machine/Ops.lean ====
section
/-!
DEFINITION. The shared operations: how a meaning ends (`Res`, `finish`), taking an exception (R355 to R358, R367) with its
fault-ring records (R361 to R366), the return from one (R356, R359), page requests (R337), and the end of a context
(R305, R375).
-/

namespace Sys2Proof.Machine

/-! ### Cause codes (R354) -/

def cUNDEF : BitVec 8 := 0x01
def cDICT : BitVec 8 := 0x02
def cDLOAD : BitVec 8 := 0x03
def cEMPTY : BitVec 8 := 0x04
def cPRIV : BitVec 8 := 0x05
def cALIGN : BitVec 8 := 0x06
def cNOPAGE : BitVec 8 := 0x07
def cPROT : BitVec 8 := 0x08
def cBOX : BitVec 8 := 0x09
def cSEQW : BitVec 8 := 0x0A
def cSEQC : BitVec 8 := 0x0B
def cARITH : BitVec 8 := 0x0C
def cBRKP : BitVec 8 := 0x0D
def cSWTRAP : BitVec 8 := 0x0E
def cWEDGE : BitVec 8 := 0x0F
def cPOISON : BitVec 8 := 0x10
def cTSOVF : BitVec 8 := 0x11
def cWINDOW : BitVec 8 := 0x12
def cENGINE : BitVec 8 := 0x13

/-- A cause as it is raised: with the lanes and addresses that its report holds, whether these are virtual addresses, which
have pages, and for an engine operation the accumulators cancelled and the chit (R188, R354, R361). -/
structure Trap where
  cause : BitVec 8
  detail : BitVec 8
  fva : DWord
  mask : DWord
  wr : Bool
  addrs : Cells DWord
  paged : Bool
  accm : BitVec 4
  chit : Option (BitVec 6)
  deriving DecidableEq, Repr

/-- A cause of the part itself, with a virtual address. -/
def Trap.at (cause detail : BitVec 8) (fva : Nat) : Trap := ⟨cause, detail, BitVec.ofNat 64 fva, 0, false, [], true, 0, none⟩
/-- A cause of the part itself, without an address. -/
def Trap.plain (cause detail : BitVec 8) : Trap := { Trap.at cause detail 0 with paged := false }
/-- A cause of the part itself at an offset of a box, which has no page (R254, R362; DEDUCED, log entry 39). -/
def Trap.box (cause detail : BitVec 8) (off : Nat) : Trap := { Trap.at cause detail off with paged := false }
/-- A cause of a store made for the part itself. -/
def Trap.store (t : Trap) : Trap := { t with wr := true }

/-- How an instruction's meaning ends. -/
inductive Res where
  /-- It retires: the PC moves past it. -/
  | done (s : State)
  /-- It retires at another PC. -/
  | goto (s : State) (pc : DWord)
  /-- It has set the agent's PC and wait state itself, or the agent has ended. -/
  | keep (s : State)
  /-- It raises a cause. -/
  | trap (s : State) (t : Trap)
  /-- It cannot complete yet: the PC stays. -/
  | wait (s : State) (w : Wait)
  deriving DecidableEq, Repr

/-- A 56-bit program address (R35). -/
def pc56 (x : DWord) : DWord := x &&& 0xFFFFFFFFFFFFFF
/-- The address after the instruction at pc (R36). -/
def nextPc (s : State) (pc : DWord) : DWord := pc56 (pc + BitVec.ofNat 64 s.iss.len)

/-! ### Page requests -/

/-- A page request of a partition is outstanding. -/
def priOpen (s : State) (p : BitVec 6) (b : Nat) : Bool := s.pris.any fun r => r.part == p && r.page == b
/-- Ask the tenant's runtime for a page, for an agent of a die; requests for one page share one message (R337), which carries the
partition's PASID (R342). -/
def askPage (p : BitVec 6) (b die : Nat) (s : State) : State :=
  if priOpen s p b then s else send (.pri p (Config.pasid p).toNat b) { s with pris := s.pris ++ [⟨p, b, die⟩] }

/-! ### Rings of records -/

/-- The outcome of writing a record. -/
inductive RingRes where
  | ok (s : State)
  | full
  | ask (page : Nat)
  | bad (cause detail : Nat)
  deriving DecidableEq, Repr

/-- 64-bit words as bytes. -/
def wordBytes (ws : List DWord) : List Byte := ws.flatMap fun w => toBytes 8 w.toNat

/-- A record dropped: LOST and LOSTCNT of the header at a physical address (R363, R366). -/
def ringLost (die h : Nat) (s : State) : State :=
  let n := memNat s.mem (h + 28) 4
  homeWrite die (h + 24) (toBytes 4 (memNat s.mem (h + 24) 4 ||| 1) ++ toBytes 4 (if n + 1 < 2 ^ 32 then n + 1 else n)) s

/-- Write one record, W1 to W7 given, to a ring (R363, R364, R366). A poisoned header is not used (R372): such a ring cannot be
written (DESIGN CHOICE, log entry 76). -/
def ringWrite (p : BitVec 6) (die base log : Nat) (w : List DWord) (s : State) : RingRes :=
  match reach s p die .deviceWrite base 64 with
  | .phys s h _ _ _ =>
    let prod := memNat s.mem h 4
    let cons := memNat s.mem (h + 8) 4
    if (poisonedAt s h 64).isSome then .bad 0x10 0x02
    else if (prod + 2 ^ 32 - cons) % 2 ^ 32 = 2 ^ log then .full
    else match reach s p die .deviceWrite (base + 64 + 64 * (prod % 2 ^ log)) 64 with
      | .phys s q _ _ _ =>
        let n := memNat s.mem (h + 16) 8
        let s := homeWrite die q (wordBytes (BitVec.ofNat 64 n :: w)) s
        let s := homeWrite die (h + 16) (toBytes 8 (n + 1)) s
        .ok (homeWrite die h (toBytes 4 (prod + 1)) (drainUpds (advanceClock die s)))
      | .ask b => .ask b
      | .bad c d => .bad c d
      | .missing d => .bad 0x07 d
      | _ => .bad 0x08 0x00
  | .ask b => .ask b
  | .bad c d => .bad c d
  | .missing d => .bad 0x07 d
  | _ => .bad 0x08 0x00

/-- Set LOST and LOSTCNT of a ring whose header can be written (R366). -/
def ringDrop (p : BitVec 6) (die base : Nat) (s : State) : State :=
  match reach s p die .deviceWrite base 64 with
  | .phys s h _ _ _ => if (poisonedAt s h 64).isSome then s else ringLost die h s
  | _ => s

/-- The table entry of an address, or the segment of a window, names a frame outside the partition's pool (R339). -/
def breachAt (s : State) (p : BitVec 6) (va : Nat) : Bool :=
  match parOf? s p with
  | some t => match pageOf t va with
    | some (_, pg) =>
      if pg.kind = .seq then strayAt s p va else strayPage s p pg
    | none => false
  | none => false
/-- An entry outside the pool stands in the pages of a ring. -/
def ringBreach (s : State) (p : BitVec 6) (base log : Nat) : Bool :=
  match parOf? s p with
  | some t => t.pages.any fun q => decide (q.1 < base + 64 + 64 * 2 ^ log) && decide (base < q.1 + q.2.size) && breachAt s p q.1
  | none => false
/-- A partition in whose table the MC has met an entry outside the pool (R339, R343). -/
def markBreach (p : BitVec 6) (s : State) : State := if s.breaches.contains p then s else { s with breaches := s.breaches ++ [p] }

/-- Note that something asks for a page. -/
def noteAsk (b : Nat) (l : List (Nat × Option Bool)) : List (Nat × Option Bool) :=
  (l.filter fun q => q.1 != b) ++ [(b, none)]
/-- What an asynchronous record does at its ring (R366): it is written, dropped with LOST where the ring is full, or kept while it asks for
a Host page; `lost` is what follows where the ring cannot be written. -/
def writeNote (n : NotePend) (base log : Nat) (lost : State → State) (s : State) : State :=
  let out (s : State) : State := { s with notes := s.notes.filter fun x => x.id != n.id }
  match ringWrite n.part 0 base log n.words s with
  | .ok s => out s
  | .full => ringDrop n.part 0 base (out s)
  | .bad _ _ => lost (out s)
  | .ask b =>
    if n.asked.contains (b, some false) then lost (out s)
    else if ((parOf? s n.part).bind Partition.leaving).isSome then out s
    else askPage n.part b 0
      { out s with notes := (out s).notes ++ [{ n with asked := noteAsk b n.asked }], nextId := max s.nextId (n.id + 1) }
/-- An asynchronous record of the management log: dropped without a count while it is off, and counted in MLDROP, with LOST, where it
cannot be written (R366, R368). -/
def mlWrite (n : NotePend) (s : State) : State :=
  let f := fnOf s n.part
  if !f.mlen_ then { s with notes := s.notes.filter fun x => x.id != n.id }
  else writeNote n f.mlbase.toNat f.mllog.toNat (fun s =>
    ringDrop n.part 0 f.mlbase.toNat ((if ringBreach s n.part f.mlbase.toNat f.mllog.toNat then markBreach n.part else id)
      (setFn n.part (fun f => { f with mldrop := if f.mldrop = BitVec.allOnes 32 then f.mldrop else f.mldrop + 1 }) s))) s
/-- A new record for a partition's management log. -/
def mlRecord (p : BitVec 6) (w : List DWord) (s : State) : State := mlWrite ⟨s.nextId, p, none, w, []⟩ s

/-- W1 of a record (R364). -/
def recW1 (cause detail : BitVec 8) (kind pageix npagem1 lane : Nat) (wr seq : Bool) (tsd pgsz gslot tslot ctx : Nat) : DWord :=
  BitVec.ofNat 64 (cause.toNat + detail.toNat * 2 ^ 8 + kind * 2 ^ 16 + pageix * 2 ^ 20 + npagem1 * 2 ^ 26 + lane * 2 ^ 32 +
    (if wr then 2 ^ 38 else 0) + (if seq then 2 ^ 39 else 0) + tsd * 2 ^ 40 + pgsz * 2 ^ 43 + gslot * 2 ^ 48 +
    tslot * 2 ^ 54 + ctx * 2 ^ 56)
/-- W7 of a record (R364). -/
def recW7 (accm : BitVec 4) (chit : Option (BitVec 6)) (killr : BitVec 8) : DWord :=
  BitVec.ofNat 64 (accm.toNat + (match chit with
    | some c => c.toNat * 16 + 2 ^ 10
    | none => 0) + killr.toNat * 2 ^ 16)

/-- A KIND 7 record (R281, R284, R365). -/
def kind7 (cause detail : BitVec 8) (lanes : DWord) (addr : Nat) : List DWord :=
  [recW1 cause detail 7 0 0 0 false false 0 0 0 0 0, 0, 0, 0, lanes, BitVec.ofNat 64 (addr % 2 ^ 56), 0]

/-- A KIND 7 record to which the manual gives no cause, detail or address (R365; DESIGN CHOICE, log entry 26). -/
def mlNote (p : BitVec 6) (s : State) : State :=
  mlRecord p (kind7 (Config.noteCause s.tick) (Config.noteDetail s.tick) 0 0) s

/-- The MC meets a table entry whose frame lies outside the partition's pool: a record of the management log, and a note on
which the TDI goes to ERROR (R339, R343; DEDUCED, log entry 77). -/
def noteBreach (p : BitVec 6) (s : State) : State :=
  if s.breaches.contains p then s else mlNote p (markBreach p s)

/-- An access has met a table entry outside the pool at an address (R339). -/
def noteAt (p : BitVec 6) (va : Nat) (s : State) : State := if breachAt s p va then noteBreach p s else s
/-- A write to a ring has met one. -/
def noteRing (p : BitVec 6) (base log : Nat) (s : State) : State := if ringBreach s p base log then noteBreach p s else s
/-- A page that a cause names as missing lies outside the pool (R339). -/
def noteMissing (p : BitVec 6) (t : Trap) (s : State) : State :=
  if t.cause = cNOPAGE then noteAt p t.fva.toNat s else s

/-! ### The end of a context -/

/-- The parts of a context. -/
def ctxParts (s : State) (c : Nat) : List Nat :=
  (s.parts.filter fun p => (match partTeam s p.2 with
    | some t => t.ctx == c
    | none => false)).map Prod.fst

/-- Free everything a context holds: parts, groups, teams, boxes, chits, sequencer contexts, queue entries, tables, cached
lines, accesses and commands in flight, queued requests, save areas (R33, R305, R375). -/
def freeCtx (c : Nat) (s : State) : State :=
  let pids := ctxParts s c
  let gone (a : Agent) : Bool := match a with
    | .part pid => pids.contains pid
    | .seq sc => (match Cells.get? sc s.seqs with
      | some q => q.ctx == c
      | none => false)
    | .none => false
  let tids := (ctxTeams s c).map Prod.fst
  let scs := (ctxSeqs s c).map Prod.fst
  let p := ctxPart s c
  let mine (r : SqReq) : Bool := match r with
    | .res pid _ => pids.contains pid
    | .waitFor pid _ => pids.contains pid
    | .fork pid => pids.contains pid
  let s := setPar p (fun t => { t with areaBytes := Cells.erase c t.areaBytes }) s
  wakeStaging { s with
    parts := s.parts.filter fun q => !pids.contains q.1
    groups := s.groups.filter fun g => !tids.contains g.2.tid
    teams := s.teams.filter fun t => t.2.ctx != c
    clus := s.clus.filter fun u => u.2.ctx != c
    seqs := s.seqs.filter fun q => q.2.ctx != c
    cores := (s.cores.map fun k =>
      (k.1, { k.2 with
              tableCtx := if k.2.tableCtx = some c then none else k.2.tableCtx
              table := if k.2.tableCtx = some c then .empty else k.2.table
              olds := if k.2.tableCtx = some c then [] else k.2.olds
              l1 := k.2.l1.filter fun l => l.ctx != c
              l1i := k.2.l1i.filter fun l => l.ctx != c
              prof := k.2.prof.filter fun q => q.1 / 16 != c })).filter fun k => k.2 != Core.zero
    quads := (s.quads.map fun q =>
      (q.1, { q.2 with
              queues := q.2.queues.filter fun e => !scs.any fun sc => sc / 8 == q.1 && (sc % 8 == e.1 / 2)
              fifo := q.2.fifo.filter fun e => e.ctx != c
              tlb := q.2.tlb.filter fun e => e.ctx != c
              busy := match q.2.busy with
                | some sc => if scs.contains sc then none else some sc
                | none => none })).filter fun q => q.2 != Quad.zero
    lands := s.lands.filter fun l => l.ctx != c
    stores := s.stores.filter fun q => q.ctx != c
    cmds := s.cmds.filter fun m => m.ctx != c
    recs := s.recs.filter fun r => r.ctx != c
    notes := s.notes.filter fun n => decide (n.ctx ≠ some c)
    sqs := s.sqs.map fun q => { q with queue := q.queue.filter fun r => !mine r }
    dropped := s.dropped.filter fun d => !pids.contains d.pid
    agent := if gone s.agent then .none else s.agent
    ctxs := s.ctxs.filter fun k => k.1 != c }

/-- Queue the write of a completion record (R283, R284). -/
def startDone (p : BitVec 6) (addr : Nat) (status detail : BitVec 8) (tag : DWord) (notify : Bool)
    (s : State) : State :=
  { s with
    dones := s.dones ++ [{ id := s.nextId, part := p, addr := addr, status := status, detail := detail, tag := tag,
                           notify := notify, asked := [] }]
    nextId := s.nextId + 1 }

/-- A checkpoint or restore copies a partition (R378). -/
def copying (s : State) (p : BitVec 6) : Bool :=
  match s.ck with
  | some r => r.parts.contains p
  | none => false
/-- A save that a kill must wait for: one of the context's units is being saved (R375). -/
def killWaits (c : Nat) (s : State) : Bool := s.clus.any fun u => u.2.ctx == c && u.2.res == .saving

/-- The write of a KIND 6 record and, once it is written or cannot be, the completion record with STATUS 0x07 (R366, R375 step 6): a
full ring and a Host page are waited for, but not once the partition leaves. -/
def driveKill (k : KillPend) (s : State) : State :=
  let leaves := ((parOf? s k.part).bind Partition.leaving).isSome
  let out (s : State) : State := { s with kills := s.kills.filter fun x => x.id != k.id }
  let finish (s : State) : State := startDone k.part k.done 0x07 k.reason k.tag k.notify (out s)
  match ringWrite k.part 0 k.ring k.log k.words s with
  | .ok s => finish s
  | .bad _ _ => finish (noteRing k.part k.ring k.log s)
  | .full => if leaves then finish s else { out s with kills := (out s).kills ++ [k] }
  | .ask b =>
    if leaves || k.asked.contains (b, some false) then finish s
    else askPage k.part b 0 { out s with kills := (out s).kills ++ [{ k with asked := noteAsk b k.asked }] }
/-- The end of a killed launch (R375, step 6). A context killed because its ring cannot be written has no KIND 6 record. -/
def killEnd (p : BitVec 6) (c : Nat) (lr : Launch) (reason : BitVec 8) (s : State) : State :=
  if reason = 0x06 then startDone p lr.done.toNat 0x07 reason lr.tag lr.notify s
  else
    driveKill
      { id := s.nextId, part := p, ring := lr.fring.toNat, log := lr.frlog
        words := [recW1 (Config.noteCause s.tick) (Config.noteDetail s.tick) 6 0 0 0 false false 0 0 0 0 c, 0, 0, 0, 0, 0,
                  recW7 0 none reason]
        asked := [], reason := reason, done := lr.done.toNat, tag := lr.tag, notify := lr.notify }
      { s with nextId := s.nextId + 1 }
/-- Kill a context (R375): accesses accepted stay, everything else of it goes. -/
def killNow (c : Nat) (reason : BitVec 8) (s : State) : State :=
  match ctxOf? s c with
  | none => s
  | some k => killEnd k.part c k.lr reason (freeCtx c s)
/-- Kill a context now, once the save in progress has ended, or once the copy of its partition has (R375, R381). -/
def killCtx (c : Nat) (reason : BitVec 8) (s : State) : State :=
  if copying s (ctxPart s c) then { s with deferred := s.deferred ++ [.kill (ctxPart s c) c reason] }
  else if killWaits c s then
    setCtx c (fun k => if k.killed.isSome then k else { k with killed := some reason }) s
  else killNow c reason s
/-- A KIND 5 record of a context's fault ring: a ring that cannot be written kills the context (R366). -/
def ctxWrite (c : Nat) (n : NotePend) (s : State) : State :=
  match ctxOf? s c with
  | none => { s with notes := s.notes.filter fun x => x.id != n.id }
  | some k => writeNote n k.lr.fring.toNat k.lr.frlog
      (fun s => killCtx c 0x06 (noteRing k.part k.lr.fring.toNat k.lr.frlog s)) s

/-! ### Taking an exception -/

/-- The core number whose pending record an agent uses (R366). -/
def ringCore (s : State) (a : Agent) : Nat := agentCore s a
/-- Another agent of the core holds a pending record for the context (R366). -/
def ringBusy (s : State) (a : Agent) (c : Nat) : Bool :=
  s.recs.any fun r => r.ctx == c && r.core == ringCore s a && decide (r.who ≠ a)

/-- Write the records of a context, W1 to W7 each; what meets a full ring or a page request waits, and a ring that cannot be
written kills the context with reason 0x06 (R366). -/
def emit (c core : Nat) (who : Agent) : List (List DWord) → State → State
  | [], s => s
  | r :: rs, s =>
    match ctxOf? s c with
    | none => s
    | some k =>
      let hold (s : State) : State := setThread who (fun t => { t with wait := .ring })
        { s with
          recs := s.recs ++ [{ id := s.nextId, ctx := c, core := core, who := who, words := (r :: rs).flatten, asked := [] }]
          nextId := s.nextId + 1 }
      match ringWrite k.part (coreDie core) k.lr.fring.toNat k.lr.frlog r s with
      | .ok s => emit c core who rs s
      | .full => hold s
      | .ask b =>
        let s := askPage k.part b (coreDie core) (hold s)
        { s with recs := s.recs.map fun q => if q.ctx = c ∧ q.core = core then { q with asked := [(b, none)] } else q }
      | .bad _ _ => killCtx c 0x06 (noteRing k.part k.lr.fring.toNat k.lr.frlog s)

/-- The size of the page that holds an address, 4 KiB where there is no translation (R362), and its base. -/
def pageBase (s : State) (p : BitVec 6) (va : Nat) : Nat × Nat :=
  match parOf? s p with
  | some t => match pageOf t va with
    | some (b, pg) => (b, pg.size)
    | none => (va / 4096 * 4096, 4096)
  | none => (va / 4096 * 4096, 4096)
/-- PGSZ of R364. -/
def pgszCode (z : Nat) : Nat := if z = 65536 then 1 else if z = 2097152 then 2 else 0

/-- The cause names a virtual address (R354, R362). -/
def namesAddress (t : Trap) : Bool :=
  t.paged && (t.cause == cDLOAD || t.cause == cALIGN || t.cause == cNOPAGE || t.cause == cPROT || t.cause == cSEQW ||
    t.cause == cSEQC || t.cause == cENGINE ||
    (t.cause == cPOISON && (t.detail == 0x02 || t.detail == 0x03 || t.detail == 0x06)))
/-- The address of a cause as a report or a record holds it: of the poisoned granule for POISON (R354, R364; for a poisoned
translation the granule of the address translated, DEDUCED, log entry 62). -/
def recAddr (t : Trap) (a : DWord) : DWord :=
  if t.cause = cPOISON ∧ t.paged = true then BitVec.ofNat 64 (a.toNat / 32 * 32) else a

/-- The pages that the lanes of a report touch, in order of the lowest lane of each: base, size, lanes, address (R362). A cause
that names no virtual address has one record with PAGE 0. -/
def trapPages (s : State) (p : BitVec 6) (t : Trap) : List (Nat × Nat × DWord × DWord) :=
  if !namesAddress t then [(0, 4096, t.mask, t.fva)]
  else if t.addrs.isEmpty then
    (let b := pageBase s p t.fva.toNat
     [(b.1, b.2, t.mask, recAddr t t.fva)])
  else
    let each := t.addrs.map fun q => (q.1, q.2, pageBase s p q.2.toNat)
    let firsts := each.filter fun q => !each.any fun r => decide (r.1 < q.1) && r.2.2.1 == q.2.2.1
    firsts.map fun q =>
      (q.2.2.1, q.2.2.2, maskOf ((each.filter fun r => r.2.2.1 == q.2.2.1).map Prod.fst), recAddr t q.2.1)

/-- What a record says of the agent: core number, group slot or sequencer context index, team slot, sequencer flag, trap
stack depth (R364). -/
def recWho (s : State) : Agent → Nat × Nat × Nat × Bool × Nat
  | .part pid => match Cells.get? pid s.parts with
    | some p => match Cells.get? p.gid s.groups with
      | some g => match Cells.get? g.tid s.teams with
        | some t => (t.core, g.gslot, t.tslot, false, p.tstack.length)
        | none => (0, 0, 0, false, 0)
      | none => (0, 0, 0, false, 0)
    | none => (0, 0, 0, false, 0)
  | .seq sc => (quadCore (seqQuad s sc), sc % 8, 0, true, 0)
  | .none => (0, 0, 0, false, 0)

/-- The records of a cause (R362, R364). -/
def trapRecords (s : State) (a : Agent) (c : Nat) (serial : BitVec 32) (pc : DWord) (kind : Nat) (cause detail : BitVec 8)
    (t : Trap) : List (List DWord) :=
  let w := recWho s a
  let ps := trapPages s (ctxPart s c) t
  let low := if t.mask = 0 then 0 else lowLane t.mask
  ps.mapIdx fun i q =>
    [recW1 cause detail kind i (ps.length - 1) low t.wr w.2.2.2.1 w.2.2.2.2 (pgszCode q.2.1) w.2.1 w.2.2.1 c,
     BitVec.ofNat 64 (serial.toNat + w.1 * 2 ^ 32), pc56 pc, BitVec.ofNat 64 (q.1 % 2 ^ 56), q.2.2.1, pc56 q.2.2.2,
     recW7 t.accm t.chit 0]

/-- FLTINFO of a cause (R27). -/
def fltInfo (t : Trap) (serial : BitVec 32) : DWord :=
  BitVec.ofNat 64 (t.cause.toNat + t.detail.toNat * 2 ^ 8 + (if t.mask = 0 then 0 else lowLane t.mask) * 2 ^ 16 +
    (if t.wr then 2 ^ 22 else 0) + serial.toNat * 2 ^ 32)
/-- FLTVA of a cause (R354): for a poisoned code line the address of the halfword that could not be fetched, as R37 has it, where
the table of R354 names the granule (DEDUCED, log entry 62). -/
def fltAddr (t : Trap) : DWord := if t.cause = cPOISON ∧ t.detail = 0x03 then t.fva else recAddr t t.fva
/-- The report of a cause (R355). -/
def trapReport (t : Trap) (serial : BitVec 32) : Report := ⟨fltInfo t serial, pc56 (fltAddr t), t.mask, t.addrs⟩

/-- The frame that a trap pushes (R355, R356). -/
def trapFrame (p : Part) (len : Nat) (rep : Report) : TFrame :=
  { pc := p.thr.pc, next := len, em := p.em, wb := p.wb, priv := p.priv, rep := rep }

/-- A part at its handler (R355): frame pushed, report shown, PRIV := T1, PC := TVEC. -/
def enterHandler (tick : Nat) (tvec : DWord) (len : Nat) (rep : Report) (p : Part) : Part :=
  { p with
    tstack := trapFrame p len rep :: p.tstack
    priv := true
    latch := none
    thr := { p.thr with pc := tvec, report := rep, wait := .none, asked := [], ref := .free, woken := .none, ready := tick } }
/-- A part stopped by a cause that no handler takes (R357, R358). -/
def stopPart (why : Stop) (len : Nat) (rep : Report) (p : Part) : Part :=
  { p with
    latch := none
    thr := { p.thr with
             stop := why, wait := .none, asked := [], ref := .free, woken := .none, next := len
             report := if p.tstack.isEmpty then rep else p.thr.report } }

/-- A trap of a part writes records: it finds no handler or no free frame, or it is a WEDGE (R355, R362). -/
def trapWrites (p : Part) (k : Context) (t : Trap) : Bool := k.tvec == 0 || p.tstack.length == 4 || t.cause == cWEDGE
/-- An agent's trap must wait, since it writes a record while another agent of the core holds a pending one (R366). -/
def trapHeld (s : State) (a : Agent) (t : Trap) : Bool :=
  match a with
  | .none => false
  | .part pid => match Cells.get? pid s.parts, (agentCtx s a).bind fun c => (ctxOf? s c).map fun k => (c, k) with
    | some p, some (c, k) => trapWrites p k t && ringBusy s a c
    | _, _ => false
  | .seq sc => match Cells.get? sc s.seqs with
    | some q => (ctxOf? s q.ctx).isSome && ringBusy s a q.ctx
    | none => false

/-- A part takes a trap (R355). `len` is the length of the instruction that raised it. A trap that must write a record while
another agent of the core holds a pending one waits without writing (R366). -/
def trapPart (pid len : Nat) (t : Trap) (s : State) : State :=
  match Cells.get? pid s.parts, agentCtx s (.part pid) with
  | some p, some c =>
    match ctxOf? s c with
    | none => s
    | some k =>
      if trapWrites p k t && ringBusy s (.part pid) c then setThread (.part pid) (fun h => { h with wait := .ring }) s
      else
        let serial := k.serial + 1
        let rep := trapReport t serial
        let core := ringCore s (.part pid)
        let recs := fun kind cause detail => trapRecords s (.part pid) c serial p.thr.pc kind cause detail t
        let s := countProf core c 13 1 (setCtx c (fun k => { k with serial := serial }) s)
        if k.tvec = 0 then
          emit c core (.part pid) (recs (if t.cause = cWEDGE then 4 else 0) t.cause t.detail)
            (setPart pid (stopPart .noHandler len rep) s)
        else if p.tstack.length = 4 then
          emit c core (.part pid) (recs (if t.cause = cWEDGE then 4 else 1) cTSOVF t.cause)
            (setPart pid (stopPart .escalated len rep) s)
        else
          let s := setPart pid (enterHandler s.tick k.tvec len rep) s
          if t.cause = cWEDGE then emit c core (.part pid) (recs 4 t.cause t.detail) s else s
  | _, _ => s

/-- A sequencer context stops at a cause and writes a KIND 2 record (R367). `pc` is the PC that the record holds, `opPc` the
operation's own where an engine operation failed (R136, R188); `len` is the length of the instruction that raised it, else 0. -/
def trapSeq (sc len : Nat) (t : Trap) (opPc : Option DWord) (s : State) : State :=
  match Cells.get? sc s.seqs with
  | none => s
  | some q =>
    match ctxOf? s q.ctx with
    | none => s
    | some k =>
      if ringBusy s (.seq sc) q.ctx then setThread (.seq sc) (fun h => { h with wait := .ring }) s
      else
        let serial := k.serial + 1
        let rep := trapReport t serial
        let recs := trapRecords s (.seq sc) q.ctx serial (opPc.getD q.thr.pc) 2 t.cause t.detail t
        let s := setCtx q.ctx (fun k => { k with serial := serial }) s
        let s := setThread (.seq sc) (fun h => { h with stop := .seqStopped, wait := .none, report := rep, asked := [], woken := .none, next := len }) s
        emit q.ctx (768 + sc / 8) (.seq sc) recs s

/-- An agent takes an exception: the one operation that every meaning uses. -/
def takeTrap (a : Agent) (len : Nat) (t : Trap) (s : State) : State :=
  let s := noteMissing (placeOf s a).part t s
  match a with
  | .none => s
  | .part pid => trapPart pid len t s
  | .seq sc => trapSeq sc len t none s

/-! ### Returning -/

/-- The part after the pop of its top frame (R356, R359): EM, WB and PRIV come back, the report shown is the new top frame's
or stays the popped one's. -/
def popFrame (p : Part) : Part :=
  match p.tstack with
  | [] => p
  | f :: r =>
    { p with
      em := f.em &&& p.own
      wb := f.wb
      priv := f.priv
      tstack := r
      thr := { p.thr with report := match r with
                | g :: _ => g.rep
                | [] => f.rep } }
/-- The PC at which a return resumes (R359): the frame's, or with skip past the frame's instruction. -/
def framePc (skip : Bool) (f : TFrame) : DWord := if skip then pc56 (f.pc + BitVec.ofNat 64 f.next) else f.pc

/-- A retry decodes a dictionary reference at the frame's PC against the table as it stands (R54). -/
def retryRef (skip : Bool) (f : TFrame) (p : Part) : Part :=
  { p with thr := { p.thr with ref := if skip then .free else .now f.pc } }

/-! ### How a meaning ends -/

/-- The thread of an agent that retires an instruction at a PC. -/
def retireThread (tick : Nat) (pc : DWord) (t : Thread) : Thread :=
  { t with pc := pc, wait := .none, asked := [], ready := tick, woken := .none }
/-- Count an issued instruction with n active lanes (R391), and the part's own count (R292). -/
def countIssue (a : Agent) (n : Nat) (s : State) : State :=
  match a with
  | .part pid =>
    let c := (agentCtx s a).getD 0
    let k := agentCore s a
    countProf k c 2 n (countProf k c 1 1 (setPart pid (fun p => { p with issued := p.issued + 1, last := s.tick }) s))
  | _ => s
/-- An agent retires: its PC moves to a given address. -/
def retireAt (a : Agent) (n : Nat) (pc : DWord) (s : State) : State :=
  setThread a (retireThread s.tick pc) (countIssue a n s)
/-- An agent retires: its PC moves past the instruction. -/
def retire (a : Agent) (n : Nat) (s : State) : State :=
  match thread? s a with
  | some t => retireAt a n (nextPc s t.pc) s
  | none => s
/-- An agent waits with its PC at the instruction. A wait that goes on after a wake in vain began when it first did (R296). -/
def hold (a : Agent) (w : Wait) (s : State) : State :=
  setThread a (fun t =>
    { t with wait := w, woken := .none, since := if t.wait = w ∨ t.woken = w then t.since else s.tick }) s

/-- The cause is decided at fetch or decode, before the instruction issues (R46, R353). -/
def atDecode (t : Trap) : Bool :=
  t.cause == cUNDEF || t.cause == cDICT || (t.cause == cPRIV && t.detail == 0x01)
/-- Count an instruction that has issued and raises (R391; DEDUCED, log entry 82): not one that never issued, nor one that will be
executed again once its record can be written. -/
def countRaise (a : Agent) (n : Nat) (t : Trap) (s : State) : State :=
  if atDecode t || trapHeld s a t then s else countIssue a n s
/-- End an instruction of an agent; n is the number of its active lanes. -/
def finish (a : Agent) (n : Nat) : Res → State
  | .done s => retire a n s
  | .goto s pc => retireAt a n (pc56 pc) s
  | .keep s => s
  | .trap s t => takeTrap a s.iss.len t (countRaise a n t s)
  | .wait s w => hold a w s

/-- The DETAIL of UNDEF: the entry index for a reference, 0xFF otherwise (R47). -/
def undefDetail (s : State) : BitVec 8 :=
  match s.iss.entry with
  | some e => e.setWidth 8
  | none => 0xFF
/-- An undefined encoding, or a form that this kind of context does not execute (R47, R48). -/
def undef (s : State) : Res := .trap s (Trap.plain cUNDEF (undefDetail s))

/-- A meaning of a form that only groups execute (R48): it is given the part and its group. -/
def onPart (s : State) (f : Nat → Part → Group → Res) : Host.Outcome State Fault Refusal :=
  match s.agent with
  | .none => .fault .noAgent
  | .part pid =>
    match Cells.get? pid s.parts with
    | none => .fault .noAgent
    | some p => match Cells.get? p.gid s.groups with
      | none => .fault .noAgent
      | some g => .next (finish s.agent 0 (f pid p g))
  | .seq sc =>
    match Cells.get? sc s.seqs with
    | none => .fault .noAgent
    | some _ => .next (finish s.agent 0 (undef s))

/-- A meaning of a lane form: as `onPart`, given the active lanes (R43). -/
def onLanes (s : State) (pk : BitVec 2) (f : Nat → Part → Group → DWord → Res) : Host.Outcome State Fault Refusal :=
  match s.agent with
  | .none => .fault .noAgent
  | .part pid =>
    match Cells.get? pid s.parts with
    | none => .fault .noAgent
    | some p => match Cells.get? p.gid s.groups with
      | none => .fault .noAgent
      | some g =>
        let act := p.em &&& (if pk = 0 then BitVec.allOnes 64 else Cells.get 0 pk.toNat g.masks)
        .next (finish s.agent (lanesOf 64 act).length (f pid p g act))
  | .seq sc =>
    match Cells.get? sc s.seqs with
    | none => .fault .noAgent
    | some _ => .next (finish s.agent 0 (undef s))

/-- A meaning of a form that groups and sequencer contexts execute: it is given the agent and its thread. -/
def onAgent (s : State) (f : Agent → Thread → Res) : Host.Outcome State Fault Refusal :=
  match thread? s s.agent with
  | none => .fault .noAgent
  | some t => .next (finish s.agent 0 (f s.agent t))

/-- A meaning of a form that only sequencer contexts execute (R48). -/
def onSeq (s : State) (f : Nat → SeqCtx → Res) : Host.Outcome State Fault Refusal :=
  match s.agent with
  | .none => .fault .noAgent
  | .part pid =>
    match Cells.get? pid s.parts with
    | none => .fault .noAgent
    | some _ => .next (finish s.agent 0 (undef s))
  | .seq sc =>
    match Cells.get? sc s.seqs with
    | none => .fault .noAgent
    | some q => .next (finish s.agent 0 (f sc q))

end Sys2Proof.Machine
end

