-- ==== Sys2Proof/Machine/Operands.lean ====
section
/-!
DEFINITION. Operands: registers with their full/empty bits and poison marks (R22, R23, R25, R372), the checks that every
instruction makes on its sources and destinations (R137, R166), and the writes of results.
-/

namespace Sys2Proof.Machine

/-! ### Lane registers -/

/-- The physical register that vn names (R23). -/
def physReg (g : Group) (wb n : Nat) : Nat := (wb + n % 64) % g.vregs
/-- The key of a lane of a named register. -/
def laneKey (g : Group) (wb n l : Nat) : Nat := physReg g wb n * 64 + l
/-- A lane word of a named register. -/
def laneWord (g : Group) (wb n l : Nat) : LaneWord := Cells.get LaneWord.zero (laneKey g wb n l) g.lanes
/-- The value of a lane of a named register. -/
def laneVal (g : Group) (wb n l : Nat) : Word := (laneWord g wb n l).val
/-- The lanes of a set in which a named register is empty. -/
def emptyLanes (g : Group) (wb n : Nat) (act : DWord) : DWord :=
  maskOf ((lanesOf g.w act).filter fun l => !(laneWord g wb n l).full)
/-- The lanes of a set in which a named register is poisoned. -/
def poisonLanes (g : Group) (wb n : Nat) (act : DWord) : DWord :=
  maskOf ((lanesOf g.w act).filter fun l => (laneWord g wb n l).poison)
/-- Write a lane of a named register: full, its mark cleared (R25, R372). -/
def putLane (wb n l : Nat) (v : Word) (g : Group) : Group :=
  { g with lanes := Cells.put LaneWord.zero (laneKey g wb n l) ⟨v, true, false⟩ g.lanes }
/-- Write lanes of a named register. -/
def putLanes (wb n : Nat) (vs : List (Nat × Word)) (g : Group) : Group :=
  vs.foldl (fun g q => putLane wb n q.1 q.2 g) g
/-- Mark a lane of a named register empty (R25). -/
def emptyLane (wb n l : Nat) (g : Group) : Group :=
  { g with lanes := Cells.insert (laneKey g wb n l) { laneWord g wb n l with full := false } g.lanes }
/-- Mark lanes of named registers empty. -/
def emptyRegs (wb : Nat) (ns : List Nat) (ls : List Nat) (g : Group) : Group :=
  ns.foldl (fun g n => ls.foldl (fun g l => emptyLane wb n l g) g) g

/-! ### Uniform registers -/

/-- A uniform register. -/
def sregOf (t : Thread) (n : Nat) : SReg := Cells.get SReg.zero n t.sregs
/-- The value of a uniform register. -/
def sVal (t : Thread) (n : BitVec 5) : DWord := (sregOf t n.toNat).val
/-- Write a uniform register: full, its mark cleared. -/
def putS (n : BitVec 5) (v : DWord) (t : Thread) : Thread :=
  { t with sregs := Cells.put SReg.zero n.toNat ⟨v, true, false⟩ t.sregs }
/-- Mark a uniform register empty (R25). -/
def emptyS (n : BitVec 5) (t : Thread) : Thread :=
  { t with sregs := Cells.insert n.toNat { sregOf t n.toNat with full := false } t.sregs }
/-- Write a uniform register of an agent. -/
def writeS (a : Agent) (n : BitVec 5) (v : DWord) (s : State) : State := setThread a (putS n v) s

/-! ### Mask registers -/

/-- A mask register as a source: k0 reads all ones (R22). -/
def maskVal (g : Group) (k : Nat) : DWord := if k = 0 then BitVec.allOnes 64 else Cells.get 0 k g.masks
/-- Write the bits of a set of lanes of a mask register; k0 ignores writes (R22, R148). A write of every lane clears the
register's poison mark (R372). -/
def putMask (k : Nat) (act v : DWord) (g : Group) : Group :=
  if k = 0 then g
  else { g with
         masks := Cells.put 0 k ((Cells.get 0 k g.masks &&& ~~~act) ||| (v &&& act)) g.masks
         maskPoison := if lowMask g.w &&& ~~~act = 0 then g.maskPoison.filter (fun j => j != k) else g.maskPoison }

/-! ### Checks -/

/-- The outcome of the checks on operands: go on, wait for data to land, or raise. -/
inductive Gate where
  | pass
  | block
  | raise (t : Trap)
  deriving DecidableEq, Repr

/-- Go on under a gate. -/
def Gate.run (gt : Gate) (s : State) (r : Res) : Res :=
  match gt with
  | .pass => r
  | .block => .wait s .reg
  | .raise t => .trap s t

/-- A lane source field: its registers in the field's order and its wait bit (R44, R137). -/
structure LaneSrc where
  regs : List Nat
  wait : Bool
  deriving DecidableEq, Repr
/-- A uniform source field: register and wait bit. -/
structure SSrc where
  reg : BitVec 5
  wait : Bool
  deriving DecidableEq, Repr

/-- A lane source of one register. -/
def src1 (n : BitVec 6) (w : Bool) : LaneSrc := ⟨[n.toNat], w⟩
/-- The names of n registers from one, with the wrap of R23. -/
def regsFrom (n : BitVec 6) (k : Nat) : List Nat := (List.range k).map fun i => (n.toNat + i) % 64

/-- Lanes of a set in which a lane source has an empty register. -/
def LaneSrc.empties (g : Group) (wb : Nat) (act : DWord) (f : LaneSrc) : DWord :=
  f.regs.foldl (fun m n => m ||| emptyLanes g wb n act) 0
/-- Lanes of a set in which a lane source has a poisoned register. -/
def LaneSrc.poisons (g : Group) (wb : Nat) (act : DWord) (f : LaneSrc) : DWord :=
  f.regs.foldl (fun m n => m ||| poisonLanes g wb n act) 0

/-- EMPTY in lanes (R137): the first field with wait bit 1 that has an empty lane, its first such register, and
the lanes of the field in which any of its registers is empty (R361; DEDUCED, log entry 48). -/
def emptyTrap (g : Group) (wb : Nat) (act : DWord) (fs : List LaneSrc) : Option Trap :=
  (fs.find? fun f => f.wait && f.empties g wb act != 0).map fun f =>
    { Trap.plain cEMPTY (BitVec.ofNat 8 ((f.regs.find? fun n => emptyLanes g wb n act != 0).getD 0)) with
      mask := f.empties g wb act }
/-- EMPTY of a uniform source (R166). -/
def emptySTrap (t : Thread) (ss : List SSrc) : Option Trap :=
  (ss.find? fun f => f.wait && !(sregOf t f.reg.toNat).full).map fun f =>
    Trap.plain cEMPTY (BitVec.ofNat 8 (64 + f.reg.toNat))
/-- The cause of a poisoned register (R372). -/
def poisonTrap (m : DWord) : Trap := { Trap.plain cPOISON 0x01 with mask := m }

/-- The checks of a uniform form on an agent: sources, then destinations (R25, R166, R372). -/
def gateS (t : Thread) (ss : List SSrc) (ds : List (BitVec 5)) : Gate :=
  match emptySTrap t ss with
  | some e => .raise e
  | none =>
    if ss.any fun f => !(sregOf t f.reg.toNat).full then .block
    else if ss.any fun f => (sregOf t f.reg.toNat).poison then .raise (poisonTrap 0)
    else if ds.any fun d => !(sregOf t d.toNat).full then .block
    else .pass

/-- The checks of a form of a part: lane sources over a set of lanes, uniform sources, mask sources, then lane and uniform
destinations (R25, R137, R166, R372). -/
def gateP (p : Part) (g : Group) (act : DWord) (fs : List LaneSrc) (ss : List SSrc) (ks : List Nat) (dv : List Nat)
    (ds : List (BitVec 5)) : Gate :=
  match emptyTrap g p.wb act fs with
  | some e => .raise e
  | none => match emptySTrap p.thr ss with
    | some e => .raise e
    | none =>
      let pm := fs.foldl (fun m f => m ||| f.poisons g p.wb act) 0
      if fs.any fun f => f.empties g p.wb act != 0 then .block
      else if ss.any fun f => !(sregOf p.thr f.reg.toNat).full then .block
      else if pm != 0 then .raise (poisonTrap pm)
      else if ks.any fun k => k != 0 && g.maskPoison.contains k then .raise (poisonTrap 0)
      else if ss.any fun f => (sregOf p.thr f.reg.toNat).poison then .raise (poisonTrap 0)
      else if dv.any fun n => emptyLanes g p.wb n act != 0 then .block
      else if ds.any fun d => !(sregOf p.thr d.toNat).full then .block
      else .pass

/-- The checks of a lane form, whose first mask source is its predicate (R43). With no active lane it raises nothing and waits
for nothing (R46), unless the lanes of EM cannot be told because the predicate is poisoned (R372; DEDUCED, log
entry 59). -/
def gateL (p : Part) (g : Group) (act : DWord) (fs : List LaneSrc) (ss : List SSrc) (ks : List Nat) (dv : List Nat)
    (ds : List (BitVec 5)) : Gate :=
  if act &&& lowMask g.w = 0 then
    (if p.em &&& lowMask g.w ≠ 0 ∧ ((ks.take 1).any fun k => k != 0 && g.maskPoison.contains k) = true then
      .raise (poisonTrap 0)
     else .pass)
  else gateP p g act fs ss ks dv ds

/-- Update a part's group and the agent's thread in one place: the group of a part. -/
def onGroup (p : Part) (f : Group → Group) (s : State) : State := setGroup p.gid f s

end Sys2Proof.Machine
end

