-- ==== Sys2Proof/Machine/Parts.lean ====
section
/-!
DEFINITION. Boxes as cluster state (R12, R223 to R227), and the life of parts, groups, teams and sequencer contexts:
fragments (R18, R311), merges (R20, R293, R319, R320), and their ends (R294, R304, R321).
-/

namespace Sys2Proof.Machine

/-! ### Boxes -/

/-- The key of a handle's slot: rank * 1024 + slot (R12). -/
def boxKey (h : DWord) : Nat := (h.extractLsb' 28 4).toNat * 1024 + (h.extractLsb' 16 10).toNat
/-- The current box that a handle names in a cluster, unless the handle is not valid (R12). Bits 63:32 of a register that is used as a
handle are ignored (DESIGN CHOICE, log entry 95). -/
def boxAt (u : Cluster) (h : DWord) : Option Box :=
  if h.extractLsb' 26 2 = 0 then
    match Cells.get? (boxKey h) u.boxes with
    | some b => if b.gen = (h.extractLsb' 0 16).toNat then some b else none
    | none => none
  else none
/-- The handle of a box under a key. -/
def boxHandle (key : Nat) (b : Box) : DWord :=
  BitVec.ofNat 64 (key / 1024 * 2 ^ 28 + key % 1024 * 2 ^ 16 + b.gen)
/-- Change a box of a cluster. -/
def setBox (uid key : Nat) (f : Box → Box) (s : State) : State :=
  setCluster uid (fun u => { u with boxes := Cells.modify key f u.boxes }) s
/-- Remove a box; the slot's last generation stays (R258). -/
def eraseBox (uid key : Nat) (s : State) : State :=
  wakeBoxes (setCluster uid (fun u => { u with boxes := Cells.erase key u.boxes }) s)
/-- Bytes of one copy of a box. -/
def Box.bytes (b : Box) : Nat := b.gran * 4096
/-- Granules that a box counts against vault and quota (R226). -/
def Box.charge (b : Box) : Nat := if b.escrow then 2 * b.gran else b.gran

/-! ### Chits -/

/-- The chit range of a team as a mask (R26, R286). -/
def chitRange (t : Team) : DWord := BitVec.ofNat 64 ((2 ^ t.chitN - 1) * 2 ^ t.chit0 % 2 ^ 64)
/-- Set a chit of a team, with its error bit where the command failed (R228). -/
def setChit (tid : Nat) (c : Nat) (err : Bool) (s : State) : State :=
  setTeam tid (fun t =>
    if chitRange t &&& (1#64 <<< c) = 0 then t
    else { t with chr := t.chr ||| (1#64 <<< c), cherr := if err then t.cherr ||| (1#64 <<< c) else t.cherr }) s
/-- The lends of a box end: each lend's chit is set on its holder's core, unless the holding team exits (R225, R258). -/
def endLends (uid key : Nat) (chits : Bool) (s : State) : State :=
  match Cells.get? uid s.clus with
  | none => s
  | some u => match Cells.get? key u.boxes with
    | none => s
    | some b =>
      let s := wakeBoxes (setBox uid key (fun b => { b with lends := [] }) s)
      if chits then b.lends.foldl (fun s l => setChit l.tid l.chit false s) s else s

/-- The engine has begun with a box under an operation: a granted pass, or a drain of which lines have landed (R125, R225). -/
def EngOp.uses (o : EngOp) (key : Nat) : Bool :=
  o.failed.isNone && (match o.kind with
    | .pass _ _ a b => o.granted && (boxKey a == key || boxKey b == key)
    | .drain d => decide (0 < o.pos) && boxKey d == key
    | _ => false)
/-- An engine of the cluster is at work with a box (R225, R227). -/
def boxInUse (s : State) (uid key : Nat) : Bool := s.seqs.any fun q => q.2.uid == uid && q.2.ops.any fun o => o.uses key
/-- Whether an exited team's group holds a box. -/
def boxOrphan (s : State) (b : Box) : Bool :=
  match b.holder with
  | some gid => (match Cells.get? gid s.groups with
    | some g => (match Cells.get? g.tid s.teams with
      | some t => t.exited
      | none => false)
    | none => false)
  | none => false
/-- The boxes that exited teams still held while an engine used them go once it does not (R225, R258). -/
def freeOrphans (uid : Nat) (s : State) : State :=
  match Cells.get? uid s.clus with
  | none => s
  | some u => ((u.boxes.filter fun b => boxOrphan s b.2 && !boxInUse s uid b.1).map Prod.fst).foldl (fun s k => eraseBox uid k s) s

/-! ### Seats -/

/-- Parts seated on a core (R21). -/
def seatedOn (s : State) (core : Nat) : Nat :=
  (s.parts.filter fun p => p.2.seated && (match partTeam s p.2 with
    | some t => t.core == core && unitResident s t.uid
    | none => false)).length

/-! ### Fragments and merges -/

/-- The copy of a part's landing that serves its fragment, whose uniform registers start as a copy (R18). -/
def copyLanding (pid fid id : Nat) (l : Landing) : Option Landing :=
  match l.dest with
  | .sreg (.part q) r v => if q = pid then
      some { l with ticket := id, who := .part fid, dest := .sreg (.part fid) r v, load := false } else none
  | .fromLane (.part q) r g k => if q = pid then
      some { l with ticket := id, who := .part fid, dest := .fromLane (.part fid) r g k, load := false } else none
  | _ => none

/-- Form a fragment of a part with some of its lanes at a PC (R18, R311). The executing part keeps its other lanes. -/
def fork (pid : Nat) (lanes : DWord) (pc : DWord) (s : State) : State :=
  match Cells.get? pid s.parts with
  | none => s
  | some p =>
    let fid := s.nextId
    let core := agentCore s (.part pid)
    let new := s.lands.filterMap (copyLanding pid fid 0)
    let seat := decide (seatedOn s core < 64)
    let f : Part :=
      { p with
        own := lanes, em := lanes, tstack := [], pend := [], latch := none, issued := 0, last := 0, seated := seat
        thr := { p.thr with pc := pc, wait := .none, stop := .running, report := .zero, asked := [], ready := s.tick } }
    let s := if seat then s else countProf core ((agentCtx s (.part pid)).getD 0) 12 1 s
    { s with
      parts := Cells.insert fid f (Cells.modify pid
        (fun p => { p with own := p.own &&& ~~~lanes, em := p.em &&& ~~~lanes }) s.parts)
      lands := s.lands ++ new.mapIdx fun i l => { l with ticket := fid + 1 + i }
      nextId := fid + 1 + new.length }

/-- The token and length of a join at which a part waits. -/
def joinOf (p : Part) : Option (Nat × Nat) :=
  match p.thr.wait with
  | .join t n => if p.thr.stop = .running ∨ p.thr.stop = .brkp then some (t, n) else none
  | _ => none
/-- The part of a list that owns the lowest lane. -/
def lowestPart : List (Nat × Part) → Option (Nat × Part)
  | [] => none
  | p :: r => match lowestPart r with
    | none => some p
    | some q => if lowLane p.2.own < lowLane q.2.own then some p else some q

/-- Landings of uniform registers of parts that are gone. -/
def dropLands (gone : Nat → Bool) (s : State) : State :=
  { s with lands := s.lands.filter fun l => match l.dest with
      | .sreg (.part q) _ _ => !gone q
      | .fromLane (.part q) _ _ _ => !gone q
      | _ => true }

/-- The merge of parts that wait at joins with one token (R20, R293, R320): the part with the lowest lane is kept. A command
that another of them issued stays that part's, so that `tfence` of the kept part does not wait for it (R105; DESIGN CHOICE, log
entry 81). -/
def mergeParts (ps : List (Nat × Part)) (s : State) : State :=
  match lowestPart ps with
  | none => s
  | some (pid, p) =>
    let n := match joinOf p with
      | some (_, n) => n
      | none => 4
    let rest := ps.filter fun q => q.1 != pid
    let own := ps.foldl (fun m q => m ||| q.2.own) 0
    let em := ps.foldl (fun m q => m ||| q.2.em) 0
    let kept : Part :=
      { p with own := own, em := em, tstack := [],
               thr := retireThread s.tick (pc56 (p.thr.pc + BitVec.ofNat 64 n)) p.thr }
    dropLands (fun q => rest.any fun r => r.1 == q)
      { s with parts := Cells.insert pid kept (s.parts.filter fun q => !rest.any fun r => r.1 == q.1) }

/-- When every live part of a group waits at a join: a merge where the tokens agree, else WEDGE with DETAIL 0x02 in the part
that owns the lowest lane (R293). -/
def checkJoins (gid : Nat) (s : State) : State :=
  let ps := groupParts s gid
  match ps with
  | [] => s
  | (_, p) :: _ =>
    if ps.all fun q => (joinOf q.2).isSome then
      if ps.all fun q => (joinOf q.2).map Prod.fst == (joinOf p).map Prod.fst then mergeParts ps s
      else match lowestPart ps with
        | some (pid, q) =>
          takeTrap (.part pid) (match joinOf q with
            | some (_, n) => n
            | none => 4) (Trap.plain cWEDGE 0x02) s
        | none => s
    else s

/-! ### Ends -/

/-- The context's table on a core is dropped when its last team there has exited or been saved (R60). -/
def dropTable (core ctx : Nat) (s : State) : State :=
  if s.teams.any fun t => t.2.ctx == ctx && t.2.core == core && !t.2.exited && unitResident s t.2.uid then s
  else if (coreOf s core).tableCtx = some ctx then
    setCore core (fun k => { k with tableCtx := none, table := .empty, olds := [] }) s
  else s

/-- A team exits: the boxes that its groups hold are recalled and freed, once no granted pass reads them any more; its chits and
its core's table go (R225, R258, R321; DEDUCED, log entry 64). -/
def exitTeam (tid : Nat) (s : State) : State :=
  match Cells.get? tid s.teams with
  | none => s
  | some t =>
    let held : Cells Box := match Cells.get? t.uid s.clus with
      | some u => u.boxes.filter fun b : Nat × Box => match b.2.holder with
        | some gid => (match Cells.get? gid s.groups with
          | some g => g.tid == tid
          | none => false)
        | none => false
      | none => []
    let s := held.foldl (fun s b => endLends t.uid b.1 false s) s
    let s := freeOrphans t.uid (setTeam tid (fun t => { t with exited := true, chr := 0, cherr := 0 }) s)
    let s := setCtx t.ctx (fun c => { c with exitedTeams := c.exitedTeams + 1 }) s
    dropTable t.core t.ctx s

/-- A group exits: boxes waiting in its take queue are freed (R259); with the last group its team exits (R321). -/
def exitGroup (gid : Nat) (s : State) : State :=
  match Cells.get? gid s.groups with
  | none => s
  | some g =>
    match Cells.get? g.tid s.teams with
    | none => s
    | some t =>
      let s := g.takeq.foldl (fun s h => eraseBox t.uid (boxKey (h.setWidth 64)) s) s
      let s := setGroup gid (fun g => { g with exited := true, takeq := [] }) s
      if (teamGroups s g.tid).all fun h => h.2.exited then exitTeam g.tid s else s

/-- Withdraw a part's queued requests (R279, R307). -/
def withdraw (pid : Nat) (s : State) : State :=
  let mine (r : SqReq) : Bool := match r with
    | .res q _ => q == pid
    | .waitFor q _ => q == pid
    | .fork q => q == pid
  { s with
    sqs := s.sqs.map fun q => { q with queue := q.queue.filter fun r => !mine r }
    dropped := s.dropped.filter fun d => d.pid != pid }

/-- A part is gone: its lanes count as arrived, its requests and pending loads go (R294, R321). -/
def removePart (pid : Nat) (s : State) : State :=
  match Cells.get? pid s.parts with
  | none => s
  | some p =>
    let s := dropLands (fun q => q == pid) (withdraw pid s)
    setGroup p.gid (fun g => { g with gone := g.gone ||| p.own }) { s with parts := Cells.erase pid s.parts }
/-- A part ends (R321): with the last part its group exits, otherwise the other parts may now merge. -/
def endPart (pid : Nat) (s : State) : State :=
  match Cells.get? pid s.parts with
  | none => s
  | some p =>
    let s := removePart pid s
    if (groupParts s p.gid).isEmpty then exitGroup p.gid s else checkJoins p.gid s
/-- Every part of a group ends (R359). -/
def endGroup (gid : Nat) (s : State) : State :=
  exitGroup gid ((groupParts s gid).foldl (fun s p => removePart p.1 s) s)

/-- A sequencer context ends (R304, R321). -/
def endSeq (sc : Nat) (s : State) : State :=
  setSeq sc (fun q => { q with ended := true, thr := { q.thr with wait := .none, stop := .running } }) s

end Sys2Proof.Machine
end

