-- ==== Sys2Proof/Machine/Access.lean ====
section
/-!
DEFINITION. Global accesses: the checks of R243 and R244, loads and their landings (R25), stores, staging (R237 to R240), and
the meanings of majors 0x20 and 0x22 to 0x28 (09_memory_instr.md).
-/

namespace Sys2Proof.Machine

/-! ### Checks -/

/-- Which poison the check of an address meets (R372). A load's own read meets that of the line that it reads (`Line.read`). -/
inductive PoisonTest where
  /-- None: a store, or a load, whose read tests it. -/
  | none
  /-- That of the home: `watch`, and what the device reads for an instruction. -/
  | home
  /-- That of the old value of an atomic: of the home, or of the team's view (R238). -/
  | old
  deriving DecidableEq, Repr
/-- The poison that an access meets among n bytes of a frame. -/
def poisonMet (s : State) (pl : Place) (pt : PoisonTest) (addr pa n : Nat) : Bool :=
  match pt with
  | .none => false
  | .home => homeMarked s pl.core pa n
  | .old => match stagingTeam s pl.who pl.ctx addr with
    | some (_, t) => viewMarked s pl.part t addr n
    | none => homeMarked s pl.core pa n
/-- The checks of R243 on one address: alignment, bits 63:56, translation with the slot check, and poison. An atomic on a slot that it
may not write raises SEQW even where its data are poisoned: R243 tests the poison of a translation before the slot and does not place
that of the data (DESIGN CHOICE, log entry 93). -/
def reachChecked (s : State) (pl : Place) (k : AccessKind) (pt : PoisonTest) (addr n : Nat) : Reach :=
  if addr % n ≠ 0 then .bad 0x06 0x00
  else if 2 ^ 56 ≤ addr then .bad 0x08 0x01
  else match translate s pl k addr n with
    | .phys s' pa b z wr => if poisonMet s' pl pt addr pa n then .bad 0x10 0x02 else .phys s' pa b z wr
    | r => r

/-- What a lane's address reaches. -/
structure LaneHit where
  lane : Nat
  addr : Nat
  hit : Reach
  deriving DecidableEq, Repr

/-- The checks of every active lane in ascending order; first touches of earlier lanes stand for later ones. -/
def reachLanes (pl : Place) (k : AccessKind) (pt : PoisonTest) (n : Nat) : List (Nat × Nat) → State → List LaneHit × State
  | [], s => ([], s)
  | (l, a) :: r, s =>
    let h := reachChecked s pl k pt a n
    let s' := match h with
      | .phys s' _ _ _ _ => s'
      | _ => noteAt pl.part a s
    let x := reachLanes pl k pt n r s'
    (⟨l, a, h⟩ :: x.1, x.2)

/-- The cause of a lane, where a page that is not resident is one (`strict`) or not. -/
def hitCause (strict : Bool) : Reach → Option (Nat × Nat)
  | .bad c d => some (c, d)
  | .missing d => if strict then some (0x07, d) else none
  | .ask _ => if strict then some (0x07, 0x00) else none
  | _ => none
/-- The report of the failing lanes (R243, R361): the lowest lane's cause, with every lane of the same cause. -/
def laneTrap (strict wr : Bool) (hs : List LaneHit) : Option Trap :=
  match hs.findSome? fun h => (hitCause strict h.hit).map fun c => (h, c) with
  | none => none
  | some (h, c) =>
    let same := hs.filter fun x => match hitCause strict x.hit with
      | some d => d.1 == c.1
      | none => false
    some { cause := BitVec.ofNat 8 c.1, detail := BitVec.ofNat 8 c.2
           fva := BitVec.ofNat 64 (if c = (0x10, 0x02) then h.addr / 32 * 32 else h.addr)
           mask := maskOf (same.map LaneHit.lane), wr := wr
           addrs := same.map fun x => (x.lane, BitVec.ofNat 64 x.addr), paged := true, accm := 0, chit := none }

/-- Entries outside the pool that an access of lanes has met are noted, whichever cause it raises (R339). -/
def noteLanes (p : BitVec 6) (hs : List LaneHit) (s : State) : State := hs.foldl (fun s h => noteAt p h.addr s) s
/-- A lane's address (R243). -/
def laneAddr (g : Group) (wb : Nat) (va : BitVec 6) (off : Int) (l : Nat) : Nat :=
  (BitVec.ofInt 64 ((laneVal g wb ((va.toNat + 1) % 64) l).toNat * 2 ^ 32 + (laneVal g wb va.toNat l).toNat + off)).toNat
/-- Registers that a value of n bytes takes (R247). -/
def sizeRegs (n : Nat) : Nat := if n ≤ 4 then 1 else n / 4
/-- The bytes of a lane's value in consecutive registers (R247). -/
def laneBytes (g : Group) (wb : Nat) (v : BitVec 6) (n l : Nat) : List Byte :=
  ((regsFrom v (sizeRegs n)).flatMap fun r => toBytes 4 (laneVal g wb r l).toNat).take n
/-- Bytes as words for consecutive registers, zeros above. -/
def wordsOf (n : Nat) (d : List Byte) : List Word :=
  (List.range (sizeRegs n)).map fun i => BitVec.ofNat 32 (ofBytes ((d.drop (4 * i)).take 4))

/-! ### Queue limits -/

/-- Load instructions of an agent that are outstanding (R245). -/
def loadsOut (s : State) (a : Agent) : Nat := (s.lands.filter fun l => decide (l.who = a) && l.load).length
/-- Store instructions of an agent that are outstanding (R245). -/
def storesOut (s : State) (a : Agent) : Nat :=
  (((s.stores.filter fun q => decide (q.who = a)).map PStore.instr).eraseDups).length +
    (s.lands.filter fun l => decide (l.who = a) && l.store).length
/-- The limits of R245 hold one more instruction of the kind. -/
def roomFor (s : State) (a : Agent) (load store : Bool) : Bool :=
  (!load || decide (loadsOut s a < 32)) && (!store || decide (storesOut s a < 32))

/-! ### Reading -/

/-- The access reaches bytes. -/
def Reach.lands : Reach → Bool
  | .phys _ _ _ _ _ => true
  | .peer _ => true
  | _ => false
/-- The bytes behind a peer window as an agent of a core reads them: the stores that the core has queued for them stand over
what the peer's home holds (R212, R222). -/
def peerRead (s : State) (core o n : Nat) : List Byte :=
  (List.range n).map fun i =>
    ((s.stores.filter fun q => q.core == core && q.peer).foldl (fun b q =>
      if q.addr ≤ o + i ∧ o + i < q.addr + q.data.length then q.data.getD (o + i - q.addr) 0 else b) (memByte s.peerMem (o + i)))
/-- The bytes that a read of an agent returns, none where one is poisoned (R372), and the state with what the read brings into caches:
the team's view for an ordered location of a deterministic launch (R238), zeros where nothing is there to read (R232, R248). -/
def readHit (a : Agent) (pl : Place) (addr n : Nat) (r : Reach) (s : State) : Option (List Byte) × State :=
  match stagingTeam s a pl.ctx addr with
  | some (_, t) => (if r.lands then teamRead s pl.part t addr n else some (List.replicate n 0), s)
  | none => match r with
    | .phys _ pa b z wr => readAt pl addr pa b z wr n s
    | .peer p => (some (peerRead s pl.core p n), s)
    | _ => (some (List.replicate n 0), s)
/-- Reads of lanes in ascending order: each lane's hit, which is POISON where it reads poison (R372), and its bytes. -/
def readLanes (a : Agent) (pl : Place) (n : Nat) : List LaneHit → State → List (LaneHit × List Byte) × State
  | [], s => ([], s)
  | h :: r, s =>
    let x := readHit a pl h.addr n h.hit s
    let y := readLanes a pl n r x.2
    ((match x.1 with
      | some d => (h, d)
      | none => ({ h with hit := .bad 0x10 0x02 }, [])) :: y.1, y.2)

/-- Mark lane destinations empty and send their data to land (R25). -/
def landLanes (a : Agent) (p : Part) (g : Group) (ctx : Nat) (v : BitVec 6) (n : Nat) (ds : List (Nat × List Byte))
    (load store : Bool) (s : State) : State :=
  if ds.isEmpty then s
  else
    let regs := regsFrom v (sizeRegs n)
    let ws := ds.flatMap fun d => (regs.zip (wordsOf n d.2)).map fun q => (laneKey g p.wb q.1 d.1, q.2)
    let s := setGroup p.gid (emptyRegs p.wb regs (ds.map Prod.fst)) s
    { s with
      lands := s.lands ++ [{ ticket := s.nextId, who := a, ctx := ctx, dest := .lanes p.gid ws, load := load, store := store }]
      nextId := s.nextId + 1 }
/-- Mark a uniform destination empty and send its data to land (R25). -/
def landS (a : Agent) (ctx : Nat) (r : BitVec 5) (v : DWord) (load : Bool) (s : State) : State :=
  let s := setThread a (emptyS r) s
  { s with
    lands := s.lands ++ [{ ticket := s.nextId, who := a, ctx := ctx, dest := .sreg a r.toNat v, load := load, store := false }]
    nextId := s.nextId + 1 }

/-! ### Staging -/

/-- Staged entries of a die's teams that take staging space (R237, R240). -/
def dieStaged (s : State) (die : Nat) : Nat :=
  ((s.teams.filter fun t => coreDie t.2.core == die && !t.2.through && !t.2.applied).map fun t => t.2.staged.length).sum
/-- Every team of lower index has been applied (R239). -/
def lowerApplied (s : State) (t : Team) : Bool :=
  s.teams.all fun q => q.2.ctx != t.ctx || q.2.applied || decide (t.index ≤ q.2.index)
/-- Staged entries in the teller's order: ascending group index, then staging order (R239). -/
def tellerOrder (s : State) (es : List Staged) : List Staged :=
  (List.range 16).flatMap fun i => es.filter fun e => match Cells.get? e.gid s.groups with
    | some g => g.grp == i
    | none => false
/-- Perform a team's staged entries in the teller's order (R239); a translation that leaves the pool is noted (R339). -/
def applyTeam (t : Team) (s : State) : State :=
  let p := ctxPart s t.ctx
  (tellerOrder s t.staged).foldl (fun s e => applyEntry t.ctx (coreDie t.core) p e (noteAt p e.va s)) s
/-- A team whose staging is full writes through: its entries are applied, and later ordered writes are performed at once
(R240; DEDUCED, log entry 68). -/
def writeThrough (tid : Nat) (t : Team) (s : State) : State :=
  wakeStaging (applyTeam t (setTeam tid (fun t => { t with through := true }) s))
/-- Whether n more staged entries of an agent's team fit: yes, yes after it starts to write through, or it stalls (R240). -/
def stagingRoom (s : State) (a : Agent) (pl : Place) (addrs : List Nat) : Option State :=
  match agentTeam s a with
  | none => some s
  | some (tid, t) =>
    let n := (addrs.filter fun x => (stagingTeam s a pl.ctx x).isSome).length
    if n = 0 ∨ t.through then some s
    else if (dieStaged s pl.die + n) * Config.stagedEntryBytes ≤ 64 * 2 ^ 20 then some s
    else if lowerApplied s t then some (writeThrough tid t s)
    else none

/-! ### Writing -/

/-- A checked store of an agent that no staging takes: performed at once where it is a slot store (R232), else accepted in the
core's queue (R210; DESIGN CHOICE, log entry 5). `w` says that its instruction has with it stored the whole sector (R372). -/
def plainStore (a : Agent) (pl : Place) (instr : Nat) (w : Bool) (addr : Nat) (d : List Byte) (r : Reach) (s : State) : State :=
  match r with
  | .phys _ pa b z _ =>
    let s := touchTlb pl.core pl.ctx b z s
    if (seqAt s pl.part addr).isSome then patchL1 pl.core w pa d (homeStore w pl.die pa d s)
    else acceptStore a pl instr false w pa d s
  | .peer p => acceptStore a pl instr true false p d s
  | _ => s
/-- A checked store of an agent: staged, or as other stores are (R210, R237). -/
def storeHit (a : Agent) (gid : Nat) (pl : Place) (instr : Nat) (w : Bool) (addr : Nat) (d : List Byte) (r : Reach) (s : State) :
    State :=
  match stagingTeam s a pl.ctx addr with
  | some (tid, _) => if r.lands then stageEntry tid pl.ctx pl.die pl.part ⟨gid, addr, d, none, d.length, w⟩ s else s
  | none => plainStore a pl instr w addr d r s
/-- The physical addresses of the frames that lanes reach. -/
def hitAddrs (hs : List LaneHit) : List Nat := hs.filterMap fun h => match h.hit with
  | .phys _ pa _ _ _ => some pa
  | _ => none
/-- For each lane of a store of n bytes, in ascending order: no later lane stores to its sector, and the lanes together store the whole
sector, so that its poison mark goes (R372). -/
def wholeLanes (n : Nat) (hs : List LaneHit) : List (LaneHit × Bool) :=
  hs.mapIdx fun i h => (h, match h.hit with
    | .phys _ pa _ _ _ => !((hitAddrs (hs.drop (i + 1))).any fun a => a / 32 == pa / 32) &&
        coversGranule 32 ((hitAddrs hs).map fun a => (a, n)) pa
    | _ => false)

/-- A read at the home of a line: the reader's die takes the home's clock and brings its copy of the line up to date, and the
core drops its L1 copy, so that no later read there returns an older value (R212, R221). -/
def hearHome (core die pa : Nat) (s : State) : State :=
  let s := joinClock die (dieClock s (physDie pa)) s
  let s := match s.upds.reverse.find? fun u => u.die == die && u.addr / 128 == pa / 128 with
    | some u => takeUpd u s
    | none => s
  if core < 768 then setCore core (fun c => { c with l1 := c.l1.filter fun l => l.pline != pa / 128 }) s else s
/-- One lane's atomic at its home, or staged (R238, R250): the old bytes and the state. -/
def atomHit (a : Agent) (gid : Nat) (pl : Place) (op : BitVec 4) (n addr : Nat) (opd : List Byte) (r : Reach) (s : State) :
    List Byte × State :=
  match stagingTeam s a pl.ctx addr with
  | some (tid, t) =>
    if r.lands then
      (teamBytes s pl.part t addr n, stageEntry tid pl.ctx pl.die pl.part ⟨gid, addr, opd, some op, n, false⟩ s)
    else (List.replicate n 0, s)
  | none => match r with
    | .phys _ pa b z _ =>
      let s := drainStores (fun q => q.core == pl.core && !q.peer && q.addr / 128 == pa / 128) (touchTlb pl.core pl.ctx b z s)
      let old := memBytes s.mem pa n
      let new := atomNew op.toNat n old opd
      let s := patchL1 pl.core false pa new (homeWrite pl.die pa new s)
      (old, joinClock pl.die (dieClock s (physDie pa)) s)
    | .peer p =>
      let s := drainStores (fun q => q.core == pl.core && q.peer && q.addr / 128 == p / 128) s
      let old := memBytes s.peerMem p n
      (old, peerWrite p (atomNew op.toNat n old opd) s)
    | _ => (List.replicate n 0, s)

/-! ### Major 0x20 -/

/-- The address of a uniform access (R243). -/
def uniAddr (t : Thread) (o : OpV) (n : Nat) : Nat := (sVal t o.sa + BitVec.ofInt 64 (o.imm.toInt * n)).toNat
/-- The cause of a uniform access. -/
def uniTrap (wr : Bool) (addr : Nat) (c : Nat × Nat) : Trap :=
  { Trap.at (BitVec.ofNat 8 c.1) (BitVec.ofNat 8 c.2) (if c = (0x10, 0x02) then addr / 32 * 32 else addr) with wr := wr }
/-- A uniform load of n bytes; `acq` makes it an acquire at package scope (R246). -/
def uniLoad (o : OpV) (n : Nat) (acq : Bool) (s : State) : Host.Outcome State Fault Refusal :=
  onAgent s fun a t =>
    (gateS t [⟨o.sa, o.wsa⟩] [o.sd]).run s
      (if !roomFor s a true false then .wait s .issueLimit
       else
        let pl := placeOf s a
        let addr := uniAddr t o n
        let r := reachChecked s pl .read .none addr n
        match hitCause true r with
        | some c => .trap s (uniTrap false addr c)
        | none =>
          let s' := match r with
            | .phys s' _ _ _ _ => s'
            | _ => s
          let fence (s : State) : State := if acq then acquireAt pl 3 s else s
          match readHit a pl addr n r (fence s') with
          | (none, _) => .trap s (uniTrap false addr (0x10, 0x02))
          | (some d, s') => .done (landS a pl.ctx o.sd (BitVec.ofNat 64 (ofBytes d)) true (fence s')))
/-- A uniform store of n bytes; `rel` makes it a release at package scope (R246). -/
def uniStore (o : OpV) (n : Nat) (rel : Bool) (s : State) : Host.Outcome State Fault Refusal :=
  onAgent s fun a t =>
    (gateS t [⟨o.sa, o.wsa⟩, ⟨o.sd, false⟩] []).run s
      (if !roomFor s a false true then .wait s .issueLimit
       else
        let pl := placeOf s a
        let addr := uniAddr t o n
        let r := reachChecked s pl .write .none addr n
        match hitCause true r with
        | some c => .trap s (uniTrap true addr c)
        | none =>
          let s := match r with
            | .phys s' _ _ _ _ => s'
            | _ => s
          match stagingRoom s a pl [addr] with
          | none => .wait s .staging
          | some s =>
            let s := if rel then releaseAt pl 3 s else s
            let gid := match a with
              | .part pid => (match Cells.get? pid s.parts with
                | some p => p.gid
                | none => 0)
              | _ => 0
            .done (storeHit a gid pl s.nextId false addr (toBytes n (sVal t o.sd).toNat) r { s with nextId := s.nextId + 1 }))

/-- sld.64 (R246). -/
def execSld64 (o : OpV) (s : State) : Host.Outcome State Fault Refusal := uniLoad o 8 false s
/-- sld.32 (R246). -/
def execSld32 (o : OpV) (s : State) : Host.Outcome State Fault Refusal := uniLoad o 4 false s
/-- sst.64 (R246). -/
def execSst64 (o : OpV) (s : State) : Host.Outcome State Fault Refusal := uniStore o 8 false s
/-- sst.32 (R246). -/
def execSst32 (o : OpV) (s : State) : Host.Outcome State Fault Refusal := uniStore o 4 false s
/-- slda (R246). -/
def execSlda (o : OpV) (s : State) : Host.Outcome State Fault Refusal := uniLoad o 8 true s
/-- sstl (R246). -/
def execSstl (o : OpV) (s : State) : Host.Outcome State Fault Refusal := uniStore o 8 true s

/-! ### Lane loads and stores -/

/-- The active lanes with their addresses. -/
def laneAddrs (g : Group) (p : Part) (act : DWord) (va : BitVec 6) (off : Int) : List (Nat × Nat) :=
  (lanesOf g.w act).map fun l => (l, laneAddr g p.wb va off l)
/-- The source field of an address pair. -/
def addrSrc (va : BitVec 6) (wa : Bool) : LaneSrc := ⟨regsFrom va 2, wa⟩
/-- The residency mask that kr names: k5 to k7 for 1 to 3 (R248). -/
def krMask (kr : BitVec 2) : Nat := if kr = 0 then 0 else kr.toNat + 4
/-- Set bits of a residency mask (R248). -/
def setKr (gid : Nat) (kr : BitVec 2) (ls : DWord) (s : State) : State :=
  if kr = 0 then s else setGroup gid (putMask (krMask kr) ls (BitVec.allOnes 64)) s
/-- The residency mask takes the lanes of a `st` that raises NOPAGE as the trap is taken, and not while the trap waits for its ring
(R248, R366). -/
def maskFailed (a : Agent) (gid : Nat) (kr : BitVec 2) (t : Trap) (s : State) : State :=
  if t.cause = cNOPAGE ∧ trapHeld s a t = false then setKr gid kr t.mask s else s
/-- A lane that has no resident page, or reads a slot at or beyond CL (R248). -/
def hitZero : Reach → Bool
  | .missing _ => true
  | .beyond => true
  | .ask _ => true
  | _ => false

/-- A lane load: `strict` raises NOPAGE, else such lanes read zero and set their bit of the residency mask; `scope` makes it
an acquire (R247 to R249). -/
def laneLoad (o : OpM) (strict : Bool) (kr : BitVec 2) (scope : Option Nat) (s : State) : Host.Outcome State Fault Refusal :=
  onLanes s o.pk fun pid p g act =>
    let n := 2 ^ o.size.toNat
    (gateL p g act [addrSrc o.va o.wa] [] [o.pk.toNat] (regsFrom o.vt (sizeRegs n)) []).run s
      (if !roomFor s (.part pid) true false then .wait s .issueLimit
       else
        let pl := placeOf s (.part pid)
        let x := reachLanes pl (if strict then .read else .lane) .none n
          (laneAddrs g p act o.va (o.x.toInt * n)) s
        let fence (s : State) : State := match scope with
          | some c => acquireAt pl c s
          | none => s
        let y := readLanes (.part pid) pl n x.1 (fence x.2)
        match laneTrap strict false (y.1.map Prod.fst) with
        | some t => .trap (noteLanes pl.part x.1 s) t
        | none =>
          let s := landLanes (.part pid) p g pl.ctx o.vt n (y.1.map fun q => (q.1.lane, q.2)) true false (fence y.2)
          .done (setKr p.gid kr (maskOf ((x.1.filter fun h => hitZero h.hit).map LaneHit.lane)) s))

/-- Stores of lanes in ascending order (R209). -/
def storeLanes (a : Agent) (p : Part) (g : Group) (pl : Place) (v : BitVec 6) (n instr : Nat) (hs : List LaneHit)
    (s : State) : State :=
  (wholeLanes n hs).foldl (fun s q => storeHit a p.gid pl instr q.2 q.1.addr (laneBytes g p.wb v n q.1.lane) q.1.hit s) s

/-- A lane store; `scope` makes it a release (R247 to R249). -/
def laneStore (o : OpM) (kr : BitVec 2) (scope : Option Nat) (s : State) : Host.Outcome State Fault Refusal :=
  onLanes s o.pk fun pid p g act =>
    let n := 2 ^ o.size.toNat
    (gateL p g act [addrSrc o.va o.wa, ⟨regsFrom o.vt (sizeRegs n), o.wt⟩] [] [o.pk.toNat] [] []).run s
      (if !roomFor s (.part pid) false true then .wait s .issueLimit
       else
        let pl := placeOf s (.part pid)
        let x := reachLanes pl .write .none n (laneAddrs g p act o.va (o.x.toInt * n)) s
        match laneTrap true true x.1 with
        | some t => .trap (maskFailed (.part pid) p.gid kr t (noteLanes pl.part x.1 s)) t
        | none => match stagingRoom x.2 (.part pid) pl (x.1.map LaneHit.addr) with
          | none => .wait s .staging
          | some s =>
            let s := match scope with
              | some c => releaseAt pl c s
              | none => s
            .done (storeLanes (.part pid) p g pl o.vt n s.nextId x.1 { s with nextId := s.nextId + 1 }))

/-- ld (R247, R248). -/
def execLd (o : OpM) (s : State) : Host.Outcome State Fault Refusal := laneLoad o false o.kr none s
/-- st (R247, R248). -/
def execSt (o : OpM) (s : State) : Host.Outcome State Fault Refusal := laneStore o o.kr none s
/-- lda (R249): the scope stands in bits 27:26. -/
def execLda (o : OpM) (s : State) : Host.Outcome State Fault Refusal := laneLoad o true 0 (some (o.kr.toNat + 1)) s
/-- stl (R249). -/
def execStl (o : OpM) (s : State) : Host.Outcome State Fault Refusal := laneStore o 0 (some (o.kr.toNat + 1)) s

/-! ### Atomics -/

/-- Registers of an atomic's operand (R250). -/
def atomRegs (op : BitVec 4) (n : Nat) : Nat := if op = 9 then 2 * sizeRegs n else sizeRegs n
/-- Atomics of lanes in ascending order (R101, R102). -/
def atomLanes (a : Agent) (p : Part) (g : Group) (pl : Place) (op : BitVec 4) (v : BitVec 6) (n : Nat) :
    List LaneHit → State → List (Nat × List Byte) × State
  | [], s => ([], s)
  | h :: r, s =>
    let opd := (regsFrom v (atomRegs op n)).flatMap fun q => toBytes 4 (laneVal g p.wb q h.lane).toNat
    let x := atomHit a p.gid pl op n h.addr opd h.hit s
    let y := atomLanes a p g pl op v n r x.2
    ((h.lane, x.1) :: y.1, y.2)

/-- atom (R250, R251): a release before and an acquire after, at its scope. -/
def execAtom (o : OpM) (s : State) : Host.Outcome State Fault Refusal :=
  onLanes s o.pk fun pid p g act =>
    let n := 2 ^ o.size.toNat
    (gateL p g act [addrSrc o.va o.wa, ⟨regsFrom o.vt (atomRegs o.x n), o.wt⟩] [] [o.pk.toNat]
      (regsFrom o.vt (sizeRegs n)) []).run s
      (if !roomFor s (.part pid) true true then .wait s .issueLimit
       else
        let pl := placeOf s (.part pid)
        let x := reachLanes pl .write .old n (laneAddrs g p act o.va 0) s
        match laneTrap true true x.1 with
        | some t => .trap (noteLanes pl.part x.1 s) t
        | none => match stagingRoom x.2 (.part pid) pl (x.1.map LaneHit.addr) with
          | none => .wait s .staging
          | some s =>
            let s := releaseAt pl (o.kr.toNat + 1) s
            let y := atomLanes (.part pid) p g pl o.x o.vt n x.1 s
            .done (landLanes (.part pid) p g pl.ctx o.vt n y.1 true true (acquireAt pl (o.kr.toNat + 1) y.2)))

/-! ### Fences -/

/-- fence.full (R217, R218): a release and an acquire; at package and system scope every die copy is up to date after it. -/
def execFenceFull (o : OpFence) (s : State) : Host.Outcome State Fault Refusal :=
  onPart s fun pid _ _ =>
    let pl := placeOf s (.part pid)
    let s := acquireAt pl o.scope.toNat (releaseAt pl o.scope.toNat s)
    .done (if 3 ≤ o.scope.toNat then drainUpds s else s)
/-- fence.acq (R217, R219). -/
def execFenceAcq (o : OpFence) (s : State) : Host.Outcome State Fault Refusal :=
  onPart s fun pid _ _ => .done (acquireAt (placeOf s (.part pid)) o.scope.toNat s)
/-- fence.rel (R217). -/
def execFenceRel (o : OpFence) (s : State) : Host.Outcome State Fault Refusal :=
  onPart s fun pid _ _ => .done (releaseAt (placeOf s (.part pid)) o.scope.toNat s)
/-- fence.eng (R217, R252): at group and team scope it acts at cluster scope. -/
def execFenceEng (o : OpFence) (s : State) : Host.Outcome State Fault Refusal :=
  onPart s fun pid _ _ => .done (releaseAt (placeOf s (.part pid)) (max 2 o.scope.toNat) s)

/-! ### Residency requests -/

/-- The answer to a lane of `pgreq`. -/
inductive PageAnswer where
  | granted
  | refused
  | pending (page : Nat)
  | bad (cause detail : Nat)
  deriving DecidableEq, Repr

/-- One lane of `pgreq` (R253, R335, R341): what its page answers, with the frame of a first touch. A page of a sequence that no
segment backs is refused, and poison behind a peer window does not matter, since nothing is read. -/
def askLane (pl : Place) (asked : List (Nat × Option Bool)) (addr n : Nat) (s : State) : PageAnswer × State :=
  match reachChecked s pl .read .none addr n with
  | .phys s' _ _ _ _ => (.granted, s')
  | .beyond => (if (match seqAt s pl.part addr with
      | some (q, _) => (seqPhys q addr).isSome
      | none => false) then .granted else .refused, s)
  | .peer _ => (.granted, s)
  | .bad 0x10 0x02 => (.granted, s)
  | .bad c d => (.bad c d, s)
  | .ask b => (.pending b, s)
  | .missing _ =>
    match parOf? s pl.part with
    | none => (.refused, s)
    | some t => match pageOf t addr with
      | none => (.refused, s)
      | some (b, pg) =>
        if pg.state = .host then match asked.find? fun q => q.1 == b with
          | some (_, some true) => (.granted, s)
          | some (_, some false) => (.refused, s)
          | _ => (.pending b, s)
        else (.refused, s)
/-- The lanes of `pgreq` in ascending order. -/
def askLanes (pl : Place) (asked : List (Nat × Option Bool)) (n : Nat) :
    List (Nat × Nat) → State → List (Nat × Nat × PageAnswer) × State
  | [], s => ([], s)
  | (l, a) :: r, s =>
    let x := askLane pl asked a n (noteAt pl.part a s)
    let y := askLanes pl asked n r x.2
    ((l, a, x.1) :: y.1, y.2)

/-- pgreq (R253): it waits for its page requests, then records refusals in kN or raises NOPAGE. -/
def execPgreq (o : OpPgreq) (s : State) : Host.Outcome State Fault Refusal :=
  onLanes s o.pk fun pid p g act =>
    let n := 2 ^ o.size.toNat
    (gateL p g act [addrSrc o.va o.wa] [] [o.pk.toNat] [] []).run s
      (let pl := placeOf s (.part pid)
       let x := askLanes pl p.thr.asked n (laneAddrs g p act o.va 0) s
       let hits : List LaneHit := x.1.map fun q => ⟨q.1, q.2.1, match q.2.2 with
         | .bad c d => .bad c d
         | .refused => if o.kr = 0 then .bad 0x07 0x02 else .beyond
         | _ => .beyond⟩
       let open_ := x.1.filterMap fun q => match q.2.2 with
         | .pending b => some b
         | _ => none
       let faults := x.1.any fun q => match q.2.2 with
         | .bad _ _ => true
         | _ => false
       if !faults && !open_.isEmpty then
         let s := open_.foldl (fun s b => askPage pl.part b pl.die s) x.2
         .wait (setThread (.part pid) (fun t =>
           { t with asked := t.asked ++ (open_.eraseDups.filter fun b => !t.asked.any fun q => q.1 == b).map fun b => (b, none) })
           s) .pages
       else match laneTrap true false hits with
         | some t => .trap (noteLanes pl.part hits s) t
         | none =>
           let ref := maskOf ((x.1.filter fun q => q.2.2 == .refused).map Prod.fst)
           .done (if o.kr = 0 then x.2
             else setGroup p.gid (putMask (krMask o.kr) (act &&& lowMask g.w) ref) x.2))

/-- The line of an address is brought to the core's L1, poisoned or not, where its page is on the device; no counter sees it (R253,
R335, R372). -/
def prefetchLine (pl : Place) (addr n : Nat) (s : State) : State :=
  match reachChecked s pl .lane .none addr n with
  | .phys s' pa b z wr =>
    if s'.frames = s.frames then
      setCore pl.core (fun c => { c with prof := (coreOf s pl.core).prof }) (coreLine pl addr pa b z wr s).2
    else s
  | _ => noteAt pl.part addr s
/-- pfch (R253): it never faults and never waits; lanes whose address cannot be used are passed over. -/
def execPfch (o : OpPfch) (s : State) : Host.Outcome State Fault Refusal :=
  onLanes s o.pk fun pid p g act =>
    let usable (l : Nat) : Bool := (regsFrom o.va 2).all fun r => (laneWord g p.wb r l).full && !(laneWord g p.wb r l).poison
    let pl := placeOf s (.part pid)
    if o.pk ≠ 0 ∧ g.maskPoison.contains o.pk.toNat = true then .done s
    else .done (((laneAddrs g p act o.va 0).filter fun q => usable q.1).foldl
      (fun s q => prefetchLine pl q.2 (2 ^ o.size.toNat) s) s)

end Sys2Proof.Machine
end

