-- ==== Sys2Proof/Machine/BoxInstr.lean ====
section
/-!
DEFINITION. Box accesses and box management, majors 0x2A to 0x2D (R254 to R261), and chit instructions, major 0x30 (R269).
-/

namespace Sys2Proof.Machine

/-! ### Box accesses -/

/-- The unit of a part's cluster and its record. -/
def partUnit (s : State) (g : Group) : Option (Nat × Team × Cluster) :=
  match Cells.get? g.tid s.teams with
  | some t => (Cells.get? t.uid s.clus).map fun u => (t.uid, t, u)
  | none => none
/-- The box that a handle names for a group that must hold it; `none` raises BOX 0x01 (R256). -/
def heldBox (s : State) (gid : Nat) (g : Group) (h : DWord) : Option (Nat × Box) :=
  match partUnit s g with
  | some (uid, _, u) => match boxAt u h with
    | some b => if b.holder = some gid then some (uid, b) else none
    | none => none
  | none => none
/-- BOX raised by the part itself (R256). -/
def boxTrap (d : BitVec 8) : Trap := Trap.plain cBOX d

/-- What a lane's offset meets: the bytes, nothing (with kr), a cause, or a poisoned granule of 8 bytes by its offset. -/
inductive BoxHit where
  | inside
  | outside
  | bad (cause detail : Nat)
  | spoilt (granule : Nat)
  deriving DecidableEq, Repr
/-- The checks of R254 on one lane: holder, alignment, range. -/
def boxLane (b : Option Box) (kr : Bool) (off n : Nat) : BoxHit :=
  match b with
  | none => .bad 0x09 0x01
  | some b =>
    if off % n ≠ 0 then .bad 0x06 0x00
    else if b.bytes < off + n then (if kr then .outside else .bad 0x09 0x02)
    else .inside
/-- The checks that follow once every lane has passed those: a store to a lent box, then poison for what reads (R254, R371). -/
def boxLate (b : Option Box) (store reads : Bool) (n : Nat) (h : Nat × Nat × BoxHit) : Nat × Nat × BoxHit :=
  match b with
  | none => h
  | some b =>
    if store && !b.lends.isEmpty then (h.1, h.2.1, .bad 0x09 0x03)
    else if reads && h.2.2 == .inside then
      (match (b.frontPoison.filter fun q => decide (q < h.2.1 + n) && decide (h.2.1 < q + 8)).min? with
       | some q => (h.1, h.2.1, .spoilt q)
       | none => h)
    else h
/-- The lane fails. -/
def BoxHit.fails : BoxHit → Bool
  | .bad _ _ => true
  | .spoilt _ => true
  | _ => false
/-- The cause of a lane with what FLTVA then holds: its offset, or the poisoned granule (R354). -/
def boxCause (h : Nat × Nat × BoxHit) : Option (Nat × Nat × Nat) :=
  match h.2.2 with
  | .bad c d => some (c, d, h.2.1)
  | .spoilt q => some (0x10, 0x04, q)
  | _ => none
/-- The report of failing box lanes: lane addresses are box offsets (R254, R361). -/
def boxLaneTrap (wr : Bool) (hs : List (Nat × Nat × BoxHit)) : Option Trap :=
  match hs.findSome? boxCause with
  | none => none
  | some c =>
    let same := hs.filter fun x => (boxCause x).map Prod.fst == some c.1
    some { cause := BitVec.ofNat 8 c.1, detail := BitVec.ofNat 8 c.2.1
           fva := BitVec.ofNat 64 c.2.2
           mask := maskOf (same.map Prod.fst), wr := wr
           addrs := same.map fun x => (x.1, BitVec.ofNat 64 x.2.1), paged := false, accm := 0, chit := none }
/-- The lanes of a box access with their offsets and checks. -/
def boxLanes (g : Group) (p : Part) (act : DWord) (va : BitVec 6) (b : Option Box) (store reads kr : Bool) (n : Nat) :
    List (Nat × Nat × BoxHit) :=
  let hs := (lanesOf g.w act).map fun l =>
    let off := (laneVal g p.wb va.toNat l).toNat
    (l, off, boxLane b kr off n)
  if hs.any fun h => h.2.2.fails then hs else hs.map (boxLate b store reads n)
/-- Write bytes to a front copy; granules wholly covered lose their mark (R372). -/
def writeFront (off : Nat) (d : List Byte) (b : Box) : Box :=
  { b with
    front := memWrite b.front off d
    frontPoison := b.frontPoison.filter fun q => !(decide (off ≤ q) && decide (q + 8 ≤ off + d.length)) }
/-- Write lanes' bytes to a front copy, the highest lane last: granules that they cover together lose their mark (R209, R372). -/
def writeFronts (ws : List (Nat × List Byte)) (b : Box) : Box :=
  let b := ws.foldl (fun b w => writeFront w.1 w.2 b) b
  { b with frontPoison := b.frontPoison.filter fun q => !coversGranule 8 (ws.map fun w => (w.1, w.2.length)) q }
/-- The handle register of a box access: s0 to s15. -/
def boxReg (sh : BitVec 4) : BitVec 5 := sh.setWidth 5

/-- bld (R254): lanes that leave the box read zero and set their bit of kM, where kM is named. Counter 8 takes one box access for the
instruction, whatever lanes are active, as in `bst` and `batom` (R391; DESIGN CHOICE, log entry 82). -/
def execBld (o : OpB) (s : State) : Host.Outcome State Fault Refusal :=
  onLanes s o.pk fun pid p g act =>
    let n := 2 ^ o.size.toNat
    (gateL p g act [src1 o.va o.wa] [⟨boxReg o.sh, false⟩] [o.pk.toNat] (regsFrom o.vt (sizeRegs n)) []).run s
      (if !roomFor s (.part pid) true false then .wait s .issueLimit
       else
        let b := (heldBox s p.gid g (sVal p.thr (boxReg o.sh))).map Prod.snd
        let hs := boxLanes g p act o.va b false true (o.kr != 0) n
        match boxLaneTrap false hs with
        | some t => .trap s t
        | none =>
          let pl := placeOf s (.part pid)
          let ds := hs.map fun h => (h.1, match h.2.2, b with
            | .inside, some b => memBytes b.front h.2.1 n
            | _, _ => List.replicate n 0)
          let s := countProf pl.core pl.ctx 8 1 (landLanes (.part pid) p g pl.ctx o.vt n ds true false s)
          .done (setKr p.gid o.kr (maskOf ((hs.filter fun h => h.2.2 == .outside).map Prod.fst)) s))

/-- bst (R254). -/
def execBst (o : OpB) (s : State) : Host.Outcome State Fault Refusal :=
  onLanes s o.pk fun pid p g act =>
    let n := 2 ^ o.size.toNat
    let h := sVal p.thr (boxReg o.sh)
    (gateL p g act [src1 o.va o.wa, ⟨regsFrom o.vt (sizeRegs n), o.wt⟩] [⟨boxReg o.sh, false⟩] [o.pk.toNat] [] []).run s
      (if !roomFor s (.part pid) false true then .wait s .issueLimit
       else
       let hb := heldBox s p.gid g h
       let hs := boxLanes g p act o.va (hb.map Prod.snd) true false (o.kr != 0) n
       match boxLaneTrap true hs with
       | some t => .trap s t
       | none =>
         let pl := placeOf s (.part pid)
         let s := countProf pl.core pl.ctx 8 1 s
         let s := match hb with
           | some (uid, _) => setBox uid (boxKey h) (writeFronts ((hs.filter fun x => x.2.2 == .inside).map fun x =>
               (x.2.1, laneBytes g p.wb o.vt n x.1))) s
           | none => s
         .done (setKr p.gid o.kr (maskOf ((hs.filter fun x => x.2.2 == .outside).map Prod.fst)) s))

/-- Box atomics of lanes in ascending order at the vault bank (R255). -/
def boxAtoms (p : Part) (g : Group) (uid key op n : Nat) (vt : BitVec 6) :
    List (Nat × Nat × BoxHit) → State → List (Nat × List Byte) × State
  | [], s => ([], s)
  | x :: r, s =>
    let opd := (regsFrom vt (if op = 9 then 2 * sizeRegs n else sizeRegs n)).flatMap fun q =>
      toBytes 4 (laneVal g p.wb q x.1).toNat
    let old := match Cells.get? uid s.clus with
      | some u => (match Cells.get? key u.boxes with
        | some b => memBytes b.front x.2.1 n
        | none => List.replicate n 0)
      | none => List.replicate n 0
    let y := boxAtoms p g uid key op n vt r (setBox uid key (writeFront x.2.1 (atomNew op n old opd)) s)
    ((x.1, old) :: y.1, y.2)

/-- batom (R255): OP 13 acts on 128 bits, the others on 32. -/
def execBatom (o : OpMA) (s : State) : Host.Outcome State Fault Refusal :=
  onLanes s o.pk fun pid p g act =>
    let n := if o.op = 13 then 16 else 4
    let h := sVal p.thr (boxReg o.sh)
    (gateL p g act [src1 o.va o.wa, ⟨regsFrom o.vt (if o.op = 9 then 2 else sizeRegs n), o.wt⟩] [⟨boxReg o.sh, false⟩]
      [o.pk.toNat] (regsFrom o.vt (sizeRegs n)) []).run s
      (if !roomFor s (.part pid) true true then .wait s .issueLimit
       else
        let hb := heldBox s p.gid g h
        let hs := boxLanes g p act o.va (hb.map Prod.snd) true true false n
        match boxLaneTrap true hs with
        | some t => .trap s t
        | none =>
          let pl := placeOf s (.part pid)
          let s := countProf pl.core pl.ctx 8 1 s
          let uid := match hb with
            | some (u, _) => u
            | none => 0
          let y := boxAtoms p g uid (boxKey h) o.op.toNat n o.vt hs s
          .done (landLanes (.part pid) p g pl.ctx o.vt n y.1 true true y.2))

/-! ### Box management -/

/-- Granules used and slots taken in the vault of a core (R12): the boxes of every cluster that lies on it. -/
def vaultBoxes (s : State) (core : Nat) : List (Nat × Box) :=
  s.clus.flatMap fun u => match ctxOf? s u.2.ctx with
    | some c => (u.2.boxes.filter fun b =>
        u.2.res != .saved && rankCore c.lr.shape u.2.die u.2.qx u.2.qy (b.1 / 1024) == core).map fun b => (b.1 % 1024, b.2)
    | none => []

/-- The later of two generations of a slot, 0 where it has had none: they run from 1 to 0xFFFF and round again (R258). -/
def laterGen (a b : Nat) : Nat :=
  if b = 0 then a else if a = 0 then b else if (a + 0xFFFF - b) % 0xFFFF < 0x8000 then a else b
/-- The counts of the vault slots that a cluster has used are joined to those of a core that each of its teams comes to (R258; DEDUCED,
log entry 80). -/
def mergeGens (u : Cluster) (core : Nat → Option Nat) (s : State) : State :=
  u.gens.foldl (fun s g => match core (g.1 / 1024) with
    | some c => setCore c (fun k =>
        { k with gens := Cells.insert (g.1 % 1024) (laterGen g.2 (Cells.get 0 (g.1 % 1024) k.gens)) k.gens }) s
    | none => s) s
/-- bxnew (R258). The generation goes on from the last one of the vault's slot (DEDUCED, log entry 80). -/
def execBxnew (o : OpBxnew) (s : State) : Host.Outcome State Fault Refusal :=
  onPart s fun pid p g =>
    (gateP p g 0 [] [⟨o.sa, false⟩] [] [] [o.sd]).run s
      (let z := (sVal p.thr o.sa).toNat
       if z = 0 ∨ 1048576 < z ∨ z % 4096 ≠ 0 then .trap s (boxTrap 0x05)
       else match partUnit s g with
        | none => .done (writeS (.part pid) o.sd 0 s)
        | some (uid, t, u) =>
          let gran := z / 4096
          let charge := if o.f then 2 * gran else gran
          let used := vaultBoxes s t.core
          let quota := match ctxOf? s t.ctx with
            | some c => c.lr.boxq
            | none => 0
          let mine := ((u.boxes.filter fun b => b.2.tid == g.tid).map fun b => b.2.charge).sum
          let free := (List.range 1024).filter fun k => !used.any fun b => b.1 == k
          if free = [] ∨ 1024 < (used.map fun b => b.2.charge).sum + charge ∨ quota < mine + charge then
            .done (writeS (.part pid) o.sd 0 s)
          else
            let key := t.rank * 1024 + anyOf 1 s.tick free
            let gen := Cells.get 0 (key % 1024) (coreOf s t.core).gens % 0xFFFF + 1
            let b : Box := { gen := gen, gran := gran, escrow := o.f, holder := some p.gid, tid := g.tid, front := [],
                             back := [], frontPoison := [], backPoison := [], lends := [] }
            .done (writeS (.part pid) o.sd (boxHandle key b)
              (setCore t.core (fun k => { k with gens := Cells.insert (key % 1024) gen k.gens })
                (setCluster uid (fun u => { u with
                                            boxes := Cells.insert key b u.boxes
                                            gens := Cells.insert key gen u.gens }) s))))

/-- bxfree (R224): it waits for every lend, and every engine operation under it, to end. -/
def execBxfree (o : OpXa) (s : State) : Host.Outcome State Fault Refusal :=
  onPart s fun _ p g =>
    (gateP p g 0 [] [⟨o.sa, false⟩] [] [] []).run s
      (match heldBox s p.gid g (sVal p.thr o.sa) with
       | none => .trap s (boxTrap 0x01)
       | some (uid, b) =>
         if !b.lends.isEmpty || boxInUse s uid (boxKey (sVal p.thr o.sa)) then .wait s .boxDrain else .done (eraseBox uid (boxKey (sVal p.thr o.sa)) s))

/-- The group that a target word names in a cluster (R259); none for a word with one of the bits 63:8 set, as for a target outside
the cluster (DESIGN CHOICE, log entry 87). -/
def giveTarget (s : State) (uid : Nat) (w : DWord) : Option (Nat × Group) :=
  if w.extractLsb' 8 56 ≠ 0 then none
  else s.groups.find? fun h => h.2.grp == (w.extractLsb' 4 4).toNat && (match Cells.get? h.2.tid s.teams with
    | some t => t.uid == uid && t.rank == (w.extractLsb' 0 4).toNat
    | none => false)

/-- bxgive (R224, R259): BOX 0x07 comes before BOX 0x03 (DESIGN CHOICE, log entry 87). -/
def execBxgive (o : OpXab) (s : State) : Host.Outcome State Fault Refusal :=
  onPart s fun pid p g =>
    (gateP p g 0 [] [⟨o.sa, false⟩, ⟨o.sb, false⟩] [] [] []).run s
      (let h := sVal p.thr o.sa
       match heldBox s p.gid g h with
       | none => .trap s (boxTrap 0x01)
       | some (uid, b) => match giveTarget s uid (sVal p.thr o.sb) with
         | none => .trap s (boxTrap 0x07)
         | some (gid, rcv) =>
           if !b.lends.isEmpty then .trap s (boxTrap 0x03)
           else if 16 ≤ rcv.takeq.length then .wait s (.monitor (.giveQueue gid))
           else
             let s := releaseAt (placeOf s (.part pid)) 2 s
             if rcv.exited then .done (eraseBox uid (boxKey h) s)
             else .done (setGroup gid (fun q => { q with takeq := q.takeq ++ [h.extractLsb' 0 32] })
               (wakeBoxes (setBox uid (boxKey h) (fun b => { b with holder := none }) s))))

/-- bxtake (R224, R259). -/
def execBxtake (o : OpXd) (s : State) : Host.Outcome State Fault Refusal :=
  onPart s fun pid p g =>
    (gateP p g 0 [] [] [] [] [o.sd]).run s
      (match g.takeq, partUnit s g with
       | h :: r, some (uid, _, _) =>
         let s := acquireAt (placeOf s (.part pid)) 2 s
         let s := setBox uid (boxKey (h.setWidth 64)) (fun b => { b with holder := some p.gid }) s
         .done (writeS (.part pid) o.sd (h.setWidth 64) (setGroup p.gid (fun q => { q with takeq := r }) s))
       | _, _ => if o.f then .done (writeS (.part pid) o.sd 0 s) else .wait s (.monitor .takeQueue))

/-- bxlend (R225, R260). -/
def execBxlend (o : OpBxlend) (s : State) : Host.Outcome State Fault Refusal :=
  onPart s fun pid p g =>
    (gateP p g 0 [] [⟨o.sa, false⟩, ⟨o.sb, false⟩] [] [] []).run s
      (let h := sVal p.thr o.sa
       match heldBox s p.gid g h, partUnit s g with
       | some (uid, b), some (_, t, u) =>
         let quads := match ctxOf? s u.ctx with
           | some c => rectQuads c.lr.shape u.die u.qx u.qy
           | none => []
         (match quads[(sVal p.thr o.sb).toNat]? with
          | none => .trap s (boxTrap 0x07)
          | some q =>
            if b.lends.any fun l => l.quad == q then .trap s (boxTrap 0x08)
            else if chitRange t &&& (1#64 <<< o.chit.toNat) = 0 then .trap s (boxTrap 0x09)
            else
              let s := releaseAt (placeOf s (.part pid)) 2 s
              .done (setBox uid (boxKey h) (fun b => { b with lends := b.lends ++ [⟨q, g.tid, o.chit.toNat, false⟩] }) s))
       | _, _ => .trap s (boxTrap 0x01))

/-- The value of bxinfo (R261). -/
def boxInfo (gid : Nat) (b : Box) : DWord :=
  BitVec.ofNat 64 (b.gran + (if b.escrow then 2 ^ 9 else 0) + (if b.holder = some gid then 2 ^ 10 else 0) +
    b.lends.length * 2 ^ 11 + 2 ^ 13)
/-- bxinfo (R261): it never faults. -/
def execBxinfo (o : OpXad) (s : State) : Host.Outcome State Fault Refusal :=
  onPart s fun pid p g =>
    (gateP p g 0 [] [⟨o.sa, false⟩] [] [] [o.sd]).run s
      (.done (writeS (.part pid) o.sd (match partUnit s g with
        | some (_, _, u) => (match boxAt u (sVal p.thr o.sa) with
          | some b => boxInfo p.gid b
          | none => 0)
        | none => 0) s))

/-- Every lend of a box is recalled: while the recall waits for engines that are at work, no further pass, drain or `mscale.row`
under these lends is granted or started (R121, R125). -/
def recallLends (uid key : Nat) (s : State) : State :=
  setBox uid key (fun b => { b with lends := b.lends.map fun l => { l with recalled := true } }) s
/-- bxrecall (R225, R260): once the engines have done with the box, every lend ends with its chit set; an acquire at cluster
scope. -/
def execBxrecall (o : OpXa) (s : State) : Host.Outcome State Fault Refusal :=
  onPart s fun pid p g =>
    (gateP p g 0 [] [⟨o.sa, false⟩] [] [] []).run s
      (match heldBox s p.gid g (sVal p.thr o.sa) with
       | none => .trap s (boxTrap 0x01)
       | some (uid, b) =>
         if b.lends.isEmpty then .done s
         else if boxInUse s uid (boxKey (sVal p.thr o.sa)) then .wait (recallLends uid (boxKey (sVal p.thr o.sa)) s) .boxDrain
         else .done (acquireAt (placeOf s (.part pid)) 2 (endLends uid (boxKey (sVal p.thr o.sa)) true s)))

/-! ### Chits -/

/-- A unit's teams are on their cores: it runs there, or is being saved from there. -/
def onCores (s : State) (uid : Nat) : Bool :=
  match Cells.get? uid s.clus with
  | some u => u.res == .resident || u.res == .saving
  | none => false
/-- The teams whose chits an agent reaches: for a sequencer context those on its quad's first core (R26, R269). -/
def chitTeams (s : State) (a : Agent) : List (Nat × Team) :=
  match a with
  | .none => []
  | .part _ => match agentTeam s a with
    | some t => [t]
    | none => []
  | .seq sc => match Cells.get? sc s.seqs with
    | some q =>
      let saved := decide (4096 ≤ sc)
      let whole := ((ctxOf? s q.ctx).map fun k => k.lr.coop).getD false
      s.teams.filter fun t => t.2.ctx == q.ctx && t.2.core == quadCore (seqQuad s sc) && !t.2.exited &&
        (if saved then t.2.uid == q.uid || whole else onCores s t.2.uid)
    | none => []
/-- The chit range of an agent. -/
def agentRange (s : State) (a : Agent) : DWord := (chitTeams s a).foldl (fun m t => m ||| chitRange t.2) 0
/-- Ready chits of an agent's range (R26). -/
def agentChr (s : State) (a : Agent) : DWord := (chitTeams s a).foldl (fun m t => m ||| (t.2.chr &&& chitRange t.2)) 0
/-- Chits of an agent's range that completed with error (R26). -/
def agentCherr (s : State) (a : Agent) : DWord := (chitTeams s a).foldl (fun m t => m ||| (t.2.cherr &&& chitRange t.2)) 0
/-- Change the chit bits of every team that an agent reaches. -/
def setChits (a : Agent) (f : Team → Team) (s : State) : State := (chitTeams s a).foldl (fun s t => setTeam t.1 f s) s

/-- chwa (R269). -/
def execChwa (o : OpUad) (s : State) : Host.Outcome State Fault Refusal :=
  onAgent s fun a t =>
    (gateS t [⟨o.sa, o.wsa⟩] [o.sd]).run s
      (let m := sVal t o.sa &&& agentRange s a
       if m = 0 then .done (writeS a o.sd (BitVec.allOnes 64) s)
       else
        let r := m &&& agentChr s a
        if r = 0 then .wait s (.monitor (.chits false m))
        else .done (writeS a o.sd (BitVec.ofNat 64 (lowLane r)) (acquireAt (placeOf s a) 2 s)))
/-- chwl (R269). -/
def execChwl (o : OpUad) (s : State) : Host.Outcome State Fault Refusal :=
  onAgent s fun a t =>
    (gateS t [⟨o.sa, o.wsa⟩] [o.sd]).run s
      (let m := sVal t o.sa &&& agentRange s a
       if m &&& ~~~agentChr s a = 0 then
        .done (writeS a o.sd (m &&& agentCherr s a) (acquireAt (placeOf s a) 2 s))
       else .wait s (.monitor (.chits true m)))
/-- chff (R269). -/
def execChff (o : OpUad) (s : State) : Host.Outcome State Fault Refusal :=
  onAgent s fun a t =>
    (gateS t [⟨o.sa, o.wsa⟩] [o.sd]).run s
      (let r := sVal t o.sa &&& agentRange s a &&& agentChr s a
       if r = 0 then .done (writeS a o.sd (BitVec.allOnes 64) s)
       else .done (writeS a o.sd (BitVec.ofNat 64 (lowLane r)) (acquireAt (placeOf s a) 2 s)))
/-- chclr (R269). -/
def execChclr (o : OpUa) (s : State) : Host.Outcome State Fault Refusal :=
  onAgent s fun a t =>
    (gateS t [⟨o.sa, o.wsa⟩] []).run s
      (let m := sVal t o.sa
       .done (setChits a (fun q =>
         { q with chr := q.chr &&& ~~~(m &&& chitRange q), cherr := q.cherr &&& ~~~(m &&& chitRange q) }) s))
/-- chget (R269). -/
def execChget (o : OpChget) (s : State) : Host.Outcome State Fault Refusal :=
  onAgent s fun a t =>
    (gateS t [⟨o.sa, o.wsa⟩] [o.sd]).run s
      (.done (writeS a o.sd (sVal t o.sa &&& (if o.err then agentCherr s a else agentChr s a)) s))
/-- chset (R269). -/
def execChset (o : OpUa) (s : State) : Host.Outcome State Fault Refusal :=
  onAgent s fun a t =>
    (gateS t [⟨o.sa, o.wsa⟩] []).run s
      (.done (setChits a (fun q => { q with chr := q.chr ||| (sVal t o.sa &&& chitRange q) }) s))

end Sys2Proof.Machine
end

