-- ==== Sys2Proof/Machine/Flags.lean ====
section
/-!
DEFINITION. Flags: the sticky register AFL and the record OVFINFO (R27, R103 to R105, R115), and the lane values that each
form of the lane majors computes with the flags each sets (R141 to R163).
-/

namespace Sys2Proof.Machine

open Sys2Proof.Num (Flags fNone fSAT)

/-! ### Sticky registers -/

/-- Merge flags into a group's AFL in one OR (R104). -/
def mergeAfl (f : Flags) (g : Group) : Group := { g with afl := g.afl ||| f }
/-- Merge flags into a sequencer context's AFL. -/
def mergeSeqAfl (f : Flags) (q : SeqCtx) : SeqCtx := { q with afl := q.afl ||| f }
/-- OVFINFO after a tile with overflowing patches: the first is recorded while VALID is 0 (R27, R115). -/
def recordOvf (ovf : DWord) (patch excess : Nat) (tensor : BitVec 16) : DWord :=
  if ovf.getLsbD 16 then ovf
  else BitVec.ofNat 64 (patch % 16 + excess % 512 * 2 ^ 4 + 2 ^ 16 + tensor.toNat * 2 ^ 32)
/-- The bits of OVFINFO that `sset` writes (R27). -/
def ovfMask : DWord := 0x0000FFFF00011FFF

/-! ### Integer values -/

/-- A value without flags. -/
def quiet (x : Word) : Word × Flags := (x, fNone)
/-- `iaddsat.i32` (R141). -/
def addSatI (a b : Word) : Word × Flags :=
  let x := a.toInt + b.toInt
  if x < -2147483648 then (0x80000000, fSAT) else if 2147483647 < x then (0x7FFFFFFF, fSAT) else (BitVec.ofInt 32 x, fNone)
/-- `iaddsat.n32` (R141). -/
def addSatN (a b : Word) : Word × Flags :=
  if 4294967295 < a.toNat + b.toNat then (0xFFFFFFFF, fSAT) else (a + b, fNone)
/-- Bits 63:32 of the signed product (R141). -/
def mulHiI (a b : Word) : Word := BitVec.ofInt 32 (a.toInt * b.toInt / 2 ^ 32)
/-- Bits 63:32 of the unsigned product (R141). -/
def mulHiN (a b : Word) : Word := BitVec.ofNat 32 (a.toNat * b.toNat / 2 ^ 32)
/-- Lesser and greater as I32 or N32 (R142). -/
def minI (a b : Word) : Word := if b.slt a then b else a
def minN (a b : Word) : Word := if b.ult a then b else a
def maxI (a b : Word) : Word := if a.slt b then b else a
def maxN (a b : Word) : Word := if a.ult b then b else a
/-- Shifts by a count modulo 32 (R74, R143). -/
def shlW (a : Word) (c : Nat) : Word := a <<< (c % 32)
def shrW (a : Word) (c : Nat) : Word := a >>> (c % 32)
def sarW (a : Word) (c : Nat) : Word := a.sshiftRight (c % 32)
def rotlW (a : Word) (c : Nat) : Word := a.rotateLeft (c % 32)
/-- Leading zero bits; 32 for 0 (R143). -/
def clzW (a : Word) : Word := BitVec.ofNat 32 (32 - Num.bitLen a.toNat)
/-- One bits (R143). -/
def popcW (a : Word) : Word := BitVec.ofNat 32 ((List.range 32).filter fun i => a.getLsbD i).length
/-- Bits reversed (R143). -/
def brevW (a : Word) : Word := BitVec.ofNat 32 ((List.range 32).foldl (fun n i => n * 2 + (if a.getLsbD i then 1 else 0)) 0)
/-- Position and length of a field (R144). -/
def bfPos (b : Word) : Nat := b.toNat % 32
def bfLen (b : Word) : Nat := min (b.toNat / 256 % 64) (32 - bfPos b)
/-- `bfx.n32` (R144). -/
def bfxN (a b : Word) : Word := BitVec.ofNat 32 (a.toNat / 2 ^ bfPos b % 2 ^ bfLen b)
/-- `bfx.i32` (R144). -/
def bfxI (a b : Word) : Word :=
  let x := a.toNat / 2 ^ bfPos b % 2 ^ bfLen b
  if 0 < bfLen b ∧ 2 ^ (bfLen b - 1) ≤ x then BitVec.ofInt 32 ((x : Int) - 2 ^ bfLen b) else BitVec.ofNat 32 x
/-- `bfi` (R144). -/
def bfiW (d a b : Word) : Word :=
  let m : Word := BitVec.ofNat 32 ((2 ^ bfLen b - 1) * 2 ^ bfPos b)
  (d &&& ~~~m) ||| (a <<< bfPos b &&& m)
/-- A condition of `icmp`: equality, then less, in the order eq ne lt le gt ge (R148). -/
def condHolds (c : BitVec 3) (eq lt : Bool) : Bool :=
  match c.toNat with
  | 0 => eq
  | 1 => !eq
  | 2 => lt
  | 3 => lt || eq
  | 4 => !(lt || eq)
  | _ => !lt
/-- A shift kind of `shfi` (R150). -/
def shiftKind (k : BitVec 2) (a : Word) (c : Nat) : Word :=
  match k.toNat with
  | 0 => shlW a c
  | 1 => shrW a c
  | 2 => sarW a c
  | _ => rotlW a c

/-! ### Floating-point values -/

/-- A rounded code as a lane word. -/
def codeW (r : Nat × Flags) : Word × Flags := (BitVec.ofNat 32 r.1, r.2)
/-- A lane word as an F32 value. -/
def f32 (a : Word) : Num.FVal := Num.decodeF .f32 a.toNat
/-- `fadd`, `fsub`, `fmul`, `fdiv` (R152). -/
def faddW (a b : Word) : Word × Flags := codeW (Num.addV .f32 (f32 a) (f32 b))
def fsubW (a b : Word) : Word × Flags := codeW (Num.addV .f32 (f32 a) (f32 b).negate)
def fmulW (a b : Word) : Word × Flags := codeW (Num.mulV .f32 (f32 a) (f32 b))
def fdivW (a b : Word) : Word × Flags := codeW (Num.divV .f32 (f32 a) (f32 b))
/-- `fmin` to `fmaxn` (R90, R152). -/
def fminmaxW (max num : Bool) (a b : Word) : Word × Flags := codeW (Num.minMax .f32 max num a.toNat b.toNat)
/-- `ffma` and `fnma` (R153). -/
def ffmaW (d a b : Word) : Word × Flags := codeW (Num.fmaV .f32 (f32 a) (f32 b) (f32 d))
def fnmaW (d a b : Word) : Word × Flags := codeW (Num.fmaV .f32 (f32 a).negate (f32 b) (f32 d))
/-- Element e of a packed register (R69, R153). -/
def elem (e : Nat) (a : Word) : Nat := a.toNat / 2 ^ (16 * e) % 2 ^ 16
/-- An operation on the two elements of a packed register, with the OR of their flags (R103). -/
def packed (f : Nat → Nat × Flags) : Word × Flags :=
  (BitVec.ofNat 32 ((f 0).1 % 2 ^ 16 + (f 1).1 % 2 ^ 16 * 2 ^ 16), (f 0).2 ||| (f 1).2)
/-- `pfma` (R153). -/
def pfmaW (t : Num.Fmt) (d a b : Word) : Word × Flags :=
  packed fun e => Num.fmaV t (Num.decodeF t (elem e a)) (Num.decodeF t (elem e b)) (Num.decodeF t (elem e d))
/-- `padd` and `pmul` (R160). -/
def paddW (t : Num.Fmt) (a b : Word) : Word × Flags :=
  packed fun e => Num.addV t (Num.decodeF t (elem e a)) (Num.decodeF t (elem e b))
def pmulW (t : Num.Fmt) (a b : Word) : Word × Flags :=
  packed fun e => Num.mulV t (Num.decodeF t (elem e a)) (Num.decodeF t (elem e b))
/-- `pk2h` (R161). -/
def pk2hW (a b : Word) : Word := (b <<< 16) ||| (a &&& 0xFFFF)
/-- `fsqrt`, `frcp`, `frsq` (R154). -/
def fsqrtW (a : Word) : Word × Flags := codeW (Num.sqrtV .f32 (f32 a))
def frcpW (a : Word) : Word × Flags := codeW (Num.rcpV .f32 (f32 a))
def frsqW (a : Word) : Word × Flags := codeW (Num.rsqV .f32 (f32 a))
/-- `fneg` and `fabs` (R154). -/
def fnegW (a : Word) : Word := if (f32 a).isNaN then 0x7FC00000 else a ^^^ 0x80000000
def fabsW (a : Word) : Word := if (f32 a).isNaN then 0x7FC00000 else a &&& 0x7FFFFFFF
/-- `fclass` (R155). -/
def fclassW (a : Word) : Word := 1#32 <<< Num.fclass a
/-- The modes of `fround` (R156). -/
def froundMode (m : BitVec 6) : Num.Mode :=
  match m.toNat with
  | 0 => .rne
  | 1 => .rz
  | 2 => .rdn
  | _ => .rup
/-- `fscale` (R162). -/
def fscaleW (a b : Word) : Word × Flags := codeW (Num.scaleV .f32 (f32 a) b.toInt)

/-! ### Values across lanes -/

/-- Combine neighbours of a list: one level of the tree of R92, with the OR of the flags. -/
def pairUp (op : Word → Word → Word × Flags) : List Word → List Word × Flags
  | a :: b :: r => let x := op a b; let y := pairUp op r; (x.1 :: y.1, x.2 ||| y.2)
  | l => (l, fNone)
/-- The fixed tree over 2^n leaves (R92). -/
def treeReduce (op : Word → Word → Word × Flags) : Nat → List Word → Word × Flags
  | 0, l => (l.headD 0, fNone)
  | n + 1, l => let x := pairUp op l; let y := treeReduce op n x.1; (y.1, x.2 ||| y.2)
/-- The operations of `redux` and the scans (R174). -/
def reduxOp (op : Nat) : Word → Word → Word × Flags :=
  match op with
  | 0 => fun a b => quiet (a + b)
  | 1 => fun a b => quiet (minI a b)
  | 2 => fun a b => quiet (minN a b)
  | 3 => fun a b => quiet (maxI a b)
  | 4 => fun a b => quiet (maxN a b)
  | 5 => fun a b => quiet (a &&& b)
  | 6 => fun a b => quiet (a ||| b)
  | 7 => fun a b => quiet (a ^^^ b)
  | 8 => faddW
  | 9 => fminmaxW false false
  | _ => fminmaxW true false
/-- Their identities (R93). -/
def reduxId (op : Nat) : Word :=
  match op with
  | 1 => 0x7FFFFFFF
  | 2 => 0xFFFFFFFF
  | 3 => 0x80000000
  | 5 => 0xFFFFFFFF
  | 8 => 0x80000000
  | 9 => 0x7F800000
  | 10 => 0xFF800000
  | _ => 0
/-- The reduction over the W leaves of which those that meet a condition count (R92, R94). -/
def reduceLanes (op w : Nat) (v : Nat → Word) (act : Nat → Bool) : Word × Flags :=
  treeReduce (reduxOp op) (Num.bitLen w - 1) ((List.range w).map fun j => if act j then v j else reduxId op)

/-- The rank of a code among the values of R91: for the maximum NaN is highest, for the minimum lowest. -/
def rankKey (t : Num.Fmt) (max : Bool) (code : Nat) : Int :=
  if (Num.decodeF t code).isNaN then (if max then 2 ^ 40 else -(2 ^ 40)) else Num.totalKey t (code % 2 ^ t.width)
/-- Lane a ranks before lane b (R91, R172). -/
def ranksBefore (t : Num.Fmt) (max : Bool) (v : Nat → Nat) (a b : Nat) : Bool :=
  let x := rankKey t max (v a)
  let y := rankKey t max (v b)
  if max then decide (y < x) || (x == y && decide (a < b)) else decide (x < y) || (x == y && decide (a < b))
/-- The lanes of a set in ranking order (R172): each stands after those that rank before it. -/
def ranked (t : Num.Fmt) (max : Bool) (v : Nat → Nat) (ls : List Nat) : List Nat :=
  (List.range ls.length).filterMap fun i =>
    ls.find? fun l => decide ((ls.filter fun m => ranksBefore t max v m l).length = i)
/-- INV where a lane of a set holds a signalling NaN (R82). -/
def snanLanes (t : Num.Fmt) (v : Nat → Nat) (ls : List Nat) : Flags :=
  ls.foldl (fun f l => f ||| Num.snanFlag (Num.decodeF t (v l))) fNone
/-- The block exponent of a set of terms (R96). -/
def blockExp (v : Nat → Word) (ls : List Nat) : Int :=
  ls.foldl (fun e l =>
    match f32 (v l) with
    | .fin _ m d => if m = 0 then e else max e (Num.termExp m d)
    | _ => e) (-126)

end Sys2Proof.Machine
end

