-- ==== Sys2Proof/Machine/Split.lean ====
section
/-!
DEFINITION. The arithmetic of the split matrix path (04_split_path.md): body codes and scales (R71 to R73), the tile layout
(R107 to R112), the encoder (R113 to R116), the decoder of `mdec` (R192), and the step sum (R117 to R120).
-/

namespace Sys2Proof.Num

/-! ### Body codes and scales -/

/-- Magnitudes of the body codes in halves: F4 (true) R71, F3 R72. -/
def bodyHalf (f4 : Bool) (k : Nat) : Nat :=
  if f4 then [0, 1, 2, 3, 4, 6, 8, 12].getD k 0 else [0, 2, 4, 8].getD k 0
/-- Number of magnitudes. -/
def bodyCount (f4 : Bool) : Nat := if f4 then 8 else 4
/-- bodymax (R72). -/
def bodyMax (f4 : Bool) : Nat := if f4 then 6 else 4
/-- An SE35 value in units of 2^-7 (R73). -/
def se35 (code : Nat) : Nat := if code < 32 then code else (32 + code % 32) * 2 ^ (code / 32 - 1)
/-- The code of the magnitude num / den rounded to nearest, ties to the even code, saturating (R77). -/
def roundBody (f4 : Bool) (num den : Nat) : Nat :=
  ((List.range (bodyCount f4 - 1)).find? fun k =>
    let mid := (bodyHalf f4 k + bodyHalf f4 (k + 1)) * den
    decide (4 * num < mid) || (4 * num == mid && k % 2 == 0)).getD (bodyCount f4 - 1)

/-! ### Tiles as bytes -/

/-- What the encoder is asked for (R113): format, threshold, capacity, spills, limit, promotion, tensor id. -/
structure EncPar where
  f4 : Bool
  tau : Nat
  cap : Nat
  spill : Nat
  ulim : Nat
  adapt : Bool
  tensor : Nat
  deriving DecidableEq, Repr

/-- Body planes of a format (R109). -/
def planes (f4 : Bool) : Nat := if f4 then 4 else 3
/-- Bytes of a tile (R109). -/
def tileBytes (f4 : Bool) (cap : Nat) : Nat := 832 + 512 * planes f4 + 64 * cap
/-- Bytes that a pass reads of a tile: everything before the outlier lists (R123), with the underflow counts among them (DESIGN
CHOICE, log entry 75). -/
def bodyBytes (f4 : Bool) : Nat := 832 + 512 * planes f4
/-- A tile's place for its partner (R185). -/
def tileSpan (f4 : Bool) (cap : Nat) : Nat := (tileBytes f4 cap + 127) / 128 * 128

/-- The header of a tile (R110). -/
structure TileHead where
  f4 : Bool
  cap : Nat
  tensor : Nat
  beta : Nat
  nout : List Nat
  deriving DecidableEq, Repr

/-- A BF16 code that is a positive power of two (R110). -/
def betaOk (b : Nat) : Bool :=
  decide (b < 0x7F80) && (if b < 0x80 then [1, 2, 4, 8, 16, 32, 64].contains b else b % 128 == 0)
/-- A header that passes the checks of R121. -/
def readHead (b : Array Byte) : Option TileHead :=
  let at_ (i : Nat) : Nat := (b.getD i 0).toNat
  let bits (lo n : Nat) : Nat :=
    ((at_ (lo / 8) + at_ (lo / 8 + 1) * 2 ^ 8 + at_ (lo / 8 + 2) * 2 ^ 16) / 2 ^ (lo % 8)) % 2 ^ n
  let cap := bits 24 5
  let nout := (List.range 16).map fun p => at_ (32 + p)
  if bits 0 16 = 0x5A53 ∧ bits 16 4 ≤ 1 ∧ [0, 1, 2, 4, 8, 16].contains cap ∧ nout.all (fun n => decide (n ≤ cap)) ∧
      betaOk (bits 56 16) then
    some ⟨bits 16 4 == 1, cap, bits 40 16, bits 56 16, nout⟩
  else none

/-! ### Element values -/

/-- The exact value of an element: finite, infinite, or NaN (R108). -/
inductive EVal where
  | fin (v : Dy)
  | inf (neg : Bool)
  | nan (signalling : Bool)
  deriving DecidableEq, Repr

/-- The value of a BF16 code. -/
def evalBf16 (c : Nat) : EVal :=
  match decodeF .bf16 c with
  | .nan s => .nan s
  | .inf n => .inf n
  | .fin n m e => .fin (.ofFin n m e)
/-- Terms of one element add (R108). Records of +∞ and -∞ at one position make it a quiet NaN, and this addition sets no flag
(DESIGN CHOICE, log entry 72). -/
def EVal.plus : EVal → EVal → EVal
  | .nan s, .nan t => .nan (s || t)
  | .nan s, _ => .nan s
  | _, .nan t => .nan t
  | .inf p, .inf q => if p = q then .inf p else .nan false
  | .inf p, .fin _ => .inf p
  | .fin _, .inf q => .inf q
  | .fin a, .fin b => .fin (a.add b)

/-- The body value of an element (R108). -/
def bodyValue (h : TileHead) (b : Array Byte) (r c : Nat) : Dy :=
  let bit (p : Nat) : Nat := if (b.getD (832 + 512 * p + 8 * r + c / 8) 0).getLsbD (c % 8) then 1 else 0
  let n := planes h.f4
  let mag := (List.range (n - 1)).foldl (fun m p => m + bit p * 2 ^ p) 0
  let half := bodyHalf h.f4 mag * se35 (b.getD (64 + 8 * r + c / 8) 0).toNat
  let beta := match decodeF .bf16 h.beta with
    | .fin _ m e => (m, e)
    | _ => (0, 0)
  Dy.ofFin (bit (n - 1) == 1) (half * beta.1) (beta.2 - 8)
/-- The outlier records of each patch (R109, R123). -/
def patchRecs : List Nat → List (BitVec 32) → List (List (BitVec 32))
  | [], _ => []
  | n :: r, rs => rs.take n :: patchRecs r (rs.drop n)
/-- Position of a record within its patch, and its value (R111). -/
def recAt (r : BitVec 32) : Nat × Nat × EVal :=
  ((r.extractLsb' 20 4).toNat, (r.extractLsb' 16 4).toNat, evalBf16 (r.extractLsb' 0 16).toNat)
/-- The elements of a tile, by row (R108), from its header, its bytes and its outlier records. -/
def tileValues (h : TileHead) (b : Array Byte) (recs : List (BitVec 32)) : List (List EVal) :=
  let per := (patchRecs h.nout recs).map fun l => l.map recAt
  (List.range 64).map fun r => (List.range 64).map fun c =>
    ((per.getD (r / 16 * 4 + c / 16) []).filter fun q => q.1 == r % 16 && q.2.1 == c % 16).foldl
      (fun v q => v.plus q.2.2) (.fin (bodyValue h b r c))
/-- The records that the lists of a tile hold, in order (R109). -/
def tileRecs (h : TileHead) (b : Array Byte) : List (BitVec 32) :=
  (List.range h.nout.sum).map fun i =>
    let at_ (j : Nat) : Nat := (b.getD (bodyBytes h.f4 + 4 * i + j) 0).toNat
    BitVec.ofNat 32 (at_ 0 + at_ 1 * 2 ^ 8 + at_ 2 * 2 ^ 16 + at_ 3 * 2 ^ 24)

/-- Round an element value to BF16 (R192): an exact zero gives +0 (DESIGN CHOICE, log entry 89). -/
def roundElem (v : EVal) : Nat × Flags :=
  match v with
  | .fin d => d.round .bf16 .rne
  | .inf n => infR .bf16 n
  | .nan s => nanR .bf16 (if s then fINV else fNone)
/-- The bytes of a decoded tile and the flags INV, OVF, UNF and INX (R192). -/
def decodeTile (h : TileHead) (b : Array Byte) : List Byte × Flags :=
  let vs := (tileValues h b (tileRecs h b)).flatten.map roundElem
  (vs.flatMap fun v => Machine.toBytes 2 v.1, vs.foldl (fun f v => f ||| v.2) fNone)

/-! ### The encoder -/

/-- The magnitude of a finite BF16 code in units of 2^-133. -/
def bfUnits (c : Nat) : Nat :=
  let x := c % 0x8000
  if x / 128 = 0 then x else (128 + x % 128) * 2 ^ (x / 128 - 1)
/-- The code is finite. -/
def bfFinite (c : Nat) : Bool := decide (c % 0x8000 < 0x7F80)
/-- The code is a NaN. -/
def bfNan (c : Nat) : Bool := decide (0x7F80 < c % 0x8000)
/-- A candidate for the outlier lists (R114): not finite, or above the threshold. -/
def isCand (tau c : Nat) : Bool :=
  !bfFinite c || (bfFinite tau && decide (bfUnits tau < bfUnits c))
/-- log2 of β over 2^-133 (R114). -/
def betaLog (f4 : Bool) (m : Nat) : Nat :=
  if m = 0 then 133 else ((List.range 512).find? fun j => decide (m ≤ 2 ^ j * bodyMax f4 * 16)).getD 511
/-- The BF16 code of 2^(j - 133). -/
def betaCode (j : Nat) : Nat := if j < 7 then 2 ^ j else (j - 6) * 128

/-- An element of a patch: its index in the tile and its code. -/
structure PElem where
  idx : Nat
  code : Nat
  deriving DecidableEq, Repr
/-- The rank order of candidates (R114): non-finite ones by index, then finite ones by magnitude, ties by index. -/
def rankLe (a b : PElem) : Bool :=
  if bfFinite a.code then
    bfFinite b.code && (decide (bfUnits b.code < bfUnits a.code) ||
      (bfUnits a.code == bfUnits b.code && decide (a.idx < b.idx)))
  else bfFinite b.code || decide (a.idx < b.idx)
/-- Insert in rank order. -/
def rankInsert (e : PElem) : List PElem → List PElem
  | [] => [e]
  | x :: r => if rankLe e x then e :: x :: r else x :: rankInsert e r
/-- The candidates of a patch in rank order. -/
def rankSort (l : List PElem) : List PElem := l.foldr rankInsert []

/-- A quantised block: scale code, body codes by column, underflow count (R114). -/
structure QBlock where
  scale : Nat
  codes : List Nat
  ucount : Nat
  deriving DecidableEq, Repr
/-- quantise_block (R114): the eight elements of a block, those in an outlier list named by index. -/
def quantBlock (p : EncPar) (bl : Nat) (outs : List Nat) (es : List PElem) : QBlock :=
  let body := es.filter fun e => !outs.contains e.idx
  let mb := (body.filter fun e => !isCand p.tau e.code).foldl (fun m e => max m (bfUnits e.code)) 0
  let s := if mb = 0 then 0
    else ((List.range 256).find? fun c => decide (mb * 2 ^ 7 ≤ se35 c * 2 ^ bl * bodyMax p.f4)).getD 255
  let code (e : PElem) : Nat :=
    if outs.contains e.idx ∨ s = 0 ∨ bfNan e.code then 0
    else
      let q := if bfFinite e.code then roundBody p.f4 (bfUnits e.code * 2 ^ 7) (2 ^ bl * se35 s) else bodyCount p.f4 - 1
      if q = 0 then 0 else q + (if 0x8000 ≤ e.code then bodyCount p.f4 else 0)
  { scale := s, codes := es.map code
    ucount := (body.filter fun e => bfFinite e.code && bfUnits e.code != 0 && code e == 0).length }

/-- An encoded patch: its 32 blocks keyed row * 8 + block column, its records, and its spilled and overflowing candidates. -/
structure QPatch where
  blocks : List (Nat × QBlock)
  outs : List (PElem × Bool)
  spilled : Nat
  excess : Nat
  deriving DecidableEq, Repr
/-- The first largest element of a list by magnitude, lowest column on a tie (R114). -/
def largest : List PElem → Option PElem
  | [] => none
  | e :: r => match largest r with
    | none => some e
    | some x => if bfUnits e.code < bfUnits x.code then some x else some e
/-- Promotion over the blocks of a patch, in order (R114). -/
def promote (p : EncPar) (bl : Nat) : List (Nat × List PElem × QBlock) → List (PElem × Bool) →
    List (Nat × QBlock) × List (PElem × Bool)
  | [], outs => ([], outs)
  | (k, es, q) :: r, outs =>
    let pick := if p.ulim < q.ucount ∧ outs.length < p.cap then
        largest (es.filter fun e => !outs.any fun o => o.1.idx == e.idx)
      else none
    match pick with
    | some e =>
      let outs := outs ++ [(e, true)]
      let x := promote p bl r outs
      ((k, quantBlock p bl (outs.map fun o => o.1.idx) es) :: x.1, x.2)
    | none =>
      let x := promote p bl r outs
      ((k, q) :: x.1, x.2)
/-- Encode a patch (R114). -/
def encPatch (p : EncPar) (bl : Nat) (x : Array Nat) (pt : Nat) : QPatch :=
  let elem (r c : Nat) : PElem := ⟨r * 64 + c, x.getD (r * 64 + c) 0⟩
  let r0 := pt / 4 * 16
  let c0 := pt % 4 * 16
  let blocks := (List.range 32).map fun i =>
    (((r0 + i / 2) * 8 + c0 / 8 + i % 2), (List.range 8).map fun j => elem (r0 + i / 2) (c0 + i % 2 * 8 + j))
  let l := rankSort ((blocks.flatMap Prod.snd).filter fun e => isCand p.tau e.code)
  let outs := (l.take p.cap).map fun e => (e, false)
  let rest := l.length - outs.length
  let qs := blocks.map fun b => (b.1, b.2, quantBlock p bl (outs.map fun o => o.1.idx) b.2)
  let fin := if p.adapt then promote p bl qs outs else (qs.map fun q => (q.1, q.2.2), outs)
  { blocks := fin.1, outs := fin.2, spilled := min p.spill rest, excess := rest - min p.spill rest }
/-- A record (R111). -/
def outRecord (o : PElem × Bool) : Nat :=
  (if bfNan o.1.code then 0x7FC0 else o.1.code) + o.1.idx % 64 % 16 * 2 ^ 16 + o.1.idx / 64 % 16 * 2 ^ 20 +
    (if o.2 then 2 ^ 24 else 0) + (if bfFinite o.1.code then 0 else 2 ^ 25)

/-- The result of an encode: bytes, the flags SAT and OOV, and what OVFINFO records of an overflow (R114, R115). -/
structure EncOut where
  bytes : List Byte
  flags : Flags
  ovf : Option (Nat × Nat)
  deriving DecidableEq, Repr
/-- encode (R114 to R116) of 4,096 BF16 codes in row-major order. -/
def encodeTile (p : EncPar) (x : Array Nat) : EncOut :=
  let m := x.foldl (fun m c => if isCand p.tau c then m else max m (bfUnits c)) 0
  let bl := betaLog p.f4 m
  let ps := (List.range 16).map (encPatch p bl x)
  let blocks : Array QBlock := ps.foldl (fun a q => q.blocks.foldl (fun a b => a.setIfInBounds b.1 b.2) a)
    (Array.replicate 512 ⟨0, [], 0⟩)
  let blk (k : Nat) : QBlock := blocks.getD k ⟨0, [], 0⟩
  let ovp := (List.range 16).find? fun i => decide (0 < (ps.map QPatch.excess).getD i 0)
  let exc := (ps.map QPatch.excess).getD (ovp.getD 16) 0
  let sat := ps.any fun q => decide (0 < q.spilled + q.excess)
  let ada := ps.any fun q => q.outs.any Prod.snd
  let head : Nat := 0x5A53 + (if p.f4 then 1 else 0) * 2 ^ 16 + p.cap * 2 ^ 24 + p.spill * 2 ^ 32 + p.ulim * 2 ^ 34 +
    (if p.adapt then 1 else 0) * 2 ^ 38 + p.tensor * 2 ^ 40 + betaCode bl * 2 ^ 56 + p.tau * 2 ^ 72 +
    (if sat then 1 else 0) * 2 ^ 88 + (if ovp.isSome then 1 else 0) * 2 ^ 89 + (if ada then 1 else 0) * 2 ^ 90 +
    ovp.getD 0xFF * 2 ^ 96 + exc * 2 ^ 104 + (ps.map QPatch.excess).sum * 2 ^ 120
  let counts := (List.range 256).map fun k => BitVec.ofNat 8 ((blk (2 * k)).ucount + (blk (2 * k + 1)).ucount * 16)
  let plane (b : Nat) : List Byte := (List.range 512).map fun k =>
    BitVec.ofNat 8 (((blk k).codes.mapIdx fun j c => c / 2 ^ b % 2 * 2 ^ j).sum)
  let recs := ps.flatMap fun q => q.outs.flatMap fun o => Machine.toBytes 4 (outRecord o)
  { bytes := Machine.toBytes 32 head ++ (ps.map fun q => BitVec.ofNat 8 q.outs.length) ++ List.replicate 16 0 ++
      ((List.range 512).map fun k => BitVec.ofNat 8 (blk k).scale) ++ counts ++
      (List.range (planes p.f4)).flatMap plane ++ recs ++ List.replicate (64 * p.cap - recs.length) 0
    flags := (if sat then fSAT else fNone) ||| (if ovp.isSome then fOOV else fNone)
    ovf := ovp.map fun i => (i, exc) }

/-! ### Steps -/

/-- A step sum in progress: the exact sum of finite products, and what else occurred (R118). -/
structure StepSum where
  sum : Dy
  nan : Bool
  inv : Bool
  pos : Bool
  neg : Bool
  deriving DecidableEq, Repr
/-- One more product (R118). -/
def StepSum.add (s : StepSum) (a b : EVal) : StepSum :=
  match a, b with
  | .nan x, .nan y => { s with nan := true, inv := s.inv || x || y }
  | .nan x, _ => { s with nan := true, inv := s.inv || x }
  | _, .nan y => { s with nan := true, inv := s.inv || y }
  | .inf p, .inf q => if p = q then { s with pos := true } else { s with neg := true }
  | .inf p, .fin v =>
    if v.m = 0 then { s with nan := true, inv := true }
    else if p = decide (v.m < 0) then { s with pos := true } else { s with neg := true }
  | .fin v, .inf p =>
    if v.m = 0 then { s with nan := true, inv := true }
    else if p = decide (v.m < 0) then { s with pos := true } else { s with neg := true }
  | .fin v, .fin w => if v.m = 0 ∨ w.m = 0 then s else { s with sum := s.sum.add (v.mul w) }
/-- step_round (R118). -/
def stepRound (s : StepSum) : Nat × Flags :=
  if s.nan || (s.pos && s.neg) then nanR .f32 (if s.inv || (s.pos && s.neg) then fINV else fNone)
  else if s.pos then infR .f32 false
  else if s.neg then infR .f32 true
  else s.sum.round .f32 .rne
/-- One element's step: the sum of products rounded once, then added to the accumulator once; only INV and OVF count (R118,
R120). -/
def stepElem (acc : Nat) (a b : List EVal) : Nat × Flags :=
  let t := stepRound ((a.zip b).foldl (fun s p => s.add p.1 p.2) ⟨.zero, false, false, false, false⟩)
  let r := addV .f32 (decodeF .f32 acc) (decodeF .f32 t.1)
  (r.1, (t.2 ||| r.2) &&& (fINV ||| fOVF))
/-- A step over n rows and columns of an accumulator: new elements by index, and the flags (R118, R119). -/
def stepTile (n : Nat) (acc : Nat → Nat) (a b : List (List EVal)) : List (Nat × Nat) × Flags :=
  let rs := ((a.take n).mapIdx fun i ra => (b.take n).mapIdx fun j rb => (i * 64 + j, stepElem (acc (i * 64 + j)) ra rb)).flatten
  (rs.map fun r => (r.1, r.2.1), rs.foldl (fun f r => f ||| r.2.2) fNone)
/-- The rows of a dense operand: columns k0 to k0 + 31 of n rows of K values (R112, R119). -/
def denseRows (b : Array Byte) (n k k0 : Nat) : List (List EVal) :=
  (List.range n).map fun r => (List.range 32).map fun c =>
    let i := r * 2 * k + 2 * (k0 + c)
    evalBf16 ((b.getD i 0).toNat + (b.getD (i + 1) 0).toNat * 256)

/-! ### Epilogue -/

/-- The output format of `mstore` (R201). -/
def epiFmt (n : Nat) : Fmt :=
  match n with
  | 0 => .f32 | 1 => .bf16 | 2 => .f16 | 3 => .e4m3 | _ => .e5m2
/-- One element of `mstore` (R202): scaled exactly, clamped, rounded once. -/
def epiElem (f : Fmt) (scale : Nat) (clamp : Bool) (bound : Nat) (acc : Nat) : Nat × Flags :=
  let a := decodeF .f32 acc
  let c := decodeF .f32 scale
  let inv := if a.isSNaN || c.isSNaN then fINV else fNone
  let b := decodeF .bf16 (bound % 0x8000)
  let lim (neg : Bool) : Option (Nat × Flags) := match b with
    | .fin _ m e => some (((Dy.ofFin neg m e).round f .rne))
    | _ => none
  let sgn (neg : Bool) (r : Nat × Flags) : Nat × Flags := if r.1 = 0 ∧ neg then (f.signBit, r.2) else r
  match a, c with
  | .nan _, _ => nanR f inv
  | .inf _, .nan _ => nanR f inv
  | .fin _ _ _, .nan _ => nanR f inv
  | .inf p, .inf q => out (p != q) (lim (p != q)) f sgn
  | .inf p, .fin q n _ => if n = 0 then nanR f fINV else out (p != q) (lim (p != q)) f sgn
  | .fin p m _, .inf q => if m = 0 then nanR f fINV else out (p != q) (lim (p != q)) f sgn
  | .fin p m d, .fin q n e =>
    let neg := p != q
    let v := Dy.ofFin neg (m * n) (d + e)
    match b with
    | .fin _ bm be =>
      if clamp && (Dy.ofFin false bm be).lt v.abs then
        match lim neg with
        | some r => let r := sgn neg r; (r.1, r.2 ||| fSAT)
        | none => roundTo f .rne neg (m * n) (d + e) false
      else roundTo f .rne neg (m * n) (d + e) false
    | _ => roundTo f .rne neg (m * n) (d + e) false
where
  /-- An infinite product: clamped to a finite bound when one is given, else stored as it is, without a flag also where E4M3 has NaN for
  it (DESIGN CHOICE, log entry 90). -/
  out (neg : Bool) (l : Option (Nat × Flags)) (f : Fmt) (sgn : Bool → Nat × Flags → Nat × Flags) : Nat × Flags :=
    match (if clamp then l else none) with
    | some r => let r := sgn neg r; (r.1, r.2 ||| fSAT)
    | none => if f = .e4m3 then (f.nan, fNone) else infR f neg

end Sys2Proof.Num
end

