-- ==== Sys2Proof/WellFormed.lean ====
section
/-!
DEFINITION. Which field values of a form are defined (02_encoding.md R44, R45, R50 and the exclusions the forms' own rules
list). Values a form excludes are undefined encodings (R47). What depends on the launch (a barrier number, R309) or on the
kind of context (R48) is checked where the instruction executes.
-/

namespace Sys2Proof

/-- A chit field is 0 where f = 0 (R45, R183). -/
def chitOk (f : Bool) (chit : BitVec 6) : Bool := f || chit == 0

/-- The sizes each operation of `atom` allows (R250): 2 is 32, 3 is 64, 4 is 128 bits. -/
def atomSizeOk (op : BitVec 4) (size : BitVec 3) : Bool :=
  if op.toNat ≤ 9 then size == 2 || size == 3
  else if op.toNat ≤ 12 then size == 2
  else op == 13 && size == 4

/-- A form's field values are all defined. -/
def Instr.wf : Instr → Bool
  | .icmpI32 o | .icmpN32 o => decide (o.cond.toNat < 6)
  | .fround o => decide (o.mode.toNat < 4)
  | .fcvt o => decide (o.mode.toNat < 5) && o.src != 7 && o.dst != 7 && o.src != o.dst
  | .redux o | .scanInc o | .scanExc o => decide (o.op.toNat < 11)
  | .sshli o | .sshri o | .ssari o => decide (o.imm.toNat < 64)
  | .ld o => decide (o.size.toNat < 5) && !o.wt
  | .st o => decide (o.size.toNat < 5)
  | .lda o => (o.size == 2 || o.size == 3) && !o.wt
  | .stl o => o.size == 2 || o.size == 3
  | .atom o => atomSizeOk o.x o.size
  | .fenceFull o | .fenceAcq o | .fenceRel o | .fenceEng o => decide (o.scope.toNat < 5)
  | .pgreq o => decide (o.size.toNat < 5)
  | .pfch o => decide (o.size.toNat < 5)
  | .bld o => decide (o.size.toNat < 5) && !o.wt
  | .bst o => decide (o.size.toNat < 5)
  | .batom o => decide (o.op.toNat < 14)
  | .cpy o => chitOk o.f o.chit
  | .cpyx o => chitOk o.f o.chit
  | .cpyq o | .xsend o | .xrecv o | .xred o | .mdec o => chitOk o.f o.chit
  | .menc o => chitOk o.f o.chit
  | .mpost o => chitOk o.f o.chit
  | .mma o => chitOk o.f o.chit && !(o.acc.getLsbD 0 && o.s.getLsbD 1)
  | .mstore o => chitOk o.f o.chit
  | .mmb o => chitOk o.f o.chit && decide (4 ≤ o.shape.toNat) && decide (o.shape.toNat < 7)
  | .mzero o => chitOk o.f o.chit
  | .mdrain o => chitOk o.f o.chit
  | .sqlen o => if o.loc then o.sa == 0 && !o.wsa else o.cl == 0
  | .sqwait o => if o.loc then o.sa == 0 && !o.wsa else o.cl == 0
  | .sqbind o => !o.off || (o.sa == 0 && !o.wsa)
  | .sqinfo o => decide (o.k.toNat < 6)
  | .bs o => decide (o.cond.toNat < 6)
  | .sget o => decide (o.sel.toNat < 25)
  | .sset o => decide (o.sel.toNat < 25)
  | .prof o => decide (o.cnt.toNat < 14)
  | _ => true

end Sys2Proof
end

