-- ==== Sys2Proof/Decode.lean ====
section
/-!
DEFINITION. The decoder and the encoder (02_encoding.md R35 to R50).

`decodeBytes` reads one instruction from little-endian bytes and rejects by name; `encode` gives the bits of an encoded
form. Field positions are those of R41; a word is matched against the fixed bits of its form, which include every field
that R45 requires to be 0.
-/

namespace Sys2Proof

/-- Why a word is not an instruction (R46 cause 3, R47), or why there is no word. -/
inductive DecodeErr where
  /-- Fewer bytes than the instruction's length (no encoding rule; the bytes end). -/
  | truncated
  /-- The major opcode is marked undefined in the map (R49). -/
  | undefinedMajor
  /-- No form of the major has these sub and zero fields (R47, R45). -/
  | undefinedForm
  /-- A field holds a value listed as undefined (R50 and the forms' own rules). -/
  | excludedValue
  deriving DecidableEq, Repr

/-- The fields of `OpC` at their places in a word. -/
def readOpC (w : BitVec 16) : OpC :=
  { vd := w.extractLsb' 6 5,
    vs := w.extractLsb' 11 5 }

/-- The word bits the fields of `OpC` occupy. -/
def bitsOpC (o : OpC) : BitVec 16 :=
    (o.vd.setWidth 16 <<< 6) |||
    (o.vs.setWidth 16 <<< 11)

/-- The fields of `OpRef` at their places in a word. -/
def readOpRef (w : BitVec 16) : OpRef :=
  { entry := w.extractLsb' 2 7,
    ha := w.extractLsb' 9 4,
    hb := w.extractLsb' 13 3 }

/-- The word bits the fields of `OpRef` occupy. -/
def bitsOpRef (o : OpRef) : BitVec 16 :=
    (o.entry.setWidth 16 <<< 2) |||
    (o.ha.setWidth 16 <<< 9) |||
    (o.hb.setWidth 16 <<< 13)

/-- The fields of `OpR` at their places in a word. -/
def readOpR (w : BitVec 32) : OpR :=
  { pk := w.extractLsb' 7 2,
    vd := w.extractLsb' 9 6,
    va := w.extractLsb' 15 6,
    vb := w.extractLsb' 21 6,
    wa := w.getLsbD 27,
    wb := w.getLsbD 28 }

/-- The word bits the fields of `OpR` occupy. -/
def bitsOpR (o : OpR) : BitVec 32 :=
    (o.pk.setWidth 32 <<< 7) |||
    (o.vd.setWidth 32 <<< 9) |||
    (o.va.setWidth 32 <<< 15) |||
    (o.vb.setWidth 32 <<< 21) |||
    ((BitVec.ofBool o.wa).setWidth 32 <<< 27) |||
    ((BitVec.ofBool o.wb).setWidth 32 <<< 28)

/-- The fields of `OpR1` at their places in a word. -/
def readOpR1 (w : BitVec 32) : OpR1 :=
  { pk := w.extractLsb' 7 2,
    vd := w.extractLsb' 9 6,
    va := w.extractLsb' 15 6,
    wa := w.getLsbD 27 }

/-- The word bits the fields of `OpR1` occupy. -/
def bitsOpR1 (o : OpR1) : BitVec 32 :=
    (o.pk.setWidth 32 <<< 7) |||
    (o.vd.setWidth 32 <<< 9) |||
    (o.va.setWidth 32 <<< 15) |||
    ((BitVec.ofBool o.wa).setWidth 32 <<< 27)

/-- The fields of `OpF` at their places in a word. -/
def readOpF (w : BitVec 32) : OpF :=
  { pk := w.extractLsb' 7 2,
    vd := w.extractLsb' 9 6,
    va := w.extractLsb' 15 6,
    vb := w.extractLsb' 21 6,
    wa := w.getLsbD 27,
    wb := w.getLsbD 28,
    wc := w.getLsbD 29 }

/-- The word bits the fields of `OpF` occupy. -/
def bitsOpF (o : OpF) : BitVec 32 :=
    (o.pk.setWidth 32 <<< 7) |||
    (o.vd.setWidth 32 <<< 9) |||
    (o.va.setWidth 32 <<< 15) |||
    (o.vb.setWidth 32 <<< 21) |||
    ((BitVec.ofBool o.wa).setWidth 32 <<< 27) |||
    ((BitVec.ofBool o.wb).setWidth 32 <<< 28) |||
    ((BitVec.ofBool o.wc).setWidth 32 <<< 29)

/-- The fields of `OpCmp` at their places in a word. -/
def readOpCmp (w : BitVec 32) : OpCmp :=
  { pk := w.extractLsb' 7 2,
    kd := w.extractLsb' 9 3,
    cond := w.extractLsb' 12 3,
    va := w.extractLsb' 15 6,
    vb := w.extractLsb' 21 6,
    wa := w.getLsbD 27,
    wb := w.getLsbD 28 }

/-- The word bits the fields of `OpCmp` occupy. -/
def bitsOpCmp (o : OpCmp) : BitVec 32 :=
    (o.pk.setWidth 32 <<< 7) |||
    (o.kd.setWidth 32 <<< 9) |||
    (o.cond.setWidth 32 <<< 12) |||
    (o.va.setWidth 32 <<< 15) |||
    (o.vb.setWidth 32 <<< 21) |||
    ((BitVec.ofBool o.wa).setWidth 32 <<< 27) |||
    ((BitVec.ofBool o.wb).setWidth 32 <<< 28)

/-- The fields of `OpI` at their places in a word. -/
def readOpI (w : BitVec 32) : OpI :=
  { pk := w.extractLsb' 7 2,
    vd := w.extractLsb' 9 6,
    va := w.extractLsb' 15 6,
    wa := w.getLsbD 21,
    imm := w.extractLsb' 22 10 }

/-- The word bits the fields of `OpI` occupy. -/
def bitsOpI (o : OpI) : BitVec 32 :=
    (o.pk.setWidth 32 <<< 7) |||
    (o.vd.setWidth 32 <<< 9) |||
    (o.va.setWidth 32 <<< 15) |||
    ((BitVec.ofBool o.wa).setWidth 32 <<< 21) |||
    (o.imm.setWidth 32 <<< 22)

/-- The fields of `OpShfi` at their places in a word. -/
def readOpShfi (w : BitVec 32) : OpShfi :=
  { pk := w.extractLsb' 7 2,
    vd := w.extractLsb' 9 6,
    va := w.extractLsb' 15 6,
    wa := w.getLsbD 21,
    count := w.extractLsb' 22 5,
    kind := w.extractLsb' 27 2 }

/-- The word bits the fields of `OpShfi` occupy. -/
def bitsOpShfi (o : OpShfi) : BitVec 32 :=
    (o.pk.setWidth 32 <<< 7) |||
    (o.vd.setWidth 32 <<< 9) |||
    (o.va.setWidth 32 <<< 15) |||
    ((BitVec.ofBool o.wa).setWidth 32 <<< 21) |||
    (o.count.setWidth 32 <<< 22) |||
    (o.kind.setWidth 32 <<< 27)

/-- The fields of `OpMovi` at their places in a word. -/
def readOpMovi (w : BitVec 32) : OpMovi :=
  { pk := w.extractLsb' 7 2,
    vd := w.extractLsb' 9 6,
    imm := w.extractLsb' 22 10 }

/-- The word bits the fields of `OpMovi` occupy. -/
def bitsOpMovi (o : OpMovi) : BitVec 32 :=
    (o.pk.setWidth 32 <<< 7) |||
    (o.vd.setWidth 32 <<< 9) |||
    (o.imm.setWidth 32 <<< 22)

/-- The fields of `OpW` at their places in a word. -/
def readOpW (w : BitVec 32) : OpW :=
  { pk := w.extractLsb' 7 2,
    vd := w.extractLsb' 9 6,
    imm := w.extractLsb' 16 16 }

/-- The word bits the fields of `OpW` occupy. -/
def bitsOpW (o : OpW) : BitVec 32 :=
    (o.pk.setWidth 32 <<< 7) |||
    (o.vd.setWidth 32 <<< 9) |||
    (o.imm.setWidth 32 <<< 16)

/-- The fields of `OpFround` at their places in a word. -/
def readOpFround (w : BitVec 32) : OpFround :=
  { pk := w.extractLsb' 7 2,
    vd := w.extractLsb' 9 6,
    va := w.extractLsb' 15 6,
    mode := w.extractLsb' 21 6,
    wa := w.getLsbD 27 }

/-- The word bits the fields of `OpFround` occupy. -/
def bitsOpFround (o : OpFround) : BitVec 32 :=
    (o.pk.setWidth 32 <<< 7) |||
    (o.vd.setWidth 32 <<< 9) |||
    (o.va.setWidth 32 <<< 15) |||
    (o.mode.setWidth 32 <<< 21) |||
    ((BitVec.ofBool o.wa).setWidth 32 <<< 27)

/-- The fields of `OpFcvt` at their places in a word. -/
def readOpFcvt (w : BitVec 32) : OpFcvt :=
  { pk := w.extractLsb' 7 2,
    vd := w.extractLsb' 9 6,
    va := w.extractLsb' 15 6,
    dst := w.extractLsb' 21 3,
    src := w.extractLsb' 24 3,
    wa := w.getLsbD 27,
    mode := w.extractLsb' 29 3 }

/-- The word bits the fields of `OpFcvt` occupy. -/
def bitsOpFcvt (o : OpFcvt) : BitVec 32 :=
    (o.pk.setWidth 32 <<< 7) |||
    (o.vd.setWidth 32 <<< 9) |||
    (o.va.setWidth 32 <<< 15) |||
    (o.dst.setWidth 32 <<< 21) |||
    (o.src.setWidth 32 <<< 24) |||
    ((BitVec.ofBool o.wa).setWidth 32 <<< 27) |||
    (o.mode.setWidth 32 <<< 29)

/-- The fields of `OpRedux` at their places in a word. -/
def readOpRedux (w : BitVec 32) : OpRedux :=
  { pk := w.extractLsb' 7 2,
    vd := w.extractLsb' 9 6,
    va := w.extractLsb' 15 6,
    op := w.extractLsb' 21 6,
    wa := w.getLsbD 27 }

/-- The word bits the fields of `OpRedux` occupy. -/
def bitsOpRedux (o : OpRedux) : BitVec 32 :=
    (o.pk.setWidth 32 <<< 7) |||
    (o.vd.setWidth 32 <<< 9) |||
    (o.va.setWidth 32 <<< 15) |||
    (o.op.setWidth 32 <<< 21) |||
    ((BitVec.ofBool o.wa).setWidth 32 <<< 27)

/-- The fields of `OpK2` at their places in a word. -/
def readOpK2 (w : BitVec 32) : OpK2 :=
  { pk := w.extractLsb' 7 2,
    kd := w.extractLsb' 9 3,
    ka := w.extractLsb' 15 3,
    kb := w.extractLsb' 21 3 }

/-- The word bits the fields of `OpK2` occupy. -/
def bitsOpK2 (o : OpK2) : BitVec 32 :=
    (o.pk.setWidth 32 <<< 7) |||
    (o.kd.setWidth 32 <<< 9) |||
    (o.ka.setWidth 32 <<< 15) |||
    (o.kb.setWidth 32 <<< 21)

/-- The fields of `OpK1` at their places in a word. -/
def readOpK1 (w : BitVec 32) : OpK1 :=
  { pk := w.extractLsb' 7 2,
    kd := w.extractLsb' 9 3,
    ka := w.extractLsb' 15 3 }

/-- The word bits the fields of `OpK1` occupy. -/
def bitsOpK1 (o : OpK1) : BitVec 32 :=
    (o.pk.setWidth 32 <<< 7) |||
    (o.kd.setWidth 32 <<< 9) |||
    (o.ka.setWidth 32 <<< 15)

/-- The fields of `OpKv` at their places in a word. -/
def readOpKv (w : BitVec 32) : OpKv :=
  { pk := w.extractLsb' 7 2,
    vd := w.extractLsb' 9 6,
    ka := w.extractLsb' 15 3 }

/-- The word bits the fields of `OpKv` occupy. -/
def bitsOpKv (o : OpKv) : BitVec 32 :=
    (o.pk.setWidth 32 <<< 7) |||
    (o.vd.setWidth 32 <<< 9) |||
    (o.ka.setWidth 32 <<< 15)

/-- The fields of `OpVbcast` at their places in a word. -/
def readOpVbcast (w : BitVec 32) : OpVbcast :=
  { pk := w.extractLsb' 7 2,
    vd := w.extractLsb' 9 6,
    sa := w.extractLsb' 15 5,
    hi := w.getLsbD 21,
    wa := w.getLsbD 27 }

/-- The word bits the fields of `OpVbcast` occupy. -/
def bitsOpVbcast (o : OpVbcast) : BitVec 32 :=
    (o.pk.setWidth 32 <<< 7) |||
    (o.vd.setWidth 32 <<< 9) |||
    (o.sa.setWidth 32 <<< 15) |||
    ((BitVec.ofBool o.hi).setWidth 32 <<< 21) |||
    ((BitVec.ofBool o.wa).setWidth 32 <<< 27)

/-- The fields of `OpVread` at their places in a word. -/
def readOpVread (w : BitVec 32) : OpVread :=
  { sd := w.extractLsb' 9 5,
    va := w.extractLsb' 15 6,
    lane := w.extractLsb' 21 6,
    wa := w.getLsbD 27 }

/-- The word bits the fields of `OpVread` occupy. -/
def bitsOpVread (o : OpVread) : BitVec 32 :=
    (o.sd.setWidth 32 <<< 9) |||
    (o.va.setWidth 32 <<< 15) |||
    (o.lane.setWidth 32 <<< 21) |||
    ((BitVec.ofBool o.wa).setWidth 32 <<< 27)

/-- The fields of `OpKget` at their places in a word. -/
def readOpKget (w : BitVec 32) : OpKget :=
  { sd := w.extractLsb' 9 5,
    ka := w.extractLsb' 15 3 }

/-- The word bits the fields of `OpKget` occupy. -/
def bitsOpKget (o : OpKget) : BitVec 32 :=
    (o.sd.setWidth 32 <<< 9) |||
    (o.ka.setWidth 32 <<< 15)

/-- The fields of `OpKset` at their places in a word. -/
def readOpKset (w : BitVec 32) : OpKset :=
  { pk := w.extractLsb' 7 2,
    kd := w.extractLsb' 9 3,
    sa := w.extractLsb' 15 5,
    wa := w.getLsbD 27 }

/-- The word bits the fields of `OpKset` occupy. -/
def bitsOpKset (o : OpKset) : BitVec 32 :=
    (o.pk.setWidth 32 <<< 7) |||
    (o.kd.setWidth 32 <<< 9) |||
    (o.sa.setWidth 32 <<< 15) |||
    ((BitVec.ofBool o.wa).setWidth 32 <<< 27)

/-- The fields of `OpEmget` at their places in a word. -/
def readOpEmget (w : BitVec 32) : OpEmget :=
  { sd := w.extractLsb' 9 5 }

/-- The word bits the fields of `OpEmget` occupy. -/
def bitsOpEmget (o : OpEmget) : BitVec 32 :=
    (o.sd.setWidth 32 <<< 9)

/-- The fields of `OpEmset` at their places in a word. -/
def readOpEmset (w : BitVec 32) : OpEmset :=
  { sa := w.extractLsb' 15 5,
    wa := w.getLsbD 27 }

/-- The word bits the fields of `OpEmset` occupy. -/
def bitsOpEmset (o : OpEmset) : BitVec 32 :=
    (o.sa.setWidth 32 <<< 15) |||
    ((BitVec.ofBool o.wa).setWidth 32 <<< 27)

/-- The fields of `OpEmand` at their places in a word. -/
def readOpEmand (w : BitVec 32) : OpEmand :=
  { ka := w.extractLsb' 15 3 }

/-- The word bits the fields of `OpEmand` occupy. -/
def bitsOpEmand (o : OpEmand) : BitVec 32 :=
    (o.ka.setWidth 32 <<< 15)

/-- The fields of `OpU` at their places in a word. -/
def readOpU (w : BitVec 32) : OpU :=
  { sd := w.extractLsb' 10 5,
    sa := w.extractLsb' 15 5,
    sb := w.extractLsb' 20 5,
    wsa := w.getLsbD 25,
    wsb := w.getLsbD 26 }

/-- The word bits the fields of `OpU` occupy. -/
def bitsOpU (o : OpU) : BitVec 32 :=
    (o.sd.setWidth 32 <<< 10) |||
    (o.sa.setWidth 32 <<< 15) |||
    (o.sb.setWidth 32 <<< 20) |||
    ((BitVec.ofBool o.wsa).setWidth 32 <<< 25) |||
    ((BitVec.ofBool o.wsb).setWidth 32 <<< 26)

/-- The fields of `OpV` at their places in a word. -/
def readOpV (w : BitVec 32) : OpV :=
  { sd := w.extractLsb' 10 5,
    sa := w.extractLsb' 15 5,
    wsa := w.getLsbD 20,
    imm := w.extractLsb' 21 11 }

/-- The word bits the fields of `OpV` occupy. -/
def bitsOpV (o : OpV) : BitVec 32 :=
    (o.sd.setWidth 32 <<< 10) |||
    (o.sa.setWidth 32 <<< 15) |||
    ((BitVec.ofBool o.wsa).setWidth 32 <<< 20) |||
    (o.imm.setWidth 32 <<< 21)

/-- The fields of `OpSmovi` at their places in a word. -/
def readOpSmovi (w : BitVec 32) : OpSmovi :=
  { sd := w.extractLsb' 10 5,
    imm := w.extractLsb' 21 11 }

/-- The word bits the fields of `OpSmovi` occupy. -/
def bitsOpSmovi (o : OpSmovi) : BitVec 32 :=
    (o.sd.setWidth 32 <<< 10) |||
    (o.imm.setWidth 32 <<< 21)

/-- The fields of `OpM` at their places in a word. -/
def readOpM (w : BitVec 32) : OpM :=
  { pk := w.extractLsb' 7 2,
    vt := w.extractLsb' 9 6,
    va := w.extractLsb' 15 6,
    wa := w.getLsbD 21,
    wt := w.getLsbD 22,
    size := w.extractLsb' 23 3,
    kr := w.extractLsb' 26 2,
    x := w.extractLsb' 28 4 }

/-- The word bits the fields of `OpM` occupy. -/
def bitsOpM (o : OpM) : BitVec 32 :=
    (o.pk.setWidth 32 <<< 7) |||
    (o.vt.setWidth 32 <<< 9) |||
    (o.va.setWidth 32 <<< 15) |||
    ((BitVec.ofBool o.wa).setWidth 32 <<< 21) |||
    ((BitVec.ofBool o.wt).setWidth 32 <<< 22) |||
    (o.size.setWidth 32 <<< 23) |||
    (o.kr.setWidth 32 <<< 26) |||
    (o.x.setWidth 32 <<< 28)

/-- The fields of `OpFence` at their places in a word. -/
def readOpFence (w : BitVec 32) : OpFence :=
  { scope := w.extractLsb' 10 5 }

/-- The word bits the fields of `OpFence` occupy. -/
def bitsOpFence (o : OpFence) : BitVec 32 :=
    (o.scope.setWidth 32 <<< 10)

/-- The fields of `OpPgreq` at their places in a word. -/
def readOpPgreq (w : BitVec 32) : OpPgreq :=
  { pk := w.extractLsb' 7 2,
    va := w.extractLsb' 15 6,
    wa := w.getLsbD 21,
    size := w.extractLsb' 23 3,
    kr := w.extractLsb' 26 2 }

/-- The word bits the fields of `OpPgreq` occupy. -/
def bitsOpPgreq (o : OpPgreq) : BitVec 32 :=
    (o.pk.setWidth 32 <<< 7) |||
    (o.va.setWidth 32 <<< 15) |||
    ((BitVec.ofBool o.wa).setWidth 32 <<< 21) |||
    (o.size.setWidth 32 <<< 23) |||
    (o.kr.setWidth 32 <<< 26)

/-- The fields of `OpPfch` at their places in a word. -/
def readOpPfch (w : BitVec 32) : OpPfch :=
  { pk := w.extractLsb' 7 2,
    va := w.extractLsb' 15 6,
    wa := w.getLsbD 21,
    size := w.extractLsb' 23 3 }

/-- The word bits the fields of `OpPfch` occupy. -/
def bitsOpPfch (o : OpPfch) : BitVec 32 :=
    (o.pk.setWidth 32 <<< 7) |||
    (o.va.setWidth 32 <<< 15) |||
    ((BitVec.ofBool o.wa).setWidth 32 <<< 21) |||
    (o.size.setWidth 32 <<< 23)

/-- The fields of `OpB` at their places in a word. -/
def readOpB (w : BitVec 32) : OpB :=
  { pk := w.extractLsb' 7 2,
    vt := w.extractLsb' 9 6,
    va := w.extractLsb' 15 6,
    wa := w.getLsbD 21,
    wt := w.getLsbD 22,
    size := w.extractLsb' 23 3,
    kr := w.extractLsb' 26 2,
    sh := w.extractLsb' 28 4 }

/-- The word bits the fields of `OpB` occupy. -/
def bitsOpB (o : OpB) : BitVec 32 :=
    (o.pk.setWidth 32 <<< 7) |||
    (o.vt.setWidth 32 <<< 9) |||
    (o.va.setWidth 32 <<< 15) |||
    ((BitVec.ofBool o.wa).setWidth 32 <<< 21) |||
    ((BitVec.ofBool o.wt).setWidth 32 <<< 22) |||
    (o.size.setWidth 32 <<< 23) |||
    (o.kr.setWidth 32 <<< 26) |||
    (o.sh.setWidth 32 <<< 28)

/-- The fields of `OpMA` at their places in a word. -/
def readOpMA (w : BitVec 32) : OpMA :=
  { pk := w.extractLsb' 7 2,
    vt := w.extractLsb' 9 6,
    va := w.extractLsb' 15 6,
    wa := w.getLsbD 21,
    wt := w.getLsbD 22,
    op := w.extractLsb' 23 5,
    sh := w.extractLsb' 28 4 }

/-- The word bits the fields of `OpMA` occupy. -/
def bitsOpMA (o : OpMA) : BitVec 32 :=
    (o.pk.setWidth 32 <<< 7) |||
    (o.vt.setWidth 32 <<< 9) |||
    (o.va.setWidth 32 <<< 15) |||
    ((BitVec.ofBool o.wa).setWidth 32 <<< 21) |||
    ((BitVec.ofBool o.wt).setWidth 32 <<< 22) |||
    (o.op.setWidth 32 <<< 23) |||
    (o.sh.setWidth 32 <<< 28)

/-- The fields of `OpBxnew` at their places in a word. -/
def readOpBxnew (w : BitVec 32) : OpBxnew :=
  { sd := w.extractLsb' 10 5,
    sa := w.extractLsb' 15 5,
    f := w.getLsbD 31 }

/-- The word bits the fields of `OpBxnew` occupy. -/
def bitsOpBxnew (o : OpBxnew) : BitVec 32 :=
    (o.sd.setWidth 32 <<< 10) |||
    (o.sa.setWidth 32 <<< 15) |||
    ((BitVec.ofBool o.f).setWidth 32 <<< 31)

/-- The fields of `OpXa` at their places in a word. -/
def readOpXa (w : BitVec 32) : OpXa :=
  { sa := w.extractLsb' 15 5 }

/-- The word bits the fields of `OpXa` occupy. -/
def bitsOpXa (o : OpXa) : BitVec 32 :=
    (o.sa.setWidth 32 <<< 15)

/-- The fields of `OpXab` at their places in a word. -/
def readOpXab (w : BitVec 32) : OpXab :=
  { sa := w.extractLsb' 15 5,
    sb := w.extractLsb' 20 5 }

/-- The word bits the fields of `OpXab` occupy. -/
def bitsOpXab (o : OpXab) : BitVec 32 :=
    (o.sa.setWidth 32 <<< 15) |||
    (o.sb.setWidth 32 <<< 20)

/-- The fields of `OpXd` at their places in a word. -/
def readOpXd (w : BitVec 32) : OpXd :=
  { sd := w.extractLsb' 10 5,
    f := w.getLsbD 31 }

/-- The word bits the fields of `OpXd` occupy. -/
def bitsOpXd (o : OpXd) : BitVec 32 :=
    (o.sd.setWidth 32 <<< 10) |||
    ((BitVec.ofBool o.f).setWidth 32 <<< 31)

/-- The fields of `OpBxlend` at their places in a word. -/
def readOpBxlend (w : BitVec 32) : OpBxlend :=
  { sa := w.extractLsb' 15 5,
    sb := w.extractLsb' 20 5,
    chit := w.extractLsb' 25 6 }

/-- The word bits the fields of `OpBxlend` occupy. -/
def bitsOpBxlend (o : OpBxlend) : BitVec 32 :=
    (o.sa.setWidth 32 <<< 15) |||
    (o.sb.setWidth 32 <<< 20) |||
    (o.chit.setWidth 32 <<< 25)

/-- The fields of `OpXad` at their places in a word. -/
def readOpXad (w : BitVec 32) : OpXad :=
  { sd := w.extractLsb' 10 5,
    sa := w.extractLsb' 15 5 }

/-- The word bits the fields of `OpXad` occupy. -/
def bitsOpXad (o : OpXad) : BitVec 32 :=
    (o.sd.setWidth 32 <<< 10) |||
    (o.sa.setWidth 32 <<< 15)

/-- The fields of `OpCpy` at their places in a word. -/
def readOpCpy (w : BitVec 32) : OpCpy :=
  { sa := w.extractLsb' 15 5,
    chit := w.extractLsb' 25 6,
    f := w.getLsbD 31 }

/-- The word bits the fields of `OpCpy` occupy. -/
def bitsOpCpy (o : OpCpy) : BitVec 32 :=
    (o.sa.setWidth 32 <<< 15) |||
    (o.chit.setWidth 32 <<< 25) |||
    ((BitVec.ofBool o.f).setWidth 32 <<< 31)

/-- The fields of `OpCpyx` at their places in a word. -/
def readOpCpyx (w : BitVec 32) : OpCpyx :=
  { vi := w.extractLsb' 10 5,
    sa := w.extractLsb' 15 5,
    sb := w.extractLsb' 20 5,
    chit := w.extractLsb' 25 6,
    f := w.getLsbD 31 }

/-- The word bits the fields of `OpCpyx` occupy. -/
def bitsOpCpyx (o : OpCpyx) : BitVec 32 :=
    (o.vi.setWidth 32 <<< 10) |||
    (o.sa.setWidth 32 <<< 15) |||
    (o.sb.setWidth 32 <<< 20) |||
    (o.chit.setWidth 32 <<< 25) |||
    ((BitVec.ofBool o.f).setWidth 32 <<< 31)

/-- The fields of `OpX2` at their places in a word. -/
def readOpX2 (w : BitVec 32) : OpX2 :=
  { sa := w.extractLsb' 15 5,
    sb := w.extractLsb' 20 5,
    chit := w.extractLsb' 25 6,
    f := w.getLsbD 31 }

/-- The word bits the fields of `OpX2` occupy. -/
def bitsOpX2 (o : OpX2) : BitVec 32 :=
    (o.sa.setWidth 32 <<< 15) |||
    (o.sb.setWidth 32 <<< 20) |||
    (o.chit.setWidth 32 <<< 25) |||
    ((BitVec.ofBool o.f).setWidth 32 <<< 31)

/-- The fields of `OpUad` at their places in a word. -/
def readOpUad (w : BitVec 32) : OpUad :=
  { sd := w.extractLsb' 10 5,
    sa := w.extractLsb' 15 5,
    wsa := w.getLsbD 25 }

/-- The word bits the fields of `OpUad` occupy. -/
def bitsOpUad (o : OpUad) : BitVec 32 :=
    (o.sd.setWidth 32 <<< 10) |||
    (o.sa.setWidth 32 <<< 15) |||
    ((BitVec.ofBool o.wsa).setWidth 32 <<< 25)

/-- The fields of `OpUa` at their places in a word. -/
def readOpUa (w : BitVec 32) : OpUa :=
  { sa := w.extractLsb' 15 5,
    wsa := w.getLsbD 25 }

/-- The word bits the fields of `OpUa` occupy. -/
def bitsOpUa (o : OpUa) : BitVec 32 :=
    (o.sa.setWidth 32 <<< 15) |||
    ((BitVec.ofBool o.wsa).setWidth 32 <<< 25)

/-- The fields of `OpChget` at their places in a word. -/
def readOpChget (w : BitVec 32) : OpChget :=
  { sd := w.extractLsb' 10 5,
    sa := w.extractLsb' 15 5,
    wsa := w.getLsbD 25,
    err := w.getLsbD 27 }

/-- The word bits the fields of `OpChget` occupy. -/
def bitsOpChget (o : OpChget) : BitVec 32 :=
    (o.sd.setWidth 32 <<< 10) |||
    (o.sa.setWidth 32 <<< 15) |||
    ((BitVec.ofBool o.wsa).setWidth 32 <<< 25) |||
    ((BitVec.ofBool o.err).setWidth 32 <<< 27)

/-- The fields of `OpSqres` at their places in a word. -/
def readOpSqres (w : BitVec 32) : OpSqres :=
  { sd := w.extractLsb' 10 5,
    sa := w.extractLsb' 15 5,
    sb := w.extractLsb' 20 5,
    wsa := w.getLsbD 25,
    wsb := w.getLsbD 26,
    try_ := w.getLsbD 27 }

/-- The word bits the fields of `OpSqres` occupy. -/
def bitsOpSqres (o : OpSqres) : BitVec 32 :=
    (o.sd.setWidth 32 <<< 10) |||
    (o.sa.setWidth 32 <<< 15) |||
    (o.sb.setWidth 32 <<< 20) |||
    ((BitVec.ofBool o.wsa).setWidth 32 <<< 25) |||
    ((BitVec.ofBool o.wsb).setWidth 32 <<< 26) |||
    ((BitVec.ofBool o.try_).setWidth 32 <<< 27)

/-- The fields of `OpUn` at their places in a word. -/
def readOpUn (w : BitVec 32) : OpUn :=
  { sn := w.extractLsb' 10 5,
    sa := w.extractLsb' 15 5,
    sb := w.extractLsb' 20 5,
    wsa := w.getLsbD 25,
    wsb := w.getLsbD 26 }

/-- The word bits the fields of `OpUn` occupy. -/
def bitsOpUn (o : OpUn) : BitVec 32 :=
    (o.sn.setWidth 32 <<< 10) |||
    (o.sa.setWidth 32 <<< 15) |||
    (o.sb.setWidth 32 <<< 20) |||
    ((BitVec.ofBool o.wsa).setWidth 32 <<< 25) |||
    ((BitVec.ofBool o.wsb).setWidth 32 <<< 26)

/-- The fields of `OpSqlen` at their places in a word. -/
def readOpSqlen (w : BitVec 32) : OpSqlen :=
  { sd := w.extractLsb' 10 5,
    sa := w.extractLsb' 15 5,
    wsa := w.getLsbD 25,
    cl := w.extractLsb' 27 4,
    loc := w.getLsbD 31 }

/-- The word bits the fields of `OpSqlen` occupy. -/
def bitsOpSqlen (o : OpSqlen) : BitVec 32 :=
    (o.sd.setWidth 32 <<< 10) |||
    (o.sa.setWidth 32 <<< 15) |||
    ((BitVec.ofBool o.wsa).setWidth 32 <<< 25) |||
    (o.cl.setWidth 32 <<< 27) |||
    ((BitVec.ofBool o.loc).setWidth 32 <<< 31)

/-- The fields of `OpSqwait` at their places in a word. -/
def readOpSqwait (w : BitVec 32) : OpSqwait :=
  { sd := w.extractLsb' 10 5,
    sa := w.extractLsb' 15 5,
    sb := w.extractLsb' 20 5,
    wsa := w.getLsbD 25,
    wsb := w.getLsbD 26,
    cl := w.extractLsb' 27 4,
    loc := w.getLsbD 31 }

/-- The word bits the fields of `OpSqwait` occupy. -/
def bitsOpSqwait (o : OpSqwait) : BitVec 32 :=
    (o.sd.setWidth 32 <<< 10) |||
    (o.sa.setWidth 32 <<< 15) |||
    (o.sb.setWidth 32 <<< 20) |||
    ((BitVec.ofBool o.wsa).setWidth 32 <<< 25) |||
    ((BitVec.ofBool o.wsb).setWidth 32 <<< 26) |||
    (o.cl.setWidth 32 <<< 27) |||
    ((BitVec.ofBool o.loc).setWidth 32 <<< 31)

/-- The fields of `OpSqbind` at their places in a word. -/
def readOpSqbind (w : BitVec 32) : OpSqbind :=
  { sa := w.extractLsb' 15 5,
    wsa := w.getLsbD 25,
    cl := w.extractLsb' 27 4,
    off := w.getLsbD 31 }

/-- The word bits the fields of `OpSqbind` occupy. -/
def bitsOpSqbind (o : OpSqbind) : BitVec 32 :=
    (o.sa.setWidth 32 <<< 15) |||
    ((BitVec.ofBool o.wsa).setWidth 32 <<< 25) |||
    (o.cl.setWidth 32 <<< 27) |||
    ((BitVec.ofBool o.off).setWidth 32 <<< 31)

/-- The fields of `OpUab` at their places in a word. -/
def readOpUab (w : BitVec 32) : OpUab :=
  { sa := w.extractLsb' 15 5,
    sb := w.extractLsb' 20 5,
    wsa := w.getLsbD 25,
    wsb := w.getLsbD 26 }

/-- The word bits the fields of `OpUab` occupy. -/
def bitsOpUab (o : OpUab) : BitVec 32 :=
    (o.sa.setWidth 32 <<< 15) |||
    (o.sb.setWidth 32 <<< 20) |||
    ((BitVec.ofBool o.wsa).setWidth 32 <<< 25) |||
    ((BitVec.ofBool o.wsb).setWidth 32 <<< 26)

/-- The fields of `OpSqinfo` at their places in a word. -/
def readOpSqinfo (w : BitVec 32) : OpSqinfo :=
  { sd := w.extractLsb' 10 5,
    sa := w.extractLsb' 15 5,
    wsa := w.getLsbD 25,
    k := w.extractLsb' 27 5 }

/-- The word bits the fields of `OpSqinfo` occupy. -/
def bitsOpSqinfo (o : OpSqinfo) : BitVec 32 :=
    (o.sd.setWidth 32 <<< 10) |||
    (o.sa.setWidth 32 <<< 15) |||
    ((BitVec.ofBool o.wsa).setWidth 32 <<< 25) |||
    (o.k.setWidth 32 <<< 27)

/-- The fields of `OpMenc` at their places in a word. -/
def readOpMenc (w : BitVec 32) : OpMenc :=
  { sp := w.extractLsb' 10 5,
    sa := w.extractLsb' 15 5,
    sb := w.extractLsb' 20 5,
    chit := w.extractLsb' 25 6,
    f := w.getLsbD 31 }

/-- The word bits the fields of `OpMenc` occupy. -/
def bitsOpMenc (o : OpMenc) : BitVec 32 :=
    (o.sp.setWidth 32 <<< 10) |||
    (o.sa.setWidth 32 <<< 15) |||
    (o.sb.setWidth 32 <<< 20) |||
    (o.chit.setWidth 32 <<< 25) |||
    ((BitVec.ofBool o.f).setWidth 32 <<< 31)

/-- The fields of `OpMpost` at their places in a word. -/
def readOpMpost (w : BitVec 32) : OpMpost :=
  { ctx := w.extractLsb' 10 3,
    sa := w.extractLsb' 15 5,
    sb := w.extractLsb' 20 5,
    chit := w.extractLsb' 25 6,
    f := w.getLsbD 31 }

/-- The word bits the fields of `OpMpost` occupy. -/
def bitsOpMpost (o : OpMpost) : BitVec 32 :=
    (o.ctx.setWidth 32 <<< 10) |||
    (o.sa.setWidth 32 <<< 15) |||
    (o.sb.setWidth 32 <<< 20) |||
    (o.chit.setWidth 32 <<< 25) |||
    ((BitVec.ofBool o.f).setWidth 32 <<< 31)

/-- The fields of `OpMma` at their places in a word. -/
def readOpMma (w : BitVec 32) : OpMma :=
  { acc := w.extractLsb' 10 2,
    s := w.extractLsb' 12 2,
    sa := w.extractLsb' 15 5,
    sb := w.extractLsb' 20 5,
    chit := w.extractLsb' 25 6,
    f := w.getLsbD 31 }

/-- The word bits the fields of `OpMma` occupy. -/
def bitsOpMma (o : OpMma) : BitVec 32 :=
    (o.acc.setWidth 32 <<< 10) |||
    (o.s.setWidth 32 <<< 12) |||
    (o.sa.setWidth 32 <<< 15) |||
    (o.sb.setWidth 32 <<< 20) |||
    (o.chit.setWidth 32 <<< 25) |||
    ((BitVec.ofBool o.f).setWidth 32 <<< 31)

/-- The fields of `OpMmb` at their places in a word. -/
def readOpMmb (w : BitVec 32) : OpMmb :=
  { acc := w.extractLsb' 10 2,
    shape := w.extractLsb' 12 3,
    sa := w.extractLsb' 15 5,
    sb := w.extractLsb' 20 5,
    chit := w.extractLsb' 25 6,
    f := w.getLsbD 31 }

/-- The word bits the fields of `OpMmb` occupy. -/
def bitsOpMmb (o : OpMmb) : BitVec 32 :=
    (o.acc.setWidth 32 <<< 10) |||
    (o.shape.setWidth 32 <<< 12) |||
    (o.sa.setWidth 32 <<< 15) |||
    (o.sb.setWidth 32 <<< 20) |||
    (o.chit.setWidth 32 <<< 25) |||
    ((BitVec.ofBool o.f).setWidth 32 <<< 31)

/-- The fields of `OpMzero` at their places in a word. -/
def readOpMzero (w : BitVec 32) : OpMzero :=
  { acc := w.extractLsb' 10 2,
    chit := w.extractLsb' 25 6,
    f := w.getLsbD 31 }

/-- The word bits the fields of `OpMzero` occupy. -/
def bitsOpMzero (o : OpMzero) : BitVec 32 :=
    (o.acc.setWidth 32 <<< 10) |||
    (o.chit.setWidth 32 <<< 25) |||
    ((BitVec.ofBool o.f).setWidth 32 <<< 31)

/-- The fields of `OpMdrain` at their places in a word. -/
def readOpMdrain (w : BitVec 32) : OpMdrain :=
  { acc := w.extractLsb' 10 2,
    sa := w.extractLsb' 15 5,
    chit := w.extractLsb' 25 6,
    f := w.getLsbD 31 }

/-- The word bits the fields of `OpMdrain` occupy. -/
def bitsOpMdrain (o : OpMdrain) : BitVec 32 :=
    (o.acc.setWidth 32 <<< 10) |||
    (o.sa.setWidth 32 <<< 15) |||
    (o.chit.setWidth 32 <<< 25) |||
    ((BitVec.ofBool o.f).setWidth 32 <<< 31)

/-- The fields of `OpMscale` at their places in a word. -/
def readOpMscale (w : BitVec 32) : OpMscale :=
  { acc := w.extractLsb' 10 2,
    sa := w.extractLsb' 15 5,
    f := w.getLsbD 31 }

/-- The word bits the fields of `OpMscale` occupy. -/
def bitsOpMscale (o : OpMscale) : BitVec 32 :=
    (o.acc.setWidth 32 <<< 10) |||
    (o.sa.setWidth 32 <<< 15) |||
    ((BitVec.ofBool o.f).setWidth 32 <<< 31)

/-- The fields of `OpMwait` at their places in a word. -/
def readOpMwait (w : BitVec 32) : OpMwait :=
  { mask := w.extractLsb' 10 4,
    all := w.getLsbD 31 }

/-- The word bits the fields of `OpMwait` occupy. -/
def bitsOpMwait (o : OpMwait) : BitVec 32 :=
    (o.mask.setWidth 32 <<< 10) |||
    ((BitVec.ofBool o.all).setWidth 32 <<< 31)

/-- The fields of `OpMsig` at their places in a word. -/
def readOpMsig (w : BitVec 32) : OpMsig :=
  { mask := w.extractLsb' 10 4,
    sa := w.extractLsb' 15 5 }

/-- The word bits the fields of `OpMsig` occupy. -/
def bitsOpMsig (o : OpMsig) : BitVec 32 :=
    (o.mask.setWidth 32 <<< 10) |||
    (o.sa.setWidth 32 <<< 15)

/-- The fields of `OpBk` at their places in a word. -/
def readOpBk (w : BitVec 32) : OpBk :=
  { k := w.extractLsb' 10 3,
    disp := w.extractLsb' 13 19 }

/-- The word bits the fields of `OpBk` occupy. -/
def bitsOpBk (o : OpBk) : BitVec 32 :=
    (o.k.setWidth 32 <<< 10) |||
    (o.disp.setWidth 32 <<< 13)

/-- The fields of `OpBs` at their places in a word. -/
def readOpBs (w : BitVec 32) : OpBs :=
  { cond := w.extractLsb' 7 3,
    sa := w.extractLsb' 10 5,
    disp := w.extractLsb' 15 17 }

/-- The word bits the fields of `OpBs` occupy. -/
def bitsOpBs (o : OpBs) : BitVec 32 :=
    (o.cond.setWidth 32 <<< 7) |||
    (o.sa.setWidth 32 <<< 10) |||
    (o.disp.setWidth 32 <<< 15)

/-- The fields of `OpJ` at their places in a word. -/
def readOpJ (w : BitVec 32) : OpJ :=
  { disp := w.extractLsb' 13 19 }

/-- The word bits the fields of `OpJ` occupy. -/
def bitsOpJ (o : OpJ) : BitVec 32 :=
    (o.disp.setWidth 32 <<< 13)

/-- The fields of `OpCall` at their places in a word. -/
def readOpCall (w : BitVec 32) : OpCall :=
  { frame := w.extractLsb' 10 3,
    disp := w.extractLsb' 13 19 }

/-- The word bits the fields of `OpCall` occupy. -/
def bitsOpCall (o : OpCall) : BitVec 32 :=
    (o.frame.setWidth 32 <<< 10) |||
    (o.disp.setWidth 32 <<< 13)

/-- The fields of `OpCallr` at their places in a word. -/
def readOpCallr (w : BitVec 32) : OpCallr :=
  { sa := w.extractLsb' 15 5,
    wsa := w.getLsbD 25,
    frame := w.extractLsb' 27 3 }

/-- The word bits the fields of `OpCallr` occupy. -/
def bitsOpCallr (o : OpCallr) : BitVec 32 :=
    (o.sa.setWidth 32 <<< 15) |||
    ((BitVec.ofBool o.wsa).setWidth 32 <<< 25) |||
    (o.frame.setWidth 32 <<< 27)

/-- The fields of `OpTok` at their places in a word. -/
def readOpTok (w : BitVec 32) : OpTok :=
  { tok := w.extractLsb' 27 4 }

/-- The word bits the fields of `OpTok` occupy. -/
def bitsOpTok (o : OpTok) : BitVec 32 :=
    (o.tok.setWidth 32 <<< 27)

/-- The fields of `OpCode` at their places in a word. -/
def readOpCode (w : BitVec 32) : OpCode :=
  { code := w.extractLsb' 27 5 }

/-- The word bits the fields of `OpCode` occupy. -/
def bitsOpCode (o : OpCode) : BitVec 32 :=
    (o.code.setWidth 32 <<< 27)

/-- The fields of `OpWatch` at their places in a word. -/
def readOpWatch (w : BitVec 32) : OpWatch :=
  { sd := w.extractLsb' 10 5,
    sa := w.extractLsb' 15 5,
    sb := w.extractLsb' 20 5,
    wsa := w.getLsbD 25,
    wsb := w.getLsbD 26,
    is64 := w.getLsbD 27 }

/-- The word bits the fields of `OpWatch` occupy. -/
def bitsOpWatch (o : OpWatch) : BitVec 32 :=
    (o.sd.setWidth 32 <<< 10) |||
    (o.sa.setWidth 32 <<< 15) |||
    (o.sb.setWidth 32 <<< 20) |||
    ((BitVec.ofBool o.wsa).setWidth 32 <<< 25) |||
    ((BitVec.ofBool o.wsb).setWidth 32 <<< 26) |||
    ((BitVec.ofBool o.is64).setWidth 32 <<< 27)

/-- The fields of `OpTbar` at their places in a word. -/
def readOpTbar (w : BitVec 32) : OpTbar :=
  { num := w.extractLsb' 27 4 }

/-- The word bits the fields of `OpTbar` occupy. -/
def bitsOpTbar (o : OpTbar) : BitVec 32 :=
    (o.num.setWidth 32 <<< 27)

/-- The fields of `OpRtag` at their places in a word. -/
def readOpRtag (w : BitVec 32) : OpRtag :=
  { num := w.extractLsb' 27 3 }

/-- The word bits the fields of `OpRtag` occupy. -/
def bitsOpRtag (o : OpRtag) : BitVec 32 :=
    (o.num.setWidth 32 <<< 27)

/-- The fields of `OpTret` at their places in a word. -/
def readOpTret (w : BitVec 32) : OpTret :=
  { mode := w.extractLsb' 27 2 }

/-- The word bits the fields of `OpTret` occupy. -/
def bitsOpTret (o : OpTret) : BitVec 32 :=
    (o.mode.setWidth 32 <<< 27)

/-- The fields of `OpSget` at their places in a word. -/
def readOpSget (w : BitVec 32) : OpSget :=
  { sd := w.extractLsb' 10 5,
    sel := w.extractLsb' 27 5 }

/-- The word bits the fields of `OpSget` occupy. -/
def bitsOpSget (o : OpSget) : BitVec 32 :=
    (o.sd.setWidth 32 <<< 10) |||
    (o.sel.setWidth 32 <<< 27)

/-- The fields of `OpSset` at their places in a word. -/
def readOpSset (w : BitVec 32) : OpSset :=
  { sa := w.extractLsb' 15 5,
    wsa := w.getLsbD 25,
    sel := w.extractLsb' 27 5 }

/-- The word bits the fields of `OpSset` occupy. -/
def bitsOpSset (o : OpSset) : BitVec 32 :=
    (o.sa.setWidth 32 <<< 15) |||
    ((BitVec.ofBool o.wsa).setWidth 32 <<< 25) |||
    (o.sel.setWidth 32 <<< 27)

/-- The fields of `OpProf` at their places in a word. -/
def readOpProf (w : BitVec 32) : OpProf :=
  { sd := w.extractLsb' 10 5,
    cnt := w.extractLsb' 27 5 }

/-- The word bits the fields of `OpProf` occupy. -/
def bitsOpProf (o : OpProf) : BitVec 32 :=
    (o.sd.setWidth 32 <<< 10) |||
    (o.cnt.setWidth 32 <<< 27)

/-- The fields of `OpFltget` at their places in a word. -/
def readOpFltget (w : BitVec 32) : OpFltget :=
  { vn := w.extractLsb' 10 5,
    frame := w.extractLsb' 28 2 }

/-- The word bits the fields of `OpFltget` occupy. -/
def bitsOpFltget (o : OpFltget) : BitVec 32 :=
    (o.vn.setWidth 32 <<< 10) |||
    (o.frame.setWidth 32 <<< 28)

/-- The fields of `OpFltmask` at their places in a word. -/
def readOpFltmask (w : BitVec 32) : OpFltmask :=
  { sd := w.extractLsb' 10 5,
    frame := w.extractLsb' 28 2 }

/-- The word bits the fields of `OpFltmask` occupy. -/
def bitsOpFltmask (o : OpFltmask) : BitVec 32 :=
    (o.sd.setWidth 32 <<< 10) |||
    (o.frame.setWidth 32 <<< 28)

/-- Accept a decoded instruction only where its field values are defined (R50). -/
def checked (i : Instr) : Except DecodeErr Instr := if i.wf then .ok i else .error .excludedValue

/-- The form of a 16-bit instruction (R38, R40). -/
def decode16 (w : BitVec 16) : Except DecodeErr Instr :=
  if w &&& 0x0003#16 = 0x0002#16 then checked (.dictionaryReference (readOpRef w))
  else if w.getLsbD 0 then .error .undefinedForm
  else match (w.extractLsb' 2 4).toNat with
  | 0 => checked (.compactMov (readOpC w))
  | 1 => checked (.compactIadd (readOpC w))
  | 2 => checked (.compactIsub (readOpC w))
  | 3 => checked (.compactImul (readOpC w))
  | 4 => checked (.compactAnd (readOpC w))
  | 5 => checked (.compactOr (readOpC w))
  | 6 => checked (.compactXor (readOpC w))
  | 7 => checked (.compactShl (readOpC w))
  | 8 => checked (.compactShr (readOpC w))
  | 9 => checked (.compactSar (readOpC w))
  | 10 => checked (.compactIminI32 (readOpC w))
  | 11 => checked (.compactImaxI32 (readOpC w))
  | 12 => checked (.compactFadd (readOpC w))
  | 13 => checked (.compactFsub (readOpC w))
  | 14 => checked (.compactFmul (readOpC w))
  | _ => checked (.compactFmax (readOpC w))

/-- The forms of major 0x01 (R49). -/
def decodeMajor01 (w : BitVec 32) : Except DecodeErr Instr :=
  if w &&& 0xE000007F#32 = 0x00000003#32 then checked (.iadd (readOpR w)) else
  if w &&& 0xE000007F#32 = 0x20000003#32 then checked (.isub (readOpR w)) else
  if w &&& 0xE000007F#32 = 0x40000003#32 then checked (.iaddsatI32 (readOpR w)) else
  if w &&& 0xE000007F#32 = 0x60000003#32 then checked (.iaddsatN32 (readOpR w)) else
  if w &&& 0xE000007F#32 = 0x80000003#32 then checked (.imul (readOpR w)) else
  if w &&& 0xE000007F#32 = 0xA0000003#32 then checked (.imulhI32 (readOpR w)) else
  if w &&& 0xE000007F#32 = 0xC0000003#32 then checked (.imulhN32 (readOpR w)) else
  if w &&& 0xF7E0007F#32 = 0xE0000003#32 then checked (.ineg (readOpR1 w)) else
  .error .undefinedForm

/-- The forms of major 0x02 (R49). -/
def decodeMajor02 (w : BitVec 32) : Except DecodeErr Instr :=
  if w &&& 0xE000007F#32 = 0x00000005#32 then checked (.iminI32 (readOpR w)) else
  if w &&& 0xE000007F#32 = 0x20000005#32 then checked (.iminN32 (readOpR w)) else
  if w &&& 0xE000007F#32 = 0x40000005#32 then checked (.imaxI32 (readOpR w)) else
  if w &&& 0xE000007F#32 = 0x60000005#32 then checked (.imaxN32 (readOpR w)) else
  if w &&& 0xE000007F#32 = 0x80000005#32 then checked (.and (readOpR w)) else
  if w &&& 0xE000007F#32 = 0xA0000005#32 then checked (.or (readOpR w)) else
  if w &&& 0xE000007F#32 = 0xC0000005#32 then checked (.xor (readOpR w)) else
  if w &&& 0xE000007F#32 = 0xE0000005#32 then checked (.andn (readOpR w)) else
  .error .undefinedForm

/-- The forms of major 0x03 (R49). -/
def decodeMajor03 (w : BitVec 32) : Except DecodeErr Instr :=
  if w &&& 0xE000007F#32 = 0x00000007#32 then checked (.shl (readOpR w)) else
  if w &&& 0xE000007F#32 = 0x20000007#32 then checked (.shr (readOpR w)) else
  if w &&& 0xE000007F#32 = 0x40000007#32 then checked (.sar (readOpR w)) else
  if w &&& 0xE000007F#32 = 0x60000007#32 then checked (.rotl (readOpR w)) else
  if w &&& 0xF7E0007F#32 = 0x80000007#32 then checked (.clz (readOpR1 w)) else
  if w &&& 0xF7E0007F#32 = 0xA0000007#32 then checked (.popc (readOpR1 w)) else
  if w &&& 0xF7E0007F#32 = 0xC0000007#32 then checked (.brev (readOpR1 w)) else
  if w &&& 0xF7E0007F#32 = 0xE0000007#32 then checked (.not (readOpR1 w)) else
  .error .undefinedForm

/-- The forms of major 0x04 (R49). -/
def decodeMajor04 (w : BitVec 32) : Except DecodeErr Instr :=
  if w &&& 0xE000007F#32 = 0x00000009#32 then checked (.bfxN32 (readOpR w)) else
  if w &&& 0xE000007F#32 = 0x20000009#32 then checked (.bfxI32 (readOpR w)) else
  if w &&& 0xE000007F#32 = 0x40000009#32 then checked (.bfi (readOpR w)) else
  if w &&& 0xE000007F#32 = 0x60000009#32 then checked (.sel (readOpR w)) else
  if w &&& 0xF7E0007F#32 = 0x80000009#32 then checked (.mov (readOpR1 w)) else
  if w &&& 0xE000007F#32 = 0xA0000009#32 then checked (.lea1 (readOpR w)) else
  if w &&& 0xE000007F#32 = 0xC0000009#32 then checked (.lea2 (readOpR w)) else
  if w &&& 0xE000007F#32 = 0xE0000009#32 then checked (.lea3 (readOpR w)) else
  .error .undefinedForm

/-- The forms of major 0x05 (R49). -/
def decodeMajor05 (w : BitVec 32) : Except DecodeErr Instr :=
  if w &&& 0xC000007F#32 = 0x0000000B#32 then checked (.imad (readOpF w)) else
  .error .undefinedForm

/-- The forms of major 0x06 (R49). -/
def decodeMajor06 (w : BitVec 32) : Except DecodeErr Instr :=
  if w &&& 0xE000007F#32 = 0x0000000D#32 then checked (.icmpI32 (readOpCmp w)) else
  if w &&& 0xE000007F#32 = 0x2000000D#32 then checked (.icmpN32 (readOpCmp w)) else
  .error .undefinedForm

/-- The forms of major 0x07 (R49). -/
def decodeMajor07 (w : BitVec 32) : Except DecodeErr Instr :=
  if w &&& 0x0000007F#32 = 0x0000000F#32 then checked (.iaddi (readOpI w)) else
  .error .undefinedForm

/-- The forms of major 0x08 (R49). -/
def decodeMajor08 (w : BitVec 32) : Except DecodeErr Instr :=
  if w &&& 0x0000007F#32 = 0x00000011#32 then checked (.andi (readOpI w)) else
  .error .undefinedForm

/-- The forms of major 0x09 (R49). -/
def decodeMajor09 (w : BitVec 32) : Except DecodeErr Instr :=
  if w &&& 0x0000007F#32 = 0x00000013#32 then checked (.ori (readOpI w)) else
  .error .undefinedForm

/-- The forms of major 0x0A (R49). -/
def decodeMajor0A (w : BitVec 32) : Except DecodeErr Instr :=
  if w &&& 0x0000007F#32 = 0x00000015#32 then checked (.xori (readOpI w)) else
  .error .undefinedForm

/-- The forms of major 0x0B (R49). -/
def decodeMajor0B (w : BitVec 32) : Except DecodeErr Instr :=
  if w &&& 0xE000007F#32 = 0x00000017#32 then checked (.shfi (readOpShfi w)) else
  .error .undefinedForm

/-- The forms of major 0x0C (R49). -/
def decodeMajor0C (w : BitVec 32) : Except DecodeErr Instr :=
  if w &&& 0x003F807F#32 = 0x00000019#32 then checked (.movi (readOpMovi w)) else
  .error .undefinedForm

/-- The forms of major 0x0D (R49). -/
def decodeMajor0D (w : BitVec 32) : Except DecodeErr Instr :=
  if w &&& 0x0000807F#32 = 0x0000001B#32 then checked (.movw (readOpW w)) else
  if w &&& 0x0000807F#32 = 0x0000801B#32 then checked (.movwHi (readOpW w)) else
  .error .undefinedForm

/-- The forms of major 0x10 (R49). -/
def decodeMajor10 (w : BitVec 32) : Except DecodeErr Instr :=
  if w &&& 0xE000007F#32 = 0x00000021#32 then checked (.fadd (readOpR w)) else
  if w &&& 0xE000007F#32 = 0x20000021#32 then checked (.fsub (readOpR w)) else
  if w &&& 0xE000007F#32 = 0x40000021#32 then checked (.fmul (readOpR w)) else
  if w &&& 0xE000007F#32 = 0x60000021#32 then checked (.fdiv (readOpR w)) else
  if w &&& 0xE000007F#32 = 0x80000021#32 then checked (.fmin (readOpR w)) else
  if w &&& 0xE000007F#32 = 0xA0000021#32 then checked (.fmax (readOpR w)) else
  if w &&& 0xE000007F#32 = 0xC0000021#32 then checked (.fminn (readOpR w)) else
  if w &&& 0xE000007F#32 = 0xE0000021#32 then checked (.fmaxn (readOpR w)) else
  .error .undefinedForm

/-- The forms of major 0x11 (R49). -/
def decodeMajor11 (w : BitVec 32) : Except DecodeErr Instr :=
  if w &&& 0xC000007F#32 = 0x00000023#32 then checked (.ffma (readOpF w)) else
  if w &&& 0xC000007F#32 = 0x40000023#32 then checked (.fnma (readOpF w)) else
  if w &&& 0xC000007F#32 = 0x80000023#32 then checked (.pfmaBf16x2 (readOpF w)) else
  if w &&& 0xC000007F#32 = 0xC0000023#32 then checked (.pfmaF16x2 (readOpF w)) else
  .error .undefinedForm

/-- The forms of major 0x12 (R49). -/
def decodeMajor12 (w : BitVec 32) : Except DecodeErr Instr :=
  if w &&& 0xF7E0007F#32 = 0x00000025#32 then checked (.fsqrt (readOpR1 w)) else
  if w &&& 0xF7E0007F#32 = 0x20000025#32 then checked (.frcp (readOpR1 w)) else
  if w &&& 0xF7E0007F#32 = 0x40000025#32 then checked (.frsq (readOpR1 w)) else
  if w &&& 0xF7E0007F#32 = 0x60000025#32 then checked (.exp2 (readOpR1 w)) else
  if w &&& 0xF7E0007F#32 = 0x80000025#32 then checked (.fneg (readOpR1 w)) else
  if w &&& 0xF7E0007F#32 = 0xA0000025#32 then checked (.fabs (readOpR1 w)) else
  if w &&& 0xF7E0007F#32 = 0xC0000025#32 then checked (.fclass (readOpR1 w)) else
  if w &&& 0xF000007F#32 = 0xE0000025#32 then checked (.fround (readOpFround w)) else
  .error .undefinedForm

/-- The forms of major 0x13 (R49). -/
def decodeMajor13 (w : BitVec 32) : Except DecodeErr Instr :=
  if w &&& 0xE000007F#32 = 0x00000027#32 then checked (.fcmpF32 (readOpCmp w)) else
  if w &&& 0xE000007F#32 = 0x20000027#32 then checked (.fcmpF16 (readOpCmp w)) else
  if w &&& 0xE000007F#32 = 0x40000027#32 then checked (.fcmpBf16 (readOpCmp w)) else
  .error .undefinedForm

/-- The forms of major 0x14 (R49). -/
def decodeMajor14 (w : BitVec 32) : Except DecodeErr Instr :=
  if w &&& 0x1000007F#32 = 0x00000029#32 then checked (.fcvt (readOpFcvt w)) else
  .error .undefinedForm

/-- The forms of major 0x15 (R49). -/
def decodeMajor15 (w : BitVec 32) : Except DecodeErr Instr :=
  if w &&& 0xE000007F#32 = 0x0000002B#32 then checked (.paddBf16x2 (readOpR w)) else
  if w &&& 0xE000007F#32 = 0x2000002B#32 then checked (.paddF16x2 (readOpR w)) else
  if w &&& 0xE000007F#32 = 0x4000002B#32 then checked (.pmulBf16x2 (readOpR w)) else
  if w &&& 0xE000007F#32 = 0x6000002B#32 then checked (.pmulF16x2 (readOpR w)) else
  if w &&& 0xE000007F#32 = 0x8000002B#32 then checked (.pk2h (readOpR w)) else
  if w &&& 0xE000007F#32 = 0xA000002B#32 then checked (.fscale (readOpR w)) else
  .error .undefinedForm

/-- The forms of major 0x16 (R49). -/
def decodeMajor16 (w : BitVec 32) : Except DecodeErr Instr :=
  if w &&& 0xF7E0007F#32 = 0x0000002D#32 then checked (.bexp (readOpR1 w)) else
  if w &&& 0xE000007F#32 = 0x2000002D#32 then checked (.bcvt (readOpR w)) else
  if w &&& 0xE000007F#32 = 0x4000002D#32 then checked (.badd (readOpR w)) else
  if w &&& 0xE000007F#32 = 0x6000002D#32 then checked (.bfin (readOpR w)) else
  .error .undefinedForm

/-- The forms of major 0x18 (R49). -/
def decodeMajor18 (w : BitVec 32) : Except DecodeErr Instr :=
  if w &&& 0xE000007F#32 = 0x00000031#32 then checked (.shflIdx (readOpR w)) else
  if w &&& 0xE000007F#32 = 0x20000031#32 then checked (.shflXor (readOpR w)) else
  if w &&& 0xE000007F#32 = 0x40000031#32 then checked (.shflUp (readOpR w)) else
  if w &&& 0xE000007F#32 = 0x60000031#32 then checked (.shflDown (readOpR w)) else
  if w &&& 0xF7E0007F#32 = 0x80000031#32 then checked (.ballot (readOpR1 w)) else
  if w &&& 0xE000007F#32 = 0xA0000031#32 then checked (.topkMax (readOpR w)) else
  if w &&& 0xE000007F#32 = 0xC0000031#32 then checked (.topkMin (readOpR w)) else
  .error .undefinedForm

/-- The forms of major 0x19 (R49). -/
def decodeMajor19 (w : BitVec 32) : Except DecodeErr Instr :=
  if w &&& 0xF000007F#32 = 0x00000033#32 then checked (.redux (readOpRedux w)) else
  if w &&& 0xF000007F#32 = 0x20000033#32 then checked (.scanInc (readOpRedux w)) else
  if w &&& 0xF000007F#32 = 0x40000033#32 then checked (.scanExc (readOpRedux w)) else
  .error .undefinedForm

/-- The forms of major 0x1A (R49). -/
def decodeMajor1A (w : BitVec 32) : Except DecodeErr Instr :=
  if w &&& 0xF7E0007F#32 = 0x00000035#32 then checked (.maxidxF32 (readOpR1 w)) else
  if w &&& 0xF7E0007F#32 = 0x20000035#32 then checked (.maxidxF16 (readOpR1 w)) else
  if w &&& 0xF7E0007F#32 = 0x40000035#32 then checked (.maxidxBf16 (readOpR1 w)) else
  if w &&& 0xF7E0007F#32 = 0x60000035#32 then checked (.minidxF32 (readOpR1 w)) else
  if w &&& 0xF7E0007F#32 = 0x80000035#32 then checked (.minidxF16 (readOpR1 w)) else
  if w &&& 0xF7E0007F#32 = 0xA0000035#32 then checked (.minidxBf16 (readOpR1 w)) else
  .error .undefinedForm

/-- The forms of major 0x1B (R49). -/
def decodeMajor1B (w : BitVec 32) : Except DecodeErr Instr :=
  if w &&& 0xFF1C707F#32 = 0x00000037#32 then checked (.kand (readOpK2 w)) else
  if w &&& 0xFF1C707F#32 = 0x20000037#32 then checked (.kor (readOpK2 w)) else
  if w &&& 0xFF1C707F#32 = 0x40000037#32 then checked (.kxor (readOpK2 w)) else
  if w &&& 0xFF1C707F#32 = 0x60000037#32 then checked (.kandn (readOpK2 w)) else
  if w &&& 0xFFFC707F#32 = 0x80000037#32 then checked (.knot (readOpK1 w)) else
  if w &&& 0xFFFC007F#32 = 0xA0000037#32 then checked (.kpop (readOpKv w)) else
  if w &&& 0xFFFC007F#32 = 0xC0000037#32 then checked (.kffs (readOpKv w)) else
  if w &&& 0xFFFC707F#32 = 0xE0000037#32 then checked (.kmov (readOpK1 w)) else
  .error .undefinedForm

/-- The forms of major 0x1C (R49). -/
def decodeMajor1C (w : BitVec 32) : Except DecodeErr Instr :=
  if w &&& 0xF7D0007F#32 = 0x00000039#32 then checked (.vbcast (readOpVbcast w)) else
  if w &&& 0xF00041FF#32 = 0x20000039#32 then checked (.vread (readOpVread w)) else
  if w &&& 0xFFFC41FF#32 = 0x40000039#32 then checked (.kget (readOpKget w)) else
  if w &&& 0xF7F0707F#32 = 0x60000039#32 then checked (.kset (readOpKset w)) else
  if w &&& 0xFFFFC1FF#32 = 0x80000039#32 then checked (.emget (readOpEmget w)) else
  if w &&& 0xF7F07FFF#32 = 0xA0000039#32 then checked (.emset (readOpEmset w)) else
  if w &&& 0xFFFC7FFF#32 = 0xC0000039#32 then checked (.emand (readOpEmand w)) else
  .error .undefinedForm

/-- The forms of major 0x1E (R49). -/
def decodeMajor1E (w : BitVec 32) : Except DecodeErr Instr :=
  if w &&& 0xF80003FF#32 = 0x0000003D#32 then checked (.sadd (readOpU w)) else
  if w &&& 0xF80003FF#32 = 0x000000BD#32 then checked (.ssub (readOpU w)) else
  if w &&& 0xF80003FF#32 = 0x0000013D#32 then checked (.smul (readOpU w)) else
  if w &&& 0xF80003FF#32 = 0x000001BD#32 then checked (.sand (readOpU w)) else
  if w &&& 0xF80003FF#32 = 0x0000023D#32 then checked (.sor (readOpU w)) else
  if w &&& 0xF80003FF#32 = 0x000002BD#32 then checked (.sxor (readOpU w)) else
  if w &&& 0xF80003FF#32 = 0x0000033D#32 then checked (.sshl (readOpU w)) else
  if w &&& 0xF80003FF#32 = 0x000003BD#32 then checked (.sshr (readOpU w)) else
  .error .undefinedForm

/-- The forms of major 0x1F (R49). -/
def decodeMajor1F (w : BitVec 32) : Except DecodeErr Instr :=
  if w &&& 0x000003FF#32 = 0x0000003F#32 then checked (.saddi (readOpV w)) else
  if w &&& 0x000003FF#32 = 0x000000BF#32 then checked (.sandi (readOpV w)) else
  if w &&& 0x000003FF#32 = 0x0000013F#32 then checked (.sori (readOpV w)) else
  if w &&& 0x001F83FF#32 = 0x000001BF#32 then checked (.smovi (readOpSmovi w)) else
  if w &&& 0x000003FF#32 = 0x0000023F#32 then checked (.sshli (readOpV w)) else
  if w &&& 0x000003FF#32 = 0x000002BF#32 then checked (.sshri (readOpV w)) else
  if w &&& 0x000003FF#32 = 0x0000033F#32 then checked (.ssari (readOpV w)) else
  .error .undefinedForm

/-- The forms of major 0x20 (R49). -/
def decodeMajor20 (w : BitVec 32) : Except DecodeErr Instr :=
  if w &&& 0x000003FF#32 = 0x00000041#32 then checked (.sld64 (readOpV w)) else
  if w &&& 0x000003FF#32 = 0x000000C1#32 then checked (.sld32 (readOpV w)) else
  if w &&& 0x000003FF#32 = 0x00000141#32 then checked (.sst64 (readOpV w)) else
  if w &&& 0x000003FF#32 = 0x000001C1#32 then checked (.sst32 (readOpV w)) else
  if w &&& 0x000003FF#32 = 0x00000241#32 then checked (.slda (readOpV w)) else
  if w &&& 0x000003FF#32 = 0x000002C1#32 then checked (.sstl (readOpV w)) else
  .error .undefinedForm

/-- The forms of major 0x22 (R49). -/
def decodeMajor22 (w : BitVec 32) : Except DecodeErr Instr :=
  if w &&& 0x0000007F#32 = 0x00000045#32 then checked (.ld (readOpM w)) else
  .error .undefinedForm

/-- The forms of major 0x23 (R49). -/
def decodeMajor23 (w : BitVec 32) : Except DecodeErr Instr :=
  if w &&& 0x0000007F#32 = 0x00000047#32 then checked (.st (readOpM w)) else
  .error .undefinedForm

/-- The forms of major 0x24 (R49). -/
def decodeMajor24 (w : BitVec 32) : Except DecodeErr Instr :=
  if w &&& 0x0000007F#32 = 0x00000049#32 then checked (.atom (readOpM w)) else
  .error .undefinedForm

/-- The forms of major 0x25 (R49). -/
def decodeMajor25 (w : BitVec 32) : Except DecodeErr Instr :=
  if w &&& 0x0000007F#32 = 0x0000004B#32 then checked (.lda (readOpM w)) else
  .error .undefinedForm

/-- The forms of major 0x26 (R49). -/
def decodeMajor26 (w : BitVec 32) : Except DecodeErr Instr :=
  if w &&& 0x0000007F#32 = 0x0000004D#32 then checked (.stl (readOpM w)) else
  .error .undefinedForm

/-- The forms of major 0x27 (R49). -/
def decodeMajor27 (w : BitVec 32) : Except DecodeErr Instr :=
  if w &&& 0xFFFF83FF#32 = 0x0000004F#32 then checked (.fenceFull (readOpFence w)) else
  if w &&& 0xFFFF83FF#32 = 0x000000CF#32 then checked (.fenceAcq (readOpFence w)) else
  if w &&& 0xFFFF83FF#32 = 0x0000014F#32 then checked (.fenceRel (readOpFence w)) else
  if w &&& 0xFFFF83FF#32 = 0x000001CF#32 then checked (.fenceEng (readOpFence w)) else
  .error .undefinedForm

/-- The forms of major 0x28 (R49). -/
def decodeMajor28 (w : BitVec 32) : Except DecodeErr Instr :=
  if w &&& 0xF0407E7F#32 = 0x00000051#32 then checked (.pgreq (readOpPgreq w)) else
  if w &&& 0xFC407E7F#32 = 0x10000051#32 then checked (.pfch (readOpPfch w)) else
  .error .undefinedForm

/-- The forms of major 0x2A (R49). -/
def decodeMajor2A (w : BitVec 32) : Except DecodeErr Instr :=
  if w &&& 0x0000007F#32 = 0x00000055#32 then checked (.bld (readOpB w)) else
  .error .undefinedForm

/-- The forms of major 0x2B (R49). -/
def decodeMajor2B (w : BitVec 32) : Except DecodeErr Instr :=
  if w &&& 0x0000007F#32 = 0x00000057#32 then checked (.bst (readOpB w)) else
  .error .undefinedForm

/-- The forms of major 0x2C (R49). -/
def decodeMajor2C (w : BitVec 32) : Except DecodeErr Instr :=
  if w &&& 0x0000007F#32 = 0x00000059#32 then checked (.batom (readOpMA w)) else
  .error .undefinedForm

/-- The forms of major 0x2D (R49). -/
def decodeMajor2D (w : BitVec 32) : Except DecodeErr Instr :=
  if w &&& 0x7FF003FF#32 = 0x0000005B#32 then checked (.bxnew (readOpBxnew w)) else
  if w &&& 0xFFF07FFF#32 = 0x000000DB#32 then checked (.bxfree (readOpXa w)) else
  if w &&& 0xFE007FFF#32 = 0x0000015B#32 then checked (.bxgive (readOpXab w)) else
  if w &&& 0x7FFF83FF#32 = 0x000001DB#32 then checked (.bxtake (readOpXd w)) else
  if w &&& 0x80007FFF#32 = 0x8000025B#32 then checked (.bxlend (readOpBxlend w)) else
  if w &&& 0xFFF07FFF#32 = 0x000002DB#32 then checked (.settle (readOpXa w)) else
  if w &&& 0xFFF003FF#32 = 0x0000035B#32 then checked (.bxinfo (readOpXad w)) else
  if w &&& 0xFFF07FFF#32 = 0x000003DB#32 then checked (.bxrecall (readOpXa w)) else
  .error .undefinedForm

/-- The forms of major 0x2E (R49). -/
def decodeMajor2E (w : BitVec 32) : Except DecodeErr Instr :=
  if w &&& 0x01F07FFF#32 = 0x0000005D#32 then checked (.cpy (readOpCpy w)) else
  if w &&& 0x000003FF#32 = 0x000000DD#32 then checked (.cpyx (readOpCpyx w)) else
  if w &&& 0x00007FFF#32 = 0x0000015D#32 then checked (.cpyq (readOpX2 w)) else
  .error .undefinedForm

/-- The forms of major 0x2F (R49). -/
def decodeMajor2F (w : BitVec 32) : Except DecodeErr Instr :=
  if w &&& 0x00007FFF#32 = 0x0000005F#32 then checked (.xsend (readOpX2 w)) else
  if w &&& 0x00007FFF#32 = 0x000000DF#32 then checked (.xrecv (readOpX2 w)) else
  if w &&& 0x00007FFF#32 = 0x0000015F#32 then checked (.xred (readOpX2 w)) else
  .error .undefinedForm

/-- The forms of major 0x30 (R49). -/
def decodeMajor30 (w : BitVec 32) : Except DecodeErr Instr :=
  if w &&& 0xFDF003FF#32 = 0x00000061#32 then checked (.chwa (readOpUad w)) else
  if w &&& 0xFDF003FF#32 = 0x000000E1#32 then checked (.chwl (readOpUad w)) else
  if w &&& 0xFDF003FF#32 = 0x00000161#32 then checked (.chff (readOpUad w)) else
  if w &&& 0xFDF07FFF#32 = 0x000001E1#32 then checked (.chclr (readOpUa w)) else
  if w &&& 0xF5F003FF#32 = 0x00000261#32 then checked (.chget (readOpChget w)) else
  if w &&& 0xFDF07FFF#32 = 0x000002E1#32 then checked (.chset (readOpUa w)) else
  .error .undefinedForm

/-- The forms of major 0x31 (R49). -/
def decodeMajor31 (w : BitVec 32) : Except DecodeErr Instr :=
  if w &&& 0xFDF07FFF#32 = 0x00000063#32 then checked (.sqmint (readOpUa w)) else
  if w &&& 0xF00003FF#32 = 0x000000E3#32 then checked (.sqres (readOpSqres w)) else
  if w &&& 0xF80003FF#32 = 0x00000163#32 then checked (.sqcom (readOpUn w)) else
  if w &&& 0x05F003FF#32 = 0x000001E3#32 then checked (.sqlen (readOpSqlen w)) else
  if w &&& 0x000003FF#32 = 0x00000263#32 then checked (.sqwait (readOpSqwait w)) else
  if w &&& 0xF80003FF#32 = 0x000002E3#32 then checked (.sqfork (readOpUn w)) else
  if w &&& 0x05F07FFF#32 = 0x00000363#32 then checked (.sqbind (readOpSqbind w)) else
  if w &&& 0xFDF07FFF#32 = 0x000003E3#32 then checked (.sqdrop (readOpUa w)) else
  .error .undefinedForm

/-- The forms of major 0x32 (R49). -/
def decodeMajor32 (w : BitVec 32) : Except DecodeErr Instr :=
  if w &&& 0xF8007FFF#32 = 0x00000065#32 then checked (.sqext (readOpUab w)) else
  if w &&& 0xF80003FF#32 = 0x000000E5#32 then checked (.sqsum (readOpU w)) else
  if w &&& 0xF80003FF#32 = 0x00000165#32 then checked (.sqaddr (readOpU w)) else
  if w &&& 0x05F003FF#32 = 0x000001E5#32 then checked (.sqinfo (readOpSqinfo w)) else
  .error .undefinedForm

/-- The forms of major 0x34 (R49). -/
def decodeMajor34 (w : BitVec 32) : Except DecodeErr Instr :=
  if w &&& 0x000003FF#32 = 0x00000069#32 then checked (.menc (readOpMenc w)) else
  if w &&& 0x00007FFF#32 = 0x000000E9#32 then checked (.mdec (readOpX2 w)) else
  if w &&& 0x000063FF#32 = 0x00000169#32 then checked (.mpost (readOpMpost w)) else
  .error .undefinedForm

/-- The forms of major 0x36 (R49). -/
def decodeMajor36 (w : BitVec 32) : Except DecodeErr Instr :=
  if w &&& 0x000043FF#32 = 0x0000006D#32 then checked (.mma (readOpMma w)) else
  if w &&& 0x000003FF#32 = 0x000000ED#32 then checked (.mmb (readOpMmb w)) else
  if w &&& 0x01FFF3FF#32 = 0x0000016D#32 then checked (.mzero (readOpMzero w)) else
  if w &&& 0x01F073FF#32 = 0x000001ED#32 then checked (.mdrain (readOpMdrain w)) else
  if w &&& 0x000043FF#32 = 0x0000026D#32 then checked (.mstore (readOpMma w)) else
  if w &&& 0x7FF073FF#32 = 0x000002ED#32 then checked (.mscale (readOpMscale w)) else
  .error .undefinedForm

/-- The forms of major 0x37 (R49). -/
def decodeMajor37 (w : BitVec 32) : Except DecodeErr Instr :=
  if w &&& 0x7FFFC3FF#32 = 0x0000006F#32 then checked (.mwait (readOpMwait w)) else
  if w &&& 0xFFF043FF#32 = 0x000000EF#32 then checked (.msig (readOpMsig w)) else
  if w &&& 0x7FFF83FF#32 = 0x0000016F#32 then checked (.mpick (readOpXd w)) else
  if w &&& 0xFFF07FFF#32 = 0x000001EF#32 then checked (.mrel (readOpXa w)) else
  .error .undefinedForm

/-- The forms of major 0x38 (R49). -/
def decodeMajor38 (w : BitVec 32) : Except DecodeErr Instr :=
  if w &&& 0x000003FF#32 = 0x00000071#32 then checked (.bk (readOpBk w)) else
  if w &&& 0x000003FF#32 = 0x000000F1#32 then checked (.bkany (readOpBk w)) else
  if w &&& 0x000003FF#32 = 0x00000171#32 then checked (.bkall (readOpBk w)) else
  if w &&& 0x000003FF#32 = 0x000001F1#32 then checked (.bknone (readOpBk w)) else
  .error .undefinedForm

/-- The forms of major 0x39 (R49). -/
def decodeMajor39 (w : BitVec 32) : Except DecodeErr Instr :=
  if w &&& 0x0000007F#32 = 0x00000073#32 then checked (.bs (readOpBs w)) else
  .error .undefinedForm

/-- The forms of major 0x3A (R49). -/
def decodeMajor3A (w : BitVec 32) : Except DecodeErr Instr :=
  if w &&& 0x00001FFF#32 = 0x00000075#32 then checked (.jmp (readOpJ w)) else
  if w &&& 0x000003FF#32 = 0x000000F5#32 then checked (.call (readOpCall w)) else
  .error .undefinedForm

/-- The forms of major 0x3B (R49). -/
def decodeMajor3B (w : BitVec 32) : Except DecodeErr Instr :=
  if w &&& 0xFDF07FFF#32 = 0x00000077#32 then checked (.jmpr (readOpUa w)) else
  if w &&& 0xC5F07FFF#32 = 0x000000F7#32 then checked (.callr (readOpCallr w)) else
  if w &&& 0xFFFFFFFF#32 = 0x00000177#32 then checked (.ret) else
  if w &&& 0x87FFFFFF#32 = 0x000001F7#32 then checked (.join (readOpTok w)) else
  if w &&& 0xFFFFFFFF#32 = 0x00000277#32 then checked (.exit) else
  if w &&& 0xFFFFFFFF#32 = 0x000002F7#32 then checked (.yield) else
  if w &&& 0x07FFFFFF#32 = 0x00000377#32 then checked (.brkp (readOpCode w)) else
  if w &&& 0xF00003FF#32 = 0x000003F7#32 then checked (.watch (readOpWatch w)) else
  .error .undefinedForm

/-- The forms of major 0x3C (R49). -/
def decodeMajor3C (w : BitVec 32) : Except DecodeErr Instr :=
  if w &&& 0x87FFFFFF#32 = 0x00000079#32 then checked (.tbarArrive (readOpTbar w)) else
  if w &&& 0x87FFFFFF#32 = 0x000000F9#32 then checked (.tbarWait (readOpTbar w)) else
  if w &&& 0x87FFFFFF#32 = 0x00000179#32 then checked (.tbarSync (readOpTbar w)) else
  if w &&& 0xC7FFFFFF#32 = 0x000001F9#32 then checked (.cbarArrive (readOpRtag w)) else
  if w &&& 0xC7FFFFFF#32 = 0x00000279#32 then checked (.cbarWait (readOpRtag w)) else
  if w &&& 0xC7FFFFFF#32 = 0x000002F9#32 then checked (.cbarSync (readOpRtag w)) else
  if w &&& 0xC7FFFFFF#32 = 0x00000379#32 then checked (.gbarSync (readOpRtag w)) else
  .error .undefinedForm

/-- The forms of major 0x3D (R49). -/
def decodeMajor3D (w : BitVec 32) : Except DecodeErr Instr :=
  if w &&& 0x07FFFFFF#32 = 0x0000007B#32 then checked (.trap (readOpCode w)) else
  if w &&& 0xE7FFFFFF#32 = 0x000000FB#32 then checked (.tret (readOpTret w)) else
  if w &&& 0xFFFFFFFF#32 = 0x0000017B#32 then checked (.tfence) else
  if w &&& 0x07FF83FF#32 = 0x000001FB#32 then checked (.sget (readOpSget w)) else
  if w &&& 0x05F07FFF#32 = 0x0000027B#32 then checked (.sset (readOpSset w)) else
  if w &&& 0xF8007FFF#32 = 0x000002FB#32 then checked (.dload (readOpUab w)) else
  if w &&& 0xFFFFFFFF#32 = 0x0000037B#32 then checked (.dfence) else
  if w &&& 0xFDF003FF#32 = 0x000003FB#32 then checked (.dget (readOpUad w)) else
  .error .undefinedForm

/-- The forms of major 0x3E (R49). -/
def decodeMajor3E (w : BitVec 32) : Except DecodeErr Instr :=
  if w &&& 0x07FF83FF#32 = 0x0000007D#32 then checked (.prof (readOpProf w)) else
  if w &&& 0xCFFF83FF#32 = 0x000000FD#32 then checked (.fltget (readOpFltget w)) else
  if w &&& 0xCFFF83FF#32 = 0x080000FD#32 then checked (.fltgetMask (readOpFltmask w)) else
  .error .undefinedForm

/-- The form of a 32-bit instruction: the major opcode in bits 6:1 chooses (R41, R49). -/
def decode32 (w : BitVec 32) : Except DecodeErr Instr :=
  match (w.extractLsb' 1 6).toNat with
  | 0x01 => decodeMajor01 w
  | 0x02 => decodeMajor02 w
  | 0x03 => decodeMajor03 w
  | 0x04 => decodeMajor04 w
  | 0x05 => decodeMajor05 w
  | 0x06 => decodeMajor06 w
  | 0x07 => decodeMajor07 w
  | 0x08 => decodeMajor08 w
  | 0x09 => decodeMajor09 w
  | 0x0A => decodeMajor0A w
  | 0x0B => decodeMajor0B w
  | 0x0C => decodeMajor0C w
  | 0x0D => decodeMajor0D w
  | 0x10 => decodeMajor10 w
  | 0x11 => decodeMajor11 w
  | 0x12 => decodeMajor12 w
  | 0x13 => decodeMajor13 w
  | 0x14 => decodeMajor14 w
  | 0x15 => decodeMajor15 w
  | 0x16 => decodeMajor16 w
  | 0x18 => decodeMajor18 w
  | 0x19 => decodeMajor19 w
  | 0x1A => decodeMajor1A w
  | 0x1B => decodeMajor1B w
  | 0x1C => decodeMajor1C w
  | 0x1E => decodeMajor1E w
  | 0x1F => decodeMajor1F w
  | 0x20 => decodeMajor20 w
  | 0x22 => decodeMajor22 w
  | 0x23 => decodeMajor23 w
  | 0x24 => decodeMajor24 w
  | 0x25 => decodeMajor25 w
  | 0x26 => decodeMajor26 w
  | 0x27 => decodeMajor27 w
  | 0x28 => decodeMajor28 w
  | 0x2A => decodeMajor2A w
  | 0x2B => decodeMajor2B w
  | 0x2C => decodeMajor2C w
  | 0x2D => decodeMajor2D w
  | 0x2E => decodeMajor2E w
  | 0x2F => decodeMajor2F w
  | 0x30 => decodeMajor30 w
  | 0x31 => decodeMajor31 w
  | 0x32 => decodeMajor32 w
  | 0x34 => decodeMajor34 w
  | 0x36 => decodeMajor36 w
  | 0x37 => decodeMajor37 w
  | 0x38 => decodeMajor38 w
  | 0x39 => decodeMajor39 w
  | 0x3A => decodeMajor3A w
  | 0x3B => decodeMajor3B w
  | 0x3C => decodeMajor3C w
  | 0x3D => decodeMajor3D w
  | 0x3E => decodeMajor3E w
  | _ => .error .undefinedMajor

/-- The length in bytes of the instruction whose first halfword is `h` (R35). -/
def lengthOf (h : BitVec 16) : Nat := if h.getLsbD 0 then 4 else 2

/-- A little-endian halfword (R35). -/
def half (lo hi : Byte) : BitVec 16 := hi ++ lo

/-- Read one instruction from the front of `bs`: its form, its length and the bytes after it (R35). -/
def decodeBytes (bs : List Byte) : Except DecodeErr (Instr × Nat × List Byte) :=
  match bs with
  | b0 :: b1 :: r =>
    let h := half b0 b1
    if h.getLsbD 0 then
      match r with
      | b2 :: b3 :: r' => (decode32 (half b2 b3 ++ h)).map fun i => (i, 4, r')
      | _ => .error .truncated
    else (decode16 h).map fun i => (i, 2, r)
  | _ => .error .truncated

/-- The bits of an encoded form. -/
inductive Code where
  | half (w : BitVec 16)
  | word (w : BitVec 32)
  deriving DecidableEq, Repr

/-- The encoding of a form; an operation without an encoding has none. -/
def encode : Instr → Option Code
  | .compactMov o => some (.half (0x0000#16 ||| bitsOpC o))
  | .compactIadd o => some (.half (0x0004#16 ||| bitsOpC o))
  | .compactIsub o => some (.half (0x0008#16 ||| bitsOpC o))
  | .compactImul o => some (.half (0x000C#16 ||| bitsOpC o))
  | .compactAnd o => some (.half (0x0010#16 ||| bitsOpC o))
  | .compactOr o => some (.half (0x0014#16 ||| bitsOpC o))
  | .compactXor o => some (.half (0x0018#16 ||| bitsOpC o))
  | .compactShl o => some (.half (0x001C#16 ||| bitsOpC o))
  | .compactShr o => some (.half (0x0020#16 ||| bitsOpC o))
  | .compactSar o => some (.half (0x0024#16 ||| bitsOpC o))
  | .compactIminI32 o => some (.half (0x0028#16 ||| bitsOpC o))
  | .compactImaxI32 o => some (.half (0x002C#16 ||| bitsOpC o))
  | .compactFadd o => some (.half (0x0030#16 ||| bitsOpC o))
  | .compactFsub o => some (.half (0x0034#16 ||| bitsOpC o))
  | .compactFmul o => some (.half (0x0038#16 ||| bitsOpC o))
  | .compactFmax o => some (.half (0x003C#16 ||| bitsOpC o))
  | .dictionaryReference o => some (.half (0x0002#16 ||| bitsOpRef o))
  | .iadd o => some (.word (0x00000003#32 ||| bitsOpR o))
  | .isub o => some (.word (0x20000003#32 ||| bitsOpR o))
  | .iaddsatI32 o => some (.word (0x40000003#32 ||| bitsOpR o))
  | .iaddsatN32 o => some (.word (0x60000003#32 ||| bitsOpR o))
  | .imul o => some (.word (0x80000003#32 ||| bitsOpR o))
  | .imulhI32 o => some (.word (0xA0000003#32 ||| bitsOpR o))
  | .imulhN32 o => some (.word (0xC0000003#32 ||| bitsOpR o))
  | .ineg o => some (.word (0xE0000003#32 ||| bitsOpR1 o))
  | .iminI32 o => some (.word (0x00000005#32 ||| bitsOpR o))
  | .iminN32 o => some (.word (0x20000005#32 ||| bitsOpR o))
  | .imaxI32 o => some (.word (0x40000005#32 ||| bitsOpR o))
  | .imaxN32 o => some (.word (0x60000005#32 ||| bitsOpR o))
  | .and o => some (.word (0x80000005#32 ||| bitsOpR o))
  | .or o => some (.word (0xA0000005#32 ||| bitsOpR o))
  | .xor o => some (.word (0xC0000005#32 ||| bitsOpR o))
  | .andn o => some (.word (0xE0000005#32 ||| bitsOpR o))
  | .shl o => some (.word (0x00000007#32 ||| bitsOpR o))
  | .shr o => some (.word (0x20000007#32 ||| bitsOpR o))
  | .sar o => some (.word (0x40000007#32 ||| bitsOpR o))
  | .rotl o => some (.word (0x60000007#32 ||| bitsOpR o))
  | .clz o => some (.word (0x80000007#32 ||| bitsOpR1 o))
  | .popc o => some (.word (0xA0000007#32 ||| bitsOpR1 o))
  | .brev o => some (.word (0xC0000007#32 ||| bitsOpR1 o))
  | .not o => some (.word (0xE0000007#32 ||| bitsOpR1 o))
  | .bfxN32 o => some (.word (0x00000009#32 ||| bitsOpR o))
  | .bfxI32 o => some (.word (0x20000009#32 ||| bitsOpR o))
  | .bfi o => some (.word (0x40000009#32 ||| bitsOpR o))
  | .sel o => some (.word (0x60000009#32 ||| bitsOpR o))
  | .mov o => some (.word (0x80000009#32 ||| bitsOpR1 o))
  | .lea1 o => some (.word (0xA0000009#32 ||| bitsOpR o))
  | .lea2 o => some (.word (0xC0000009#32 ||| bitsOpR o))
  | .lea3 o => some (.word (0xE0000009#32 ||| bitsOpR o))
  | .imad o => some (.word (0x0000000B#32 ||| bitsOpF o))
  | .icmpI32 o => some (.word (0x0000000D#32 ||| bitsOpCmp o))
  | .icmpN32 o => some (.word (0x2000000D#32 ||| bitsOpCmp o))
  | .iaddi o => some (.word (0x0000000F#32 ||| bitsOpI o))
  | .andi o => some (.word (0x00000011#32 ||| bitsOpI o))
  | .ori o => some (.word (0x00000013#32 ||| bitsOpI o))
  | .xori o => some (.word (0x00000015#32 ||| bitsOpI o))
  | .shfi o => some (.word (0x00000017#32 ||| bitsOpShfi o))
  | .movi o => some (.word (0x00000019#32 ||| bitsOpMovi o))
  | .movw o => some (.word (0x0000001B#32 ||| bitsOpW o))
  | .movwHi o => some (.word (0x0000801B#32 ||| bitsOpW o))
  | .fadd o => some (.word (0x00000021#32 ||| bitsOpR o))
  | .fsub o => some (.word (0x20000021#32 ||| bitsOpR o))
  | .fmul o => some (.word (0x40000021#32 ||| bitsOpR o))
  | .fdiv o => some (.word (0x60000021#32 ||| bitsOpR o))
  | .fmin o => some (.word (0x80000021#32 ||| bitsOpR o))
  | .fmax o => some (.word (0xA0000021#32 ||| bitsOpR o))
  | .fminn o => some (.word (0xC0000021#32 ||| bitsOpR o))
  | .fmaxn o => some (.word (0xE0000021#32 ||| bitsOpR o))
  | .ffma o => some (.word (0x00000023#32 ||| bitsOpF o))
  | .fnma o => some (.word (0x40000023#32 ||| bitsOpF o))
  | .pfmaBf16x2 o => some (.word (0x80000023#32 ||| bitsOpF o))
  | .pfmaF16x2 o => some (.word (0xC0000023#32 ||| bitsOpF o))
  | .fsqrt o => some (.word (0x00000025#32 ||| bitsOpR1 o))
  | .frcp o => some (.word (0x20000025#32 ||| bitsOpR1 o))
  | .frsq o => some (.word (0x40000025#32 ||| bitsOpR1 o))
  | .exp2 o => some (.word (0x60000025#32 ||| bitsOpR1 o))
  | .fneg o => some (.word (0x80000025#32 ||| bitsOpR1 o))
  | .fabs o => some (.word (0xA0000025#32 ||| bitsOpR1 o))
  | .fclass o => some (.word (0xC0000025#32 ||| bitsOpR1 o))
  | .fround o => some (.word (0xE0000025#32 ||| bitsOpFround o))
  | .fcmpF32 o => some (.word (0x00000027#32 ||| bitsOpCmp o))
  | .fcmpF16 o => some (.word (0x20000027#32 ||| bitsOpCmp o))
  | .fcmpBf16 o => some (.word (0x40000027#32 ||| bitsOpCmp o))
  | .fcvt o => some (.word (0x00000029#32 ||| bitsOpFcvt o))
  | .paddBf16x2 o => some (.word (0x0000002B#32 ||| bitsOpR o))
  | .paddF16x2 o => some (.word (0x2000002B#32 ||| bitsOpR o))
  | .pmulBf16x2 o => some (.word (0x4000002B#32 ||| bitsOpR o))
  | .pmulF16x2 o => some (.word (0x6000002B#32 ||| bitsOpR o))
  | .pk2h o => some (.word (0x8000002B#32 ||| bitsOpR o))
  | .fscale o => some (.word (0xA000002B#32 ||| bitsOpR o))
  | .bexp o => some (.word (0x0000002D#32 ||| bitsOpR1 o))
  | .bcvt o => some (.word (0x2000002D#32 ||| bitsOpR o))
  | .badd o => some (.word (0x4000002D#32 ||| bitsOpR o))
  | .bfin o => some (.word (0x6000002D#32 ||| bitsOpR o))
  | .shflIdx o => some (.word (0x00000031#32 ||| bitsOpR o))
  | .shflXor o => some (.word (0x20000031#32 ||| bitsOpR o))
  | .shflUp o => some (.word (0x40000031#32 ||| bitsOpR o))
  | .shflDown o => some (.word (0x60000031#32 ||| bitsOpR o))
  | .ballot o => some (.word (0x80000031#32 ||| bitsOpR1 o))
  | .topkMax o => some (.word (0xA0000031#32 ||| bitsOpR o))
  | .topkMin o => some (.word (0xC0000031#32 ||| bitsOpR o))
  | .redux o => some (.word (0x00000033#32 ||| bitsOpRedux o))
  | .scanInc o => some (.word (0x20000033#32 ||| bitsOpRedux o))
  | .scanExc o => some (.word (0x40000033#32 ||| bitsOpRedux o))
  | .maxidxF32 o => some (.word (0x00000035#32 ||| bitsOpR1 o))
  | .maxidxF16 o => some (.word (0x20000035#32 ||| bitsOpR1 o))
  | .maxidxBf16 o => some (.word (0x40000035#32 ||| bitsOpR1 o))
  | .minidxF32 o => some (.word (0x60000035#32 ||| bitsOpR1 o))
  | .minidxF16 o => some (.word (0x80000035#32 ||| bitsOpR1 o))
  | .minidxBf16 o => some (.word (0xA0000035#32 ||| bitsOpR1 o))
  | .kand o => some (.word (0x00000037#32 ||| bitsOpK2 o))
  | .kor o => some (.word (0x20000037#32 ||| bitsOpK2 o))
  | .kxor o => some (.word (0x40000037#32 ||| bitsOpK2 o))
  | .kandn o => some (.word (0x60000037#32 ||| bitsOpK2 o))
  | .knot o => some (.word (0x80000037#32 ||| bitsOpK1 o))
  | .kpop o => some (.word (0xA0000037#32 ||| bitsOpKv o))
  | .kffs o => some (.word (0xC0000037#32 ||| bitsOpKv o))
  | .kmov o => some (.word (0xE0000037#32 ||| bitsOpK1 o))
  | .vbcast o => some (.word (0x00000039#32 ||| bitsOpVbcast o))
  | .vread o => some (.word (0x20000039#32 ||| bitsOpVread o))
  | .kget o => some (.word (0x40000039#32 ||| bitsOpKget o))
  | .kset o => some (.word (0x60000039#32 ||| bitsOpKset o))
  | .emget o => some (.word (0x80000039#32 ||| bitsOpEmget o))
  | .emset o => some (.word (0xA0000039#32 ||| bitsOpEmset o))
  | .emand o => some (.word (0xC0000039#32 ||| bitsOpEmand o))
  | .sadd o => some (.word (0x0000003D#32 ||| bitsOpU o))
  | .ssub o => some (.word (0x000000BD#32 ||| bitsOpU o))
  | .smul o => some (.word (0x0000013D#32 ||| bitsOpU o))
  | .sand o => some (.word (0x000001BD#32 ||| bitsOpU o))
  | .sor o => some (.word (0x0000023D#32 ||| bitsOpU o))
  | .sxor o => some (.word (0x000002BD#32 ||| bitsOpU o))
  | .sshl o => some (.word (0x0000033D#32 ||| bitsOpU o))
  | .sshr o => some (.word (0x000003BD#32 ||| bitsOpU o))
  | .saddi o => some (.word (0x0000003F#32 ||| bitsOpV o))
  | .sandi o => some (.word (0x000000BF#32 ||| bitsOpV o))
  | .sori o => some (.word (0x0000013F#32 ||| bitsOpV o))
  | .smovi o => some (.word (0x000001BF#32 ||| bitsOpSmovi o))
  | .sshli o => some (.word (0x0000023F#32 ||| bitsOpV o))
  | .sshri o => some (.word (0x000002BF#32 ||| bitsOpV o))
  | .ssari o => some (.word (0x0000033F#32 ||| bitsOpV o))
  | .sld64 o => some (.word (0x00000041#32 ||| bitsOpV o))
  | .sld32 o => some (.word (0x000000C1#32 ||| bitsOpV o))
  | .sst64 o => some (.word (0x00000141#32 ||| bitsOpV o))
  | .sst32 o => some (.word (0x000001C1#32 ||| bitsOpV o))
  | .slda o => some (.word (0x00000241#32 ||| bitsOpV o))
  | .sstl o => some (.word (0x000002C1#32 ||| bitsOpV o))
  | .ld o => some (.word (0x00000045#32 ||| bitsOpM o))
  | .st o => some (.word (0x00000047#32 ||| bitsOpM o))
  | .atom o => some (.word (0x00000049#32 ||| bitsOpM o))
  | .lda o => some (.word (0x0000004B#32 ||| bitsOpM o))
  | .stl o => some (.word (0x0000004D#32 ||| bitsOpM o))
  | .fenceFull o => some (.word (0x0000004F#32 ||| bitsOpFence o))
  | .fenceAcq o => some (.word (0x000000CF#32 ||| bitsOpFence o))
  | .fenceRel o => some (.word (0x0000014F#32 ||| bitsOpFence o))
  | .fenceEng o => some (.word (0x000001CF#32 ||| bitsOpFence o))
  | .pgreq o => some (.word (0x00000051#32 ||| bitsOpPgreq o))
  | .pfch o => some (.word (0x10000051#32 ||| bitsOpPfch o))
  | .bld o => some (.word (0x00000055#32 ||| bitsOpB o))
  | .bst o => some (.word (0x00000057#32 ||| bitsOpB o))
  | .batom o => some (.word (0x00000059#32 ||| bitsOpMA o))
  | .bxnew o => some (.word (0x0000005B#32 ||| bitsOpBxnew o))
  | .bxfree o => some (.word (0x000000DB#32 ||| bitsOpXa o))
  | .bxgive o => some (.word (0x0000015B#32 ||| bitsOpXab o))
  | .bxtake o => some (.word (0x000001DB#32 ||| bitsOpXd o))
  | .bxlend o => some (.word (0x8000025B#32 ||| bitsOpBxlend o))
  | .settle o => some (.word (0x000002DB#32 ||| bitsOpXa o))
  | .bxinfo o => some (.word (0x0000035B#32 ||| bitsOpXad o))
  | .bxrecall o => some (.word (0x000003DB#32 ||| bitsOpXa o))
  | .cpy o => some (.word (0x0000005D#32 ||| bitsOpCpy o))
  | .cpyx o => some (.word (0x000000DD#32 ||| bitsOpCpyx o))
  | .cpyq o => some (.word (0x0000015D#32 ||| bitsOpX2 o))
  | .xsend o => some (.word (0x0000005F#32 ||| bitsOpX2 o))
  | .xrecv o => some (.word (0x000000DF#32 ||| bitsOpX2 o))
  | .xred o => some (.word (0x0000015F#32 ||| bitsOpX2 o))
  | .chwa o => some (.word (0x00000061#32 ||| bitsOpUad o))
  | .chwl o => some (.word (0x000000E1#32 ||| bitsOpUad o))
  | .chff o => some (.word (0x00000161#32 ||| bitsOpUad o))
  | .chclr o => some (.word (0x000001E1#32 ||| bitsOpUa o))
  | .chget o => some (.word (0x00000261#32 ||| bitsOpChget o))
  | .chset o => some (.word (0x000002E1#32 ||| bitsOpUa o))
  | .sqmint o => some (.word (0x00000063#32 ||| bitsOpUa o))
  | .sqres o => some (.word (0x000000E3#32 ||| bitsOpSqres o))
  | .sqcom o => some (.word (0x00000163#32 ||| bitsOpUn o))
  | .sqlen o => some (.word (0x000001E3#32 ||| bitsOpSqlen o))
  | .sqwait o => some (.word (0x00000263#32 ||| bitsOpSqwait o))
  | .sqfork o => some (.word (0x000002E3#32 ||| bitsOpUn o))
  | .sqbind o => some (.word (0x00000363#32 ||| bitsOpSqbind o))
  | .sqdrop o => some (.word (0x000003E3#32 ||| bitsOpUa o))
  | .sqext o => some (.word (0x00000065#32 ||| bitsOpUab o))
  | .sqsum o => some (.word (0x000000E5#32 ||| bitsOpU o))
  | .sqaddr o => some (.word (0x00000165#32 ||| bitsOpU o))
  | .sqinfo o => some (.word (0x000001E5#32 ||| bitsOpSqinfo o))
  | .menc o => some (.word (0x00000069#32 ||| bitsOpMenc o))
  | .mdec o => some (.word (0x000000E9#32 ||| bitsOpX2 o))
  | .mpost o => some (.word (0x00000169#32 ||| bitsOpMpost o))
  | .mma o => some (.word (0x0000006D#32 ||| bitsOpMma o))
  | .mmb o => some (.word (0x000000ED#32 ||| bitsOpMmb o))
  | .mzero o => some (.word (0x0000016D#32 ||| bitsOpMzero o))
  | .mdrain o => some (.word (0x000001ED#32 ||| bitsOpMdrain o))
  | .mstore o => some (.word (0x0000026D#32 ||| bitsOpMma o))
  | .mscale o => some (.word (0x000002ED#32 ||| bitsOpMscale o))
  | .mwait o => some (.word (0x0000006F#32 ||| bitsOpMwait o))
  | .msig o => some (.word (0x000000EF#32 ||| bitsOpMsig o))
  | .mpick o => some (.word (0x0000016F#32 ||| bitsOpXd o))
  | .mrel o => some (.word (0x000001EF#32 ||| bitsOpXa o))
  | .bk o => some (.word (0x00000071#32 ||| bitsOpBk o))
  | .bkany o => some (.word (0x000000F1#32 ||| bitsOpBk o))
  | .bkall o => some (.word (0x00000171#32 ||| bitsOpBk o))
  | .bknone o => some (.word (0x000001F1#32 ||| bitsOpBk o))
  | .bs o => some (.word (0x00000073#32 ||| bitsOpBs o))
  | .jmp o => some (.word (0x00000075#32 ||| bitsOpJ o))
  | .call o => some (.word (0x000000F5#32 ||| bitsOpCall o))
  | .jmpr o => some (.word (0x00000077#32 ||| bitsOpUa o))
  | .callr o => some (.word (0x000000F7#32 ||| bitsOpCallr o))
  | .ret => some (.word 0x00000177#32)
  | .join o => some (.word (0x000001F7#32 ||| bitsOpTok o))
  | .exit => some (.word 0x00000277#32)
  | .yield => some (.word 0x000002F7#32)
  | .brkp o => some (.word (0x00000377#32 ||| bitsOpCode o))
  | .watch o => some (.word (0x000003F7#32 ||| bitsOpWatch o))
  | .tbarArrive o => some (.word (0x00000079#32 ||| bitsOpTbar o))
  | .tbarWait o => some (.word (0x000000F9#32 ||| bitsOpTbar o))
  | .tbarSync o => some (.word (0x00000179#32 ||| bitsOpTbar o))
  | .cbarArrive o => some (.word (0x000001F9#32 ||| bitsOpRtag o))
  | .cbarWait o => some (.word (0x00000279#32 ||| bitsOpRtag o))
  | .cbarSync o => some (.word (0x000002F9#32 ||| bitsOpRtag o))
  | .gbarSync o => some (.word (0x00000379#32 ||| bitsOpRtag o))
  | .trap o => some (.word (0x0000007B#32 ||| bitsOpCode o))
  | .tret o => some (.word (0x000000FB#32 ||| bitsOpTret o))
  | .tfence => some (.word 0x0000017B#32)
  | .sget o => some (.word (0x000001FB#32 ||| bitsOpSget o))
  | .sset o => some (.word (0x0000027B#32 ||| bitsOpSset o))
  | .dload o => some (.word (0x000002FB#32 ||| bitsOpUab o))
  | .dfence => some (.word 0x0000037B#32)
  | .dget o => some (.word (0x000003FB#32 ||| bitsOpUad o))
  | .prof o => some (.word (0x0000007D#32 ||| bitsOpProf o))
  | .fltget o => some (.word (0x000000FD#32 ||| bitsOpFltget o))
  | .fltgetMask o => some (.word (0x080000FD#32 ||| bitsOpFltmask o))
  | .registerWrite _ _ _ => none
  | .vfEnable _ => none
  | .getTdispVersion _ => none
  | .getTdispCapabilities _ => none
  | .lockInterface _ => none
  | .getDeviceInterfaceReport _ => none
  | .getDeviceInterfaceState _ => none
  | .startInterface _ => none
  | .stopInterface _ => none
  | .leaveScrub _ => none
  | .ideKm _ => none
  | .ideIntegrityFailure _ => none
  | .getVersion _ => none
  | .getCapabilities _ => none
  | .negotiateAlgorithms _ => none
  | .getDigests _ => none
  | .getCertificate _ => none
  | .challenge _ => none
  | .getMeasurements _ => none
  | .keyExchange _ => none
  | .finish _ => none
  | .endSession _ => none
  | .vendorDefinedRequest _ => none
  | .keyRotationRequest _ => none
  | .frameReencrypt _ _ => none
  | .debugPolicy _ _ => none
  | .checkpointPermit _ _ => none
  | .checkpointKeySupply _ _ => none
  | .partitionCreate _ => none
  | .partitionDestroy _ => none
  | .assignQuads _ _ => none
  | .setQuantum _ _ => none
  | .setPoolSize _ _ => none
  | .firmwareUpdate _ => none
  | .deviceStart => none
  | .lqctlWrite _ _ _ => none
  | .lqprodWrite _ _ _ => none
  | .launchFetch _ _ => none
  | .launchAdmit _ _ => none
  | .clusterPlace _ => none
  | .launchComplete _ => none
  | .doneWrite _ => none
  | .mcmdReserve _ _ => none
  | .mcmdUnmap _ _ => none
  | .mcmdProtect _ _ => none
  | .mcmdAdmit _ _ => none
  | .mcmdReclaim _ _ => none
  | .mcmdInval _ _ => none
  | .mcmdExport _ _ => none
  | .mcmdImport _ _ => none
  | .mcmdRefusedOp _ _ => none
  | .mcmdComplete _ => none
  | .mlctlWrite _ _ => none
  | .killContext _ _ => none
  | .resumePart _ _ => none
  | .resumeSequencerContext _ _ => none
  | .ccmdRefusedOp _ _ => none
  | .checkpoint _ => none
  | .checkpointComplete => none
  | .restore _ => none
  | .restoreComplete => none
  | .checkpointAbort _ => none
  | .linkFailure _ => none
  | .debugStop _ _ => none
  | .debugResume _ _ => none
  | .debugStep _ _ => none
  | .armBreakpoints _ _ => none
  | .disarmBreakpoints _ _ => none
  | .dbgregAccess _ _ => none
  | .dbgmemAccess _ _ => none
  | .priResponse _ _ _ => none
  | .peerAccess _ => none
  | .peerAuthentication _ _ => none
  | .dataLanding _ => none
  | .homeWrite _ => none
  | .dieCopyUpdate _ => none
  | .l1LineExpiry _ _ _ => none
  | .tellerApply _ => none
  | .passGrant _ => none
  | .passComplete _ => none
  | .engineOpComplete _ _ => none
  | .commandComplete _ => none
  | .outlierQueuePush _ => none
  | .quantumBoundary _ => none
  | .bankSwap _ => none
  | .unitSaved _ => none
  | .reseatExchange _ => none
  | .monitorWake _ => none
  | .barrierComplete _ => none
  | .wedgeDetect _ => none
  | .sequencerContextAutoEnd _ => none
  | .pendingRecordWrite _ => none
  | .scrubberRead _ _ => none
  | .thermalLimit => none
  | .thermalResume => none
  | .thermalSaveTimeout _ => none
  | .linkCrcError _ => none
  | .ualinkPortRestored _ => none
  | .peerCollectiveArrival _ => none
  | .hostMemoryAccess _ => none

/-- The bytes of a code, in memory order (R35). -/
def codeBytes : Code → List Byte
  | .half w => [w.extractLsb' 0 8, w.extractLsb' 8 8]
  | .word w => [w.extractLsb' 0 8, w.extractLsb' 8 8, w.extractLsb' 16 8, w.extractLsb' 24 8]

/-- The `n` low bytes of `w`, little-endian. -/
def bytesOfNat : Nat → Nat → List Byte
  | 0, _ => []
  | n + 1, w => BitVec.ofNat 8 w :: bytesOfNat n (w / 256)

/-- The instruction the decoder reads from a table word of `nbits` bits; every bit above them is 0. -/
def decodeTableWord (nbits w : Nat) : Option Instr :=
  match decodeBytes (bytesOfNat 4 (w % 2 ^ nbits)) with
  | .ok (i, _, _) => some i
  | .error _ => none

end Sys2Proof
end

