-- ==== Sys2Proof/Machine/System.lean ====
section
/-!
DEFINITION. System and trap instructions, majors 0x3D and 0x3E (R382 to R392): traps and returns, special registers (R26 to
R30), dictionary tables (R51 to R60), counters and fault addresses.
-/

namespace Sys2Proof.Machine

/-! ### Raising and leaving traps -/

/-- trap (R384). -/
def execTrap (o : OpCode) (s : State) : Host.Outcome State Fault Refusal :=
  onAgent s fun _ _ => .trap s (Trap.plain cSWTRAP (o.code.setWidth 8))

/-- tret (R359, R385): bit 0 of the mode kills, bit 1 skips or kills the whole group. -/
def execTret (o : OpTret) (s : State) : Host.Outcome State Fault Refusal :=
  onPart s fun pid p _ =>
    if !p.priv then .trap s (Trap.plain cPRIV 0x01)
    else match p.tstack with
      | [] => .trap s (Trap.plain cPRIV 0x02)
      | f :: _ =>
        if o.mode = 1 then .keep (endPart pid (countIssue (.part pid) 0 s))
        else if o.mode = 3 then .keep (endGroup p.gid (countIssue (.part pid) 0 s))
        else .goto (setPart pid (fun p => retryRef (o.mode == 2) f (popFrame p)) s) (framePc (o.mode == 2) f)

/-- A command of the encoder that an agent issued and that has not merged its flags (R386). -/
def mergesFlags (a : Agent) (c : Cmd) : Bool :=
  decide (c.who = a) && (match c.kind with
    | .menc _ _ _ => true
    | .mdec _ _ => true
    | _ => false)
/-- tfence (R386). -/
def execTfence (s : State) : Host.Outcome State Fault Refusal :=
  onPart s fun pid _ g =>
    if s.cmds.any (mergesFlags (.part pid)) then .wait s .flagMerge
    else if g.afl &&& g.aen ≠ 0 then .trap s (Trap.plain cARITH (g.afl &&& g.aen))
    else .done s

/-! ### Special registers -/

/-- FEAT0 (R6): the twelve features of a C9. -/
def feat0 : DWord := 0xFFF
/-- CLX of a rank (R27). -/
def clxValue (shape rank : Nat) : DWord :=
  let w := (shapeDims shape).1
  BitVec.ofNat 64 (rank + shape * 2 ^ 4 + shapeSize shape * 2 ^ 8 + (rank / w / 2 * (w / 2) + rank % w / 2) * 2 ^ 12)
/-- GID (R27). -/
def gidValue (core gslot tslot ctx : Nat) (seq : Bool) (part : BitVec 6) : DWord :=
  BitVec.ofNat 64 (core + gslot * 2 ^ 10 + tslot * 2 ^ 16 + (if seq then 2 ^ 18 else 0) + ctx * 2 ^ 24 + part.toNat * 2 ^ 32)
/-- QOS (R27). -/
def qosValue (c : Context) : DWord := BitVec.ofNat 64 (c.level.toNat + c.lr.qos * 2 ^ 8)
/-- Entries with the defined bit (R27, R55). -/
def dictNdef (m : Cells DictEntry) : Nat := (m.filter fun e => e.2.val.getLsbD 63).length
/-- DSTAT (R27). -/
def dstatValue (t : DictTable) (unfenced : Bool) : DWord :=
  BitVec.ofNat 64 (t.ndef + (if unfenced then 2 ^ 8 else 0) + t.gen.toNat * 2 ^ 16)
/-- The context's table on a core (R30): with no undefined entry where the core holds none. -/
def ctxTable (s : State) (core ctx : Nat) : DictTable :=
  if (coreOf s core).tableCtx = some ctx then (coreOf s core).table else .empty

/-- The replaced states of a table that a part's references may still use: those that stood at its last `dfence` or later
(R57). -/
def staleTables (s : State) (p : Part) (core ctx : Nat) : List DictTable :=
  if (coreOf s core).tableCtx = some ctx then ((coreOf s core).olds.filter fun q => decide (p.fenced ≤ q.1)).map Prod.snd else []
/-- The one state of the table that a reference is decoded against (R57): as it stands, or, before the part's `dfence`, any
state that has stood since its last one, by a free value (DESIGN CHOICE, log entry 21). -/
def refTable (s : State) (p : Part) (core ctx : Nat) : DictTable :=
  match staleTables s p core ctx with
  | [] => ctxTable s core ctx
  | t :: r => (t :: r).getD (Config.staleTable s.tick) (ctxTable s core ctx)
/-- The replaced states of a core's table after a `dload` for a context (R57). -/
def replaced (tick ctx : Nat) (k : Core) : List (Nat × DictTable) :=
  if k.tableCtx = some ctx then (tick, k.table) :: k.olds else [(tick, .empty)]

/-- A special register as a part reads it (R26, R27); CYC is read apart. -/
def partSpecial (s : State) (pid : Nat) (p : Part) (g : Group) (t : Team) (c : Context) (sel : Nat) : DWord :=
  match sel with
  | 0 => gidValue t.core g.gslot t.tslot t.ctx false c.part
  | 1 => BitVec.ofNat 64 t.index
  | 2 => BitVec.ofNat 64 (t.index / shapeSize c.lr.shape)
  | 3 => clxValue c.lr.shape t.rank
  | 4 => BitVec.ofNat 64 (g.w + g.groups * 2 ^ 8 + g.vregs * 2 ^ 16 + g.grp * 2 ^ 25)
  | 5 => p.em
  | 6 => BitVec.ofNat 64 p.wb
  | 7 => p.wsp
  | 8 => g.afl.setWidth 64
  | 9 => g.aen.setWidth 64
  | 10 => g.ovf
  | 11 => BitVec.ofNat 64 p.tstack.length
  | 12 => c.tvec
  | 13 => p.thr.report.va
  | 14 => p.thr.report.info
  | 15 => p.thr.report.mask
  | 16 => agentChr s (.part pid)
  | 17 => agentCherr s (.part pid)
  | 18 => dstatValue (ctxTable s t.core t.ctx) p.unfenced
  | 19 => if p.priv then 1 else 0
  | 20 => if c.lr.det then 1 else 0
  | 21 => qosValue c
  | 22 => feat0
  | _ => 0

/-- The team of a sequencer context's cluster on its quad's first core. -/
def firstTeam (s : State) (sc : Nat) (q : SeqCtx) : Option Team :=
  (s.teams.find? fun t => t.2.uid == q.uid && t.2.core == quadCore (sc / 8)).map Prod.snd
/-- A special register as a sequencer context reads it (R26). -/
def seqSpecial (s : State) (sc : Nat) (q : SeqCtx) (c : Context) (sel : Nat) : DWord :=
  let t := firstTeam s sc q
  let index := (t.map Team.index).getD 0
  match sel with
  | 0 => gidValue (quadCore (sc / 8)) (sc % 8) 0 q.ctx true c.part
  | 1 => BitVec.ofNat 64 index
  | 2 => BitVec.ofNat 64 (index / shapeSize c.lr.shape)
  | 3 => clxValue c.lr.shape ((t.map Team.rank).getD 0)
  | 8 => q.afl.setWidth 64
  | 9 => q.aen.setWidth 64
  | 10 => q.ovf
  | 13 => q.thr.report.va
  | 14 => q.thr.report.info
  | 16 => agentChr s (.seq sc)
  | 17 => agentCherr s (.seq sc)
  | 20 => if c.lr.det then 1 else 0
  | 21 => qosValue c
  | 22 => feat0
  | _ => 0

/-- The cycle counter of a core or sequencer core at this read (R5): at least one cycle after the last (DESIGN CHOICE, log entry 10). -/
def readCyc (core : Nat) (s : State) : DWord × State :=
  let step := BitVec.ofNat 64 (1 + Config.elapsed s.tick)
  if core < 768 then
    ((coreOf s core).cyc + step, setCore core (fun c => { c with cyc := c.cyc + step }) s)
  else
    ((quadOf s (core - 768)).cyc + step, setQuad (core - 768) (fun q => { q with cyc := q.cyc + step }) s)

/-- The value of a special register for an agent. -/
def specialOf (s : State) (a : Agent) (sel : Nat) : DWord :=
  match a with
  | .none => 0
  | .part pid => match Cells.get? pid s.parts with
    | some p => (match Cells.get? p.gid s.groups with
      | some g => (match Cells.get? g.tid s.teams with
        | some t => (match ctxOf? s t.ctx with
          | some c => partSpecial s pid p g t c sel
          | none => 0)
        | none => 0)
      | none => 0)
    | none => 0
  | .seq sc => match Cells.get? sc s.seqs with
    | some q => (match ctxOf? s q.ctx with
      | some c => seqSpecial s sc q c sel
      | none => 0)
    | none => 0

/-- sget (R387). -/
def execSget (o : OpSget) (s : State) : Host.Outcome State Fault Refusal :=
  onAgent s fun a t =>
    (gateS t [] [o.sd]).run s
      (if o.sel = 24 then
        let r := readCyc (agentCore s a) s
        .done (writeS a o.sd r.1 r.2)
       else .done (writeS a o.sd (specialOf s a o.sel.toNat) s))

/-- The writable bits of OVFINFO (R27). -/
def ovfBits : DWord := 0x0000FFFF00011FFF
/-- LEVEL as written (R28). -/
def levelWrite (c : Context) (v : DWord) : Context :=
  { c with level := BitVec.ofNat 2 (min (v.extractLsb' 0 2).toNat c.lr.qos) }
/-- `sset` by a part (R387). -/
def partSet (pid : Nat) (p : Part) (ctx : Nat) (sel : Nat) (v : DWord) (s : State) : State :=
  match sel with
  | 5 => setPart pid (fun p => { p with em := v &&& p.own }) s
  | 7 => setPart pid (fun p => { p with wsp := v &&& 0xFFFFFFFFFFFFC0 }) s
  | 8 => setGroup p.gid (fun g => { g with afl := v.setWidth 8 }) s
  | 9 => setGroup p.gid (fun g => { g with aen := v.setWidth 8 }) s
  | 10 => setGroup p.gid (fun g => { g with ovf := v &&& ovfBits }) s
  | 12 => setCtx ctx (fun c => { c with tvec := v &&& 0xFFFFFFFFFFFFFE }) s
  | 21 => setCtx ctx (fun c => levelWrite c v) s
  | _ => s
/-- `sset` by a sequencer context (R387). -/
def seqSet (sc ctx sel : Nat) (v : DWord) (s : State) : State :=
  match sel with
  | 8 => setSeq sc (fun q => { q with afl := v.setWidth 8 }) s
  | 9 => setSeq sc (fun q => { q with aen := v.setWidth 8 }) s
  | 10 => setSeq sc (fun q => { q with ovf := v &&& ovfBits }) s
  | 21 => setCtx ctx (fun c => levelWrite c v) s
  | _ => s
/-- A part that lacks T1 for a selector (R382): PRIV comes before the checks of the source (R46). -/
def lacksT1 (s : State) (a : Agent) (sel : BitVec 5) : Bool :=
  match a with
  | .part pid => (match Cells.get? pid s.parts with
    | some p => !p.priv && sel == 12
    | none => false)
  | _ => false
/-- sset (R387). -/
def execSset (o : OpSset) (s : State) : Host.Outcome State Fault Refusal :=
  onAgent s fun a t =>
    if lacksT1 s a o.sel then .trap s (Trap.plain cPRIV 0x01)
    else (gateS t [⟨o.sa, o.wsa⟩] []).run s
      (let v := sVal t o.sa
       match a with
       | .none => .done s
       | .part pid => (match Cells.get? pid s.parts with
         | some p => .done (partSet pid p ((agentCtx s a).getD 0) o.sel.toNat v s)
         | none => .done s)
       | .seq sc => .done (seqSet sc ((agentCtx s a).getD 0) o.sel.toNat v s))

/-! ### Dictionary -/

/-- The entry is defined (R51). -/
def entryDef (e : DWord) : Bool := e.getLsbD 63
/-- A hole of an entry: position, width, mode (R51). -/
def holeA (e : DWord) : Nat × Nat × Bool := ((e.extractLsb' 32 5).toNat, (e.extractLsb' 37 3).toNat, e.getLsbD 40)
/-- Hole B (R51). -/
def holeB (e : DWord) : Nat × Nat × Bool := ((e.extractLsb' 41 5).toNat, (e.extractLsb' 46 3).toNat, e.getLsbD 49)
/-- Fill a hole (R53). -/
def fillHole (w : BitVec 32) (h : Nat × Nat × Bool) (v : Nat) : BitVec 32 :=
  if h.2.1 = 0 then w
  else
    let f := if h.2.2 then (w.toNat / 2 ^ h.1 % 2 ^ h.2.1 + v) % 2 ^ h.2.1 else v % 2 ^ h.2.1
    let mask := BitVec.ofNat 32 ((2 ^ h.2.1 - 1) * 2 ^ h.1)
    (w &&& ~~~mask) ||| (BitVec.ofNat 32 (f * 2 ^ h.1) &&& mask)
/-- The filled word of a reference (R53). -/
def fillEntry (e : DWord) (a : BitVec 4) (b : BitVec 3) : BitVec 32 :=
  fillHole (fillHole (e.setWidth 32) (holeA e) a.toNat) (holeB e) b.toNat
/-- Bits that a hole covers. -/
def holeMask (h : Nat × Nat × Bool) : Nat := (2 ^ h.2.1 - 1) * 2 ^ h.1

/-- A decoded form that a group of a launch may execute (R48, R309). -/
def groupForm (lr : Launch) : Instr → Bool
  | .mma _ | .mmb _ | .mzero _ | .mdrain _ | .mstore _ | .mscale _ | .mwait _ | .msig _ | .mpick _ | .mrel _ => false
  | .tbarArrive o | .tbarWait o | .tbarSync o => decide (o.num.toNat < lr.tbars)
  | .cbarArrive o | .cbarWait o | .cbarSync o => decide (o.num.toNat < lr.cbars)
  | .gbarSync o => decide (o.num.toNat < lr.gbars)
  | _ => true
/-- The form may not stand in a template (R52). -/
def templateBan : Instr → Bool
  | .dload _ | .dfence | .tret _ => true
  | _ => false
/-- An entry with DEF = 1 is valid (R52). -/
def entryValid (lr : Launch) (e : DWord) : Bool :=
  let w : BitVec 32 := e.setWidth 32
  let a := holeA e
  let b := holeB e
  let inWord (h : Nat × Nat × Bool) : Bool := h.2.1 == 0 || (decide (7 ≤ h.1) && decide (h.1 + h.2.1 ≤ 32))
  w.getLsbD 0 && (match decode32 w with
    | .ok i => groupForm lr i && !templateBan i
    | .error _ => false) &&
    a.2.1 != 7 && b.2.1 != 7 && inWord a && inWord b && (holeMask a &&& holeMask b) == 0 &&
    (w.extractLsb' 1 6 != 0x3D#6 || ((holeMask a ||| holeMask b) &&& 0x380) == 0) && e.extractLsb' 50 13 == 0
/-- An entry as the table stores it: all zeros where it is undefined (R51). -/
def storedEntry (e : DWord) : DWord := if entryDef e then e else 0
/-- The lowest entry of an image that is neither undefined nor valid (R55). -/
def badEntry (lr : Launch) (first : Nat) (es : List DWord) : Option Nat :=
  ((es.mapIdx fun i e => (first + i, e)).find? fun q => entryDef q.2 && !entryValid lr q.2).map Prod.fst
/-- A table after entries from `first` are replaced (R55). -/
def loadTable (first : Nat) (es : List DWord) (t : DictTable) : DictTable :=
  let m := (es.mapIdx fun i e => (first + i, storedEntry e)).foldl
    (fun m q => Cells.put ⟨0, false⟩ q.1 ⟨q.2, false⟩ m) t.entries
  { entries := m, ndef := dictNdef m, gen := t.gen + 1 }

/-- The 8-byte words that `dload` reads, as plain loads; the first that faults ends it (R55). -/
def readWords (a : Agent) (pl : Place) (strict : Bool) : List Nat → State → List DWord × State × Option Trap
  | [], s => ([], s, none)
  | x :: r, s =>
    let hit := if strict && unbacked s pl.part x then .missing 0x00 else reachChecked s pl .read .none x 8
    match hitCause true hit with
    | some c => ([], s, some (uniTrap false x c))
    | none =>
      let s' := match hit with
        | .phys s' _ _ _ _ => s'
        | _ => s
      match readHit a pl x 8 hit s' with
      | (none, _) => ([], s, some (uniTrap false x (0x10, 0x02)))
      | (some d, s') =>
        let z := readWords a pl strict r s'
        (BitVec.ofNat 64 (ofBytes d) :: z.1, z.2)

/-- dload (R55, R388). -/
def execDload (o : OpUab) (s : State) : Host.Outcome State Fault Refusal :=
  onPart s fun pid p g =>
    (gateP p g 0 [] [⟨o.sa, o.wsa⟩, ⟨o.sb, o.wsb⟩] [] [] []).run s
      (let addr := (sVal p.thr o.sa).toNat
       let rng := sVal p.thr o.sb
       let first := (rng.extractLsb' 0 7).toNat
       let count := (rng.extractLsb' 8 8).toNat
       let pl := placeOf s (.part pid)
       if rng &&& ~~~0xFF7F#64 ≠ 0 then .trap s (Trap.at cDLOAD 0xFF addr)
       else if addr % 8 ≠ 0 then .trap s (Trap.at cALIGN 0x00 addr)
       else if count = 0 ∨ 128 < first + count then .trap s (Trap.at cDLOAD 0xFF addr)
       else match readWords (.part pid) pl true ((List.range count).map fun i => addr + 8 * i) s, ctxOf? s pl.ctx with
         | (_, _, some t), _ => .trap s t
         | (es, s', none), some c =>
           (match badEntry c.lr first es with
            | some i => .trap s (Trap.at cDLOAD (BitVec.ofNat 8 i) addr)
            | none =>
              .done (setPart pid (fun p => { p with unfenced := true })
                (setCore pl.core (fun k =>
                  { k with tableCtx := some pl.ctx, table := loadTable first es k.table, olds := replaced s.tick pl.ctx k }) s')))
         | (_, s', none), none => .done s')
/-- dfence (R57, R389): every reference that the part decodes from here on uses the table as it stands then. -/
def execDfence (s : State) : Host.Outcome State Fault Refusal :=
  onPart s fun pid _ _ => .done (setPart pid (fun p => { p with unfenced := false, fenced := s.tick + 1 }) s)
/-- The cause of a poisoned dictionary entry (R372). -/
def dictPoison : Trap := Trap.plain cPOISON 0x05
/-- dget (R390). -/
def execDget (o : OpUad) (s : State) : Host.Outcome State Fault Refusal :=
  onPart s fun pid p g =>
    (gateP p g 0 [] [⟨o.sa, o.wsa⟩] [] [] [o.sd]).run s
      (let pl := placeOf s (.part pid)
       let e := Cells.get ⟨0, false⟩ ((sVal p.thr o.sa).extractLsb' 0 7).toNat (ctxTable s pl.core pl.ctx).entries
       if e.poison then .trap s dictPoison else .done (writeS (.part pid) o.sd e.val s))

/-! ### Counters and fault addresses -/

/-- Counters of `prof` that measure time (R391; DESIGN CHOICE, log entry 11). -/
def timeCounter (n : Nat) : Bool := n == 0 || n == 3 || n == 4 || n == 5
/-- prof (R391). -/
def execProf (o : OpProf) (s : State) : Host.Outcome State Fault Refusal :=
  onPart s fun pid p g =>
    (gateP p g 0 [] [] [] [] [o.sd]).run s
      (let pl := placeOf s (.part pid)
       let v := if timeCounter o.cnt.toNat then Config.profTime s.tick
         else Cells.get 0 (pl.ctx * 16 + o.cnt.toNat) (coreOf s pl.core).prof
       .done (writeS (.part pid) o.sd v s))

/-- The report of a frame of a part, 0 the top (R392). -/
def frameReport (p : Part) (n : Nat) : Report :=
  if p.tstack.isEmpty then (if n = 0 then p.thr.report else .zero)
  else match p.tstack[n]? with
    | some f => f.rep
    | none => .zero
/-- A lane's address in a report: 0 for a lane outside its FLTMASK (R392). -/
def reportAddr (r : Report) (l : Nat) : DWord := if r.mask.getLsbD l then Cells.get 0 l r.addrs else 0
/-- fltget (R392): the lane addresses of the lanes in EM. -/
def execFltget (o : OpFltget) (s : State) : Host.Outcome State Fault Refusal :=
  onLanes s 0 fun _ p g act =>
    (gateP p g act [] [] [] (regsFrom (o.vn.setWidth 6) 2) []).run s
      (let addr := reportAddr (frameReport p o.frame.toNat)
       let ls := lanesOf g.w act
       let lo := ls.map fun l => (l, (addr l).setWidth 32)
       let hi := ls.map fun l => (l, (addr l).extractLsb' 32 32)
       .done (setGroup p.gid (fun g => putLanes p.wb ((o.vn.toNat + 1) % 64) hi (putLanes p.wb o.vn.toNat lo g)) s))
/-- fltget.mask (R392). -/
def execFltgetMask (o : OpFltmask) (s : State) : Host.Outcome State Fault Refusal :=
  onPart s fun pid p g =>
    (gateP p g 0 [] [] [] [] [o.sd]).run s
      (.done (writeS (.part pid) o.sd (frameReport p o.frame.toNat).mask s))

end Sys2Proof.Machine
end

