-- ==== Sys2Proof/Machine/Commands.lean ====
section
/-!
DEFINITION. Commands of the copy engine, the encoder and the collective unit: their issue (majors 0x2E, 0x2F and 0x34 subs 0
and 1; R190 to R193, R262 to R268) and what they do when they run.
-/

namespace Sys2Proof.Machine

/-! ### Boxes named by descriptors -/

/-- The handle of a box descriptor (R184). -/
def descHandle (d : DWord) : DWord := d &&& 0xFFFFFFFF
/-- OFFSET of a box descriptor (R184). -/
def descOff (d : DWord) : Nat := (d.extractLsb' 32 20).toNat
/-- The reserved bits of a box descriptor are 0 (R184). -/
def descOk (d : DWord) : Bool := d.extractLsb' 56 8 == 0
/-- A BOX cause of a command at a box offset (R256). -/
def boxErr (d : BitVec 8) (off : Nat) (wr : Bool) : Trap := { Trap.box cBOX d off with wr := wr }
/-- The checks of a command's box at issue over bytes [lo, hi) of the box: `none` where they pass (R191, R256). -/
def checkBox (s : State) (gid : Nat) (g : Group) (d : DWord) (lo hi : Int) (lentOk : Bool) : Option Trap :=
  match heldBox s gid g (descHandle d) with
  | none => some (boxErr 0x01 (descOff d) (!lentOk))
  | some (_, b) =>
    if lo < hi ∧ (lo < 0 ∨ (b.bytes : Int) < hi) then some (boxErr 0x02 (descOff d) (!lentOk))
    else if !lentOk && !b.lends.isEmpty then some (boxErr 0x03 (descOff d) true)
    else none
/-- The box that a team's cluster holds under a handle, when a command reaches it. -/
def teamBox (s : State) (tid : Nat) (h : DWord) : Option (Nat × Box) :=
  match Cells.get? tid s.teams with
  | some t => (match Cells.get? t.uid s.clus with
    | some u => (boxAt u h).map fun b => (t.uid, b)
    | none => none)
  | none => none
/-- The address of the lowest poisoned granule that a range of a box's front copy meets (R371). -/
def boxPoison (b : Box) (off n : Nat) : Option Nat :=
  (b.frontPoison.filter fun q => decide (q < off + n) && decide (off < q + 8)).min?
/-- An engine's write to a box: the escrow copy where there is one (R226). -/
def engineBox (off : Nat) (d : List Byte) (b : Box) : Box :=
  if b.escrow then
    { b with
      back := memWrite b.back off d
      backPoison := b.backPoison.filter fun q => !(decide (off ≤ q) && decide (q + 8 ≤ off + d.length)) }
  else writeFront off d b

/-! ### Memory as an engine reaches it -/

/-- The outcome of an engine's access: bytes, a page request to wait for, or an error. -/
inductive EngIO where
  | ok (d : List Byte) (s : State)
  | ask (page : Nat) (s : State)
  | err (e : CmdErr)
  deriving DecidableEq, Repr

/-- Cut a range at multiples of z. -/
def cutRange (z : Nat) : Nat → Nat → Nat → List (Nat × Nat)
  | 0, _, _ => []
  | f + 1, a, n =>
    if n = 0 then []
    else if n ≤ z - a % z then [(a, n)]
    else (a, z - a % z) :: cutRange z f (a + (z - a % z)) (n - (z - a % z))
/-- The pieces of a range: within a page, and in the sequence region within a slot (R270, R330). -/
def pieces (a n : Nat) : List (Nat × Nat) :=
  let z := if region 0xC0 ≤ a then 16 else 4096
  cutRange z (n / z + 2) a n
/-- Bytes as the slices of an engine's die hold them for its partition (R220, R345), or the address of the first poisoned sector that it
meets there (R372). -/
def dieBytes (pl : Place) : List (Nat × Nat) → State → Except Nat (List Byte) × State
  | [], s => (.ok [], s)
  | (a, n) :: r, s =>
    let x := dieLine pl.die pl.part (a / 128) s
    match x.1.marks.find? fun q => anyPoison (a % 128) n [q] with
    | some q => (.error (a / 128 * 128 + q), x.2)
    | none => match dieBytes pl r x.2 with
      | (.ok d, s) => (.ok (memBytes x.1.bytes (a % 128) n ++ d), s)
      | e => e
/-- What an engine's address reaches through its quad's TLB, with the answers its command has had (R262, R335, R339). -/
def engReach (pl : Place) (asked : List (Nat × Option Bool)) (k : AccessKind) (va n : Nat) (s : State) : Reach :=
  if 2 ^ 56 ≤ va then .bad 0x08 0x01
  else match translate s pl k va n with
    | .phys s' pa b z wr => .phys (touchTlb pl.core pl.ctx b z s') pa b z wr
    | .ask b => if asked.contains (b, some false) then .bad 0x07 0x02 else .ask b
    | .missing d => .bad 0x07 d
    | r => r
/-- The error of a cause at an address. -/
def cmdErr (c d a : Nat) (wr : Bool) : CmdErr := ⟨BitVec.ofNat 8 c, BitVec.ofNat 8 d, BitVec.ofNat 64 a, wr, true⟩
/-- The error of a cause at an offset of a box (DEDUCED, log entry 39). -/
def boxCmdErr (c d a : Nat) (wr : Bool) : CmdErr := { cmdErr c d a wr with paged := false }
/-- The error of a cause at an operand, which is a box or memory. -/
def operandErr (box : Bool) (c d a : Nat) : CmdErr := { cmdErr c d a false with paged := !box }
/-- An engine's read, piece by piece; POISON names the first poisoned sector (R354, R364, R372). -/
def engReadGo (pl : Place) (asked : List (Nat × Option Bool)) : List (Nat × Nat) → State → EngIO
  | [], s => .ok [] s
  | (a, n) :: r, s =>
    let next (d : List Byte) (s : State) : EngIO := match engReadGo pl asked r s with
      | .ok e s => .ok (d ++ e) s
      | x => x
    match engReach pl asked .engineRead a n s with
    | .phys s pa _ _ _ => (match dieBytes pl (cutRange 128 (n / 128 + 2) pa n) s with
      | (.ok d, s) => next d s
      | (.error q, _) => .err (cmdErr 0x10 0x02 (a / 32 * 32 + (q - pa / 32 * 32)) false))
    | .beyond => next (List.replicate n 0) s
    | .peer p => next (memBytes s.peerMem p n) s
    | .ask b => .ask b s
    | .missing d => .err (cmdErr 0x07 d a false)
    | .bad c d => .err (cmdErr c d a false)
/-- An engine's read of a range. -/
def engRead (pl : Place) (asked : List (Nat × Option Bool)) (va n : Nat) (s : State) : EngIO :=
  engReadGo pl asked (pieces va n) s
/-- An engine's write, piece by piece. -/
def engWriteGo (pl : Place) (asked : List (Nat × Option Bool)) : List (Nat × Nat) → List Byte → State → EngIO
  | [], _, s => .ok [] s
  | (a, n) :: r, d, s =>
    match engReach pl asked .engineWrite a n s with
    | .phys s pa _ _ _ => engWriteGo pl asked r (d.drop n) (homeWrite pl.die pa (d.take n) s)
    | .peer p => engWriteGo pl asked r (d.drop n) (peerWrite p (d.take n) s)
    | .ask b => .ask b s
    | .missing e => .err (cmdErr 0x07 e a true)
    | .bad c e => .err (cmdErr c e a true)
    | .beyond => .err (cmdErr 0x0A 0x02 a true)
/-- An engine's write of a range. -/
def engWrite (pl : Place) (asked : List (Nat × Option Bool)) (va : Nat) (d : List Byte) (s : State) : EngIO :=
  engWriteGo pl asked (pieces va d.length) d s
/-- The release that ends an engine's writes: 2 package, 3 system (R228). -/
def engRelease (die scope : Nat) (s : State) : State :=
  if scope < 2 then s
  else
    let s := advanceClock die s
    if scope = 2 then s else drainUpds s
/-- The place of a core's copy engine. -/
def enginePlace (s : State) (core ctx : Nat) : Place :=
  { ctx := ctx, part := ctxPart s ctx, core := 1024 + coreQuad core, die := coreDie core }

/-! ### Issue -/

/-- A chit that a team may not name (R262): in every copy command and collective the last check, as R191 has it for `menc` (DESIGN
CHOICE for the others, log entry 86). -/
def chitTrap (s : State) (tid : Nat) (f : Bool) (c : BitVec 6) : Option Trap :=
  match f, Cells.get? tid s.teams with
  | true, some t => if chitRange t &&& (1#64 <<< c.toNat) = 0 then some (Trap.plain cENGINE 0x07) else none
  | _, _ => none
/-- Where the unit of a command's team stands. -/
def cmdRes (s : State) (m : Cmd) : Option Residence :=
  ((Cells.get? m.tid s.teams).bind fun t => Cells.get? t.uid s.clus).map Cluster.res
/-- A command pushes queue entries, which it can do only while its quad's queues are those of its unit. -/
def pushes (m : Cmd) : Bool :=
  match m.kind with
  | .cpyq _ _ => true
  | _ => false
/-- A command runs while its unit is resident; while its unit is being saved all do but a `cpyq` that has not failed (R262). -/
def cmdRuns (s : State) (m : Cmd) : Bool :=
  cmdRes s m == some .resident || (cmdRes s m == some .saving && (!pushes m || m.failed.isSome))
/-- The outstanding commands of a core: a saved unit has none, since what it abandoned is issued again after its restore (R13, R262). -/
def coreCmds (s : State) (core : Nat) : List Cmd :=
  s.cmds.filter fun m => m.core == core && (cmdRes s m == some .resident || cmdRes s m == some .saving)
/-- Issue a command whose checks have passed (R245, R262). One with f = 0 holds its part and counts as issued with its `lanes` active
lanes (R391). -/
def issueCmd (pid : Nat) (p : Part) (g : Group) (f : Bool) (c : BitVec 6) (lanes : Nat) (kind : CmdKind) (s : State) : Res :=
  let pl := placeOf s (.part pid)
  if 32 ≤ (coreCmds s pl.core).length then .wait s .issueLimit
  else
    let m : Cmd := { ticket := s.nextId, core := pl.core, ctx := pl.ctx, tid := g.tid, gid := p.gid, who := .part pid,
                     pc := p.thr.pc, chit := if f then some c else none, kind := kind, asked := [], pushed := 0, sent := [], pos := 0,
                     failed := none, recorded := false }
    let s := countProf pl.core pl.ctx 9 1 { s with cmds := s.cmds ++ [m], nextId := s.nextId + 1 }
    if f then .done s else .keep (hold (.part pid) (.command m.ticket s.iss.len) (countIssue (.part pid) lanes s))
/-- The first cause among checks made in order. -/
def firstTrap : List (Option Trap) → Option Trap
  | [] => none
  | some t :: _ => some t
  | none :: r => firstTrap r
/-- A cause unless a condition holds. -/
def need (ok : Bool) (t : Trap) : Option Trap := if ok then none else some t

/-- The capacity of a code (R190). -/
def capOf (n : Nat) : Nat := [0, 1, 2, 4, 8, 16].getD n 0
/-- The encoder's parameters from a parameter word, unless it is refused (R190). -/
def encParam (w : DWord) : Option Num.EncPar :=
  let f (lo n : Nat) : Nat := (w.extractLsb' lo n).toNat
  if w.extractLsb' 43 21 ≠ 0 ∨ 5 < f 33 3 ∨ 8 < f 38 4 then none
  else some { f4 := w.getLsbD 32, tau := f 0 16, cap := capOf (f 33 3), spill := f 36 2, ulim := f 38 4,
              adapt := w.getLsbD 42, tensor := f 16 16 }

/-! ### cpy -/

/-- Dimensions that a copy uses (R263). -/
def cpyDims (d : CpyDesc) : Nat := (d.ctrl.extractLsb' 2 3).toNat + 1
/-- A 3-bit field of a copy's control word. -/
def cpyField (d : CpyDesc) (lo : Nat) : Nat := (d.ctrl.extractLsb' lo 3).toNat
/-- Source and destination element sizes (R263). -/
def cpySizes (d : CpyDesc) : Nat × Nat :=
  if d.ctrl.getLsbD 8 then
    ((Num.cvtFmt (d.ctrl.extractLsb' 9 3)).bytes, (Num.cvtFmt (d.ctrl.extractLsb' 12 3)).bytes)
  else (2 ^ cpyField d 5, 2 ^ cpyField d 5)
/-- The dimension of each loop level, innermost first (R263). -/
def cpyPerm (d : CpyDesc) : List Nat := (List.range 8).map fun j => cpyField d (24 + 3 * j)
/-- Whether a copy encodes. -/
def cpyEnc (d : CpyDesc) : Bool := d.ctrl.getLsbD 19

/-- The first check of R264. Without CVT the fields CSRC, CDST and CMODE are ignored (DESIGN CHOICE, log entry 86). -/
def cpyWell (d : CpyDesc) : Bool :=
  let n := cpyDims d
  let perm := (cpyPerm d).take n
  d.ctrl.extractLsb' 22 2 == 0 && d.ctrl.extractLsb' 48 16 == 0 && decide (cpyField d 5 ≤ 4) &&
    (!d.ctrl.getLsbD 8 || (cpyField d 5 == 0 && cpyField d 9 != 7 && cpyField d 12 != 7 && cpyField d 9 != cpyField d 12 &&
      decide (cpyField d 15 ≤ 4))) &&
    ((d.count.take n).all fun c => c != 0) &&
    ((d.count.drop n).all fun c => c == 0) && ((d.valid.drop n).all fun c => c == 0) &&
    ((d.sstride.drop n).all fun c => c == 0) && (cpyEnc d || (d.dstride.drop n).all fun c => c == 0) &&
    ((List.range n).all fun k => perm.contains k) && (((cpyPerm d).drop n).all fun k => k == 0) &&
    (!d.ctrl.getLsbD 0 || descOk d.src) && (!d.ctrl.getLsbD 1 || descOk d.dst) &&
    (if cpyEnc d then (encParam d.param).isSome else d.param == 0)
/-- Start of a copy's source or destination: an address or a box offset. -/
def cpyStart (box : Bool) (v : DWord) : Nat := if box then descOff v else v.toNat
/-- The span of elements: lowest and highest start relative to the first, by counts and strides. -/
def cpySpan : List Nat → List Int → Int × Int
  | c :: cs, x :: xs =>
    let r := cpySpan cs xs
    let w : Int := ((c : Int) - 1) * x
    (r.1 + min 0 w, r.2 + max 0 w)
  | _, _ => (0, 0)
/-- ALIGN of a copy's operand: at a box offset or an address. -/
def cpyAlign (box : Bool) (a : Nat) : Trap := if box then Trap.box cALIGN 0x00 a else Trap.at cALIGN 0x00 a
/-- The later checks of R264. A tile that ENCODE writes may stand at any even DST (DESIGN CHOICE, log entry 86: R109 asks for a
multiple of 128, R264 for no check of it). -/
def cpyTrap (s : State) (gid : Nat) (g : Group) (at_ : Nat) (d : CpyDesc) : Option Trap :=
  let n := cpyDims d
  let z := cpySizes d
  let sbox := d.ctrl.getLsbD 0
  let dbox := d.ctrl.getLsbD 1
  let s0 := cpyStart sbox d.src
  let d0 := cpyStart dbox d.dst
  let multiple (z : Nat) (xs : List Int) : Bool := (xs.take n).all fun x => x % (z : Int) == 0
  let range (a : Nat) (z : Nat) (p : Int × Int) : Int × Int := ((a : Int) + p.1, (a : Int) + p.2 + z)
  let reads := (d.valid.zip d.count).map fun q => min q.1 q.2
  let sr := range s0 z.1 (cpySpan (reads.take n) d.sstride)
  let dr := range d0 z.2 (cpySpan (d.count.take n) d.dstride)
  firstTrap [
    need (cpyWell d) (Trap.at cENGINE 0x06 at_),
    need (s0 % z.1 == 0 && multiple z.1 d.sstride) (cpyAlign sbox s0),
    need (d0 % z.2 == 0 && (cpyEnc d || multiple z.2 d.dstride)) (Trap.store (cpyAlign dbox d0)),
    if sbox then
      (if (reads.take n).contains 0 then checkBox s gid g d.src 0 0 true else checkBox s gid g d.src sr.1 sr.2 true)
    else none,
    if dbox then (if cpyEnc d then checkBox s gid g d.dst 0 0 false else checkBox s gid g d.dst dr.1 dr.2 false) else none,
    if cpyEnc d then
      (match encParam d.param, heldBox s gid g (descHandle d.dst) with
       | some p, some (_, b) =>
         need (dbox && n == 2 && d.count.getD 0 0 == 64 && d.count.getD 1 0 == 64 && z.2 == 2 &&
             (!d.ctrl.getLsbD 8 || cpyField d 12 == 1) && decide (d0 + Num.tileBytes p.f4 p.cap ≤ b.bytes))
           (Trap.at cENGINE 0x06 at_)
       | _, _ => some (Trap.at cENGINE 0x06 at_))
    else none]
/-- A copy descriptor from its sixteen words (R263). -/
def cpyDesc (w : List DWord) : CpyDesc :=
  let b := (wordBytes w).toArray
  let at_ (o n : Nat) : Nat := ofBytes ((List.range n).map fun i => b.getD (o + i) 0)
  let i32 (o : Nat) : Int := (BitVec.ofNat 32 (at_ o 4)).toInt
  { src := w.getD 0 0, dst := w.getD 1 0, ctrl := w.getD 2 0, param := w.getD 3 0
    count := (List.range 8).map fun k => at_ (32 + 2 * k) 2
    valid := (List.range 8).map fun k => at_ (48 + 2 * k) 2
    sstride := (List.range 8).map fun k => i32 (64 + 4 * k)
    dstride := (List.range 8).map fun k => i32 (96 + 4 * k) }

/-- cpy (R263, R264). The chit is checked last (DESIGN CHOICE, log entry 86), and a descriptor on a page that is not resident raises NOPAGE
(DEDUCED, log entry 94). -/
def execCpy (o : OpCpy) (s : State) : Host.Outcome State Fault Refusal :=
  onPart s fun pid p g =>
    (gateP p g 0 [] [⟨o.sa, false⟩] [] [] []).run s
      (let at_ := (sVal p.thr o.sa).toNat
       if at_ % 128 ≠ 0 then .trap s (Trap.at cALIGN 0x00 at_)
       else match readWords (.part pid) (placeOf s (.part pid)) false ((List.range 16).map fun i => at_ + 8 * i) s with
         | (_, _, some t) => .trap s t
         | (w, s', none) =>
           match firstTrap [cpyTrap s' p.gid g at_ (cpyDesc w), chitTrap s' g.tid o.f o.chit] with
           | some t => .trap s t
           | none => issueCmd pid p g o.f o.chit 0 (.cpy (cpyDesc w)) s')

/-! ### cpyx, cpyq -/

/-- The block size in bytes of a gather word (R265). -/
def gatherBlk (w : DWord) : Nat := (w.extractLsb' 0 11).toNat * 128
/-- The index of the highest lane of a mask plus 1, or 0. -/
def highLane (m : DWord) : Nat := Num.bitLen m.toNat
/-- cpyx (R265). -/
def execCpyx (o : OpCpyx) (s : State) : Host.Outcome State Fault Refusal :=
  onLanes s 0 fun pid p g act =>
    (gateP p g act [⟨[o.vi.toNat], false⟩] [⟨o.sa, false⟩, ⟨o.sb, false⟩, ⟨o.sb + 1, false⟩] [] [] []).run s
      (let d := sVal p.thr o.sa
       let base := (sVal p.thr o.sb).toNat
       let w := sVal p.thr (o.sb + 1)
       let limit := (w.extractLsb' 16 32).toNat
       let blk := gatherBlk w
       let ls := lanesOf g.w act
       let idx := ls.map fun l => (l, (laneVal g p.wb o.vi.toNat l).toNat)
       match firstTrap [
         need (descOk d && w.extractLsb' 11 5 == 0 && w.extractLsb' 50 14 == 0 && blk != 0 && decide (blk ≤ 131072))
           (Trap.plain cENGINE 0x06),
         need (base % 128 == 0) (Trap.at cALIGN 0x00 base),
         checkBox s p.gid g d (descOff d) (descOff d + highLane act * blk) false,
         chitTrap s g.tid o.f o.chit] with
       | some t => .trap s t
       | none =>
         let k := (w.extractLsb' 48 2).toNat + 4
         let out := maskOf ((idx.filter fun q => decide (limit ≤ q.2)).map Prod.fst)
         match issueCmd pid p g o.f o.chit (lanesOf 64 act).length (.cpyx d base blk limit idx) s with
         | .done s => .done (setGroup p.gid (putMask k (act &&& lowMask g.w) out) s)
         | .keep s => .keep (setGroup p.gid (putMask k (act &&& lowMask g.w) out) s)
         | r => r)

/-- A queue of an engine belongs to a sequencer context of a launch context on the quad (R122). -/
def ownsQueue (s : State) (quad ctx q : Nat) : Bool :=
  match Cells.get? (quad * 8 + q / 2) s.seqs with
  | some c => c.ctx == ctx
  | none => false
/-- cpyq (R266). A tile is read where it stands, on a multiple of 128 or not (DESIGN CHOICE, log entry 86). -/
def execCpyq (o : OpX2) (s : State) : Host.Outcome State Fault Refusal :=
  onPart s fun pid p g =>
    (gateP p g 0 [] [⟨o.sa, false⟩, ⟨o.sb, false⟩] [] [] []).run s
      (let a := sVal p.thr o.sa
       let w := sVal p.thr o.sb
       let pl := placeOf s (.part pid)
       match firstTrap [
         need (w.extractLsb' 7 57 == 0 && (!w.getLsbD 4 || descOk a)) (Trap.plain cENGINE 0x06),
         need (ownsQueue s (coreQuad pl.core) pl.ctx (w.extractLsb' 0 4).toNat) (Trap.plain cENGINE 0x05),
         if w.getLsbD 4 then checkBox s p.gid g a 0 0 true else none,
         chitTrap s g.tid o.f o.chit] with
       | some t => .trap s t
       | none => issueCmd pid p g o.f o.chit 0 (.cpyq a w) s)

/-! ### Collectives -/

/-- The device is of this module's domain (R267; DESIGN CHOICE, log entry 22). -/
def ofDomain (dev : BitVec 9) : Bool := decide (dev = Config.deviceId) || Config.inDomain dev
/-- The length of a transfer word (R267). -/
def xferLen (w : DWord) : Nat := (w.extractLsb' 16 32).toNat
/-- The checks of xsend and xrecv (R267), in an order that is left open (DESIGN CHOICE, log entry 86). -/
def xferTrap (s : State) (p : Part) (g : Group) (a w : DWord) (f : Bool) (chit : BitVec 6) : Option Trap :=
  firstTrap [
    need (w.extractLsb' 48 16 == 0 && xferLen w != 0 && xferLen w % 128 == 0 && (!w.getLsbD 15 || descOk a))
      (Trap.plain cENGINE 0x06),
    need (ofDomain (w.extractLsb' 0 9)) (Trap.plain cENGINE 0x0B),
    if w.getLsbD 15 then checkBox s p.gid g a (descOff a) (descOff a + xferLen w) true else none,
    chitTrap s g.tid f chit]
/-- A collective command with two uniform sources. -/
def collective (o : OpX2) (check : State → Part → Group → DWord → DWord → Option Trap) (kind : DWord → DWord → CmdKind)
    (s : State) : Host.Outcome State Fault Refusal :=
  onPart s fun pid p g =>
    (gateP p g 0 [] [⟨o.sa, false⟩, ⟨o.sb, false⟩] [] [] []).run s
      (match check s p g (sVal p.thr o.sa) (sVal p.thr o.sb) with
       | some t => .trap s t
       | none => issueCmd pid p g o.f o.chit 0 (kind (sVal p.thr o.sa) (sVal p.thr o.sb)) s)
/-- xsend (R267). -/
def execXsend (o : OpX2) (s : State) : Host.Outcome State Fault Refusal :=
  collective o (fun s p g a w => xferTrap s p g a w o.f o.chit) .xsend s
/-- xrecv (R267). -/
def execXrecv (o : OpX2) (s : State) : Host.Outcome State Fault Refusal :=
  collective o (fun s p g a w => xferTrap s p g a w o.f o.chit) .xrecv s
/-- First participant, participants and elements of a reduction word (R268). -/
def redFirst (w : DWord) : Nat := (w.extractLsb' 0 9).toNat
/-- Participants (R268). -/
def redCount (w : DWord) : Nat := (w.extractLsb' 9 10).toNat
/-- Elements (R268). -/
def redElems (w : DWord) : Nat := (w.extractLsb' 26 32).toNat
/-- xred (R268). -/
def execXred (o : OpX2) (s : State) : Host.Outcome State Fault Refusal :=
  collective o (fun s _ g a w => firstTrap [
    need (w.extractLsb' 58 6 == 0 && redCount w != 0 && decide (redFirst w + redCount w ≤ 512) && redElems w != 0)
      (Trap.plain cENGINE 0x06),
    need (a.toNat % 128 == 0) (Trap.at cALIGN 0x00 a.toNat),
    chitTrap s g.tid o.f o.chit]) .xred s

/-! ### menc, mdec -/

/-- The ranges [a, a+n) and [b, b+m) meet. -/
def overlaps (a n b m : Nat) : Bool := decide (a < b + m) && decide (b < a + n)
/-- The bytes of a box's front copy. -/
def frontBytes (b : Box) (off n : Nat) : Array Byte := (memBytes b.front off n).toArray
/-- menc (R190, R191). -/
def execMenc (o : OpMenc) (s : State) : Host.Outcome State Fault Refusal :=
  onPart s fun pid p g =>
    (gateP p g 0 [] [⟨o.sa, false⟩, ⟨o.sb, false⟩, ⟨o.sp, false⟩] [] [] []).run s
      (let d := sVal p.thr o.sa
       let c := sVal p.thr o.sb
       let w := sVal p.thr o.sp
       let n : Nat := match encParam w with
         | some e => Num.tileBytes e.f4 e.cap
         | none => 0
       match firstTrap [
         need (descOff c % 128 == 0) (Trap.box cALIGN 0x00 (descOff c)),
         need (descOff d % 128 == 0) (Trap.store (Trap.box cALIGN 0x00 (descOff d))),
         need (descOk c && descOk d && (encParam w).isSome) (Trap.plain cENGINE 0x06),
         checkBox s p.gid g c (descOff c) (descOff c + 8192) true,
         checkBox s p.gid g d (descOff d) (descOff d + n) false,
         need (!(descHandle c == descHandle d && overlaps (descOff c) 8192 (descOff d) n)) (boxErr 0x04 (descOff d) true),
         chitTrap s g.tid o.f o.chit] with
       | some t => .trap s t
       | none => issueCmd pid p g o.f o.chit 0 (.menc d c w) s)
/-- The size of the tile whose header lies at an offset of a box: 64 where the header is poisoned or does not pass (R109, R192,
R372). -/
def tileAt (b : Box) (off : Nat) : Nat :=
  if (boxPoison b off 64).isSome then 64
  else match Num.readHead (frontBytes b off 64) with
    | some h => Num.tileBytes h.f4 h.cap
    | none => 64
/-- mdec (R192). -/
def execMdec (o : OpX2) (s : State) : Host.Outcome State Fault Refusal :=
  onPart s fun pid p g =>
    (gateP p g 0 [] [⟨o.sa, false⟩, ⟨o.sb, false⟩] [] [] []).run s
      (let d := sVal p.thr o.sa
       let c := sVal p.thr o.sb
       let n : Nat := match heldBox s p.gid g (descHandle c) with
         | some (_, b) => tileAt b (descOff c)
         | none => 64
       match firstTrap [
         need (descOff c % 128 == 0) (Trap.box cALIGN 0x00 (descOff c)),
         need (descOff d % 128 == 0) (Trap.store (Trap.box cALIGN 0x00 (descOff d))),
         need (descOk c && descOk d) (Trap.plain cENGINE 0x06),
         checkBox s p.gid g c (descOff c) (descOff c + n) true,
         checkBox s p.gid g d (descOff d) (descOff d + 8192) false,
         need (!(descHandle c == descHandle d && overlaps (descOff c) n (descOff d) 8192)) (boxErr 0x04 (descOff d) true),
         chitTrap s g.tid o.f o.chit] with
       | some t => .trap s t
       | none => issueCmd pid p g o.f o.chit 0 (.mdec d c) s)

/-! ### Running -/

/-- How far a running command has come: done, waiting for a page or for something else, or failed with what it has written. -/
inductive Perf where
  | ok (s : State)
  | ask (page : Nat) (s : State)
  | held (s : State)
  | fail (s : State) (e : CmdErr)
  deriving DecidableEq, Repr

/-- Read bytes of a command's box. -/
def cmdBoxRead (s : State) (tid : Nat) (d : DWord) (off n : Nat) : Except CmdErr (List Byte) :=
  match teamBox s tid (descHandle d) with
  | none => .error (boxCmdErr 0x09 0x01 off false)
  | some (_, b) =>
    if b.bytes < off + n then .error (boxCmdErr 0x09 0x02 off false)
    else match boxPoison b off n with
      | some q => .error (boxCmdErr 0x10 0x04 q false)
      | none => .ok (memBytes b.front off n)
/-- Write bytes of a command's box. -/
def cmdBoxWrite (s : State) (tid : Nat) (d : DWord) (off : Nat) (x : List Byte) : Except CmdErr State :=
  match teamBox s tid (descHandle d) with
  | none => .error (boxCmdErr 0x09 0x01 off true)
  | some (uid, b) =>
    if b.bytes < off + x.length then .error (boxCmdErr 0x09 0x02 off true)
    else .ok (setBox uid (boxKey (descHandle d)) (engineBox off x) s)
/-- Read bytes of a command's operand: a box or memory. -/
def operandRead (pl : Place) (c : Cmd) (box : Bool) (d : DWord) (a n : Nat) (s : State) : EngIO :=
  if box then
    match cmdBoxRead s c.tid d a n with
    | .ok x => .ok x s
    | .error e => .err e
  else engRead pl c.asked a n s
/-- Write bytes of a command's operand. -/
def operandWrite (pl : Place) (c : Cmd) (box : Bool) (d : DWord) (a : Nat) (x : List Byte) (s : State) : EngIO :=
  if box then
    match cmdBoxWrite s c.tid d a x with
    | .ok s => .ok [] s
    | .error e => .err e
  else engWrite pl c.asked a x s

/-- The index tuples of a copy in loop order: outermost level first in the list of levels, each tuple as (dimension, index)
(R264). -/
def loopTuples : List (Nat × Nat) → List (List (Nat × Nat))
  | [] => [[]]
  | (k, n) :: r => (List.range n).flatMap fun i => (loopTuples r).map fun t => (k, i) :: t
/-- The byte offset of a tuple under strides. -/
def tupleOff (t : List (Nat × Nat)) (st : List Int) : Int := (t.map fun q => (q.2 : Int) * st.getD q.1 0).sum
/-- The element of a tuple, converted (R264). -/
def cpyConvert (d : CpyDesc) (x : List Byte) : List Byte :=
  if d.ctrl.getLsbD 8 then
    toBytes (cpySizes d).2 (Num.fcvt (Num.cvtFmt (d.ctrl.extractLsb' 9 3)) (Num.cvtFmt (d.ctrl.extractLsb' 12 3))
      (Num.cvtMode (d.ctrl.extractLsb' 15 3)) (BitVec.ofNat 32 (ofBytes x))).1.toNat
  else x
/-- The source bytes of an element of a copy: where the copy has already written some of them, as they stand or as they stood
before, by a free value (R264; DESIGN CHOICE, log entry 66). -/
def cpySource (pl : Place) (c : Cmd) (d : CpyDesc) (old : State) (src : Nat) (now : List Byte) : List Byte :=
  match operandRead pl c (d.ctrl.getLsbD 0) d.src src (cpySizes d).1 old with
  | .ok v _ => if v = now then now else if Config.copyReadsOld c.ticket src then v else now
  | _ => now
/-- The tuples of a copy, one after the other, with the tile buffer of an encode; `old` is the state before the first of them. -/
def cpyGo (pl : Place) (c : Cmd) (d : CpyDesc) (old : State) : List (List (Nat × Nat)) → Array Nat → State → Perf × Array Nat
  | [], x, s => (.ok s, x)
  | t :: r, x, s =>
    let here := t.all fun q => decide (q.2 < d.valid.getD q.1 0)
    let wrap (i : Int) : Nat := (BitVec.ofInt 64 i).toNat
    let src := wrap ((cpyStart (d.ctrl.getLsbD 0) d.src : Int) + tupleOff t d.sstride)
    let dst := wrap ((cpyStart (d.ctrl.getLsbD 1) d.dst : Int) + tupleOff t d.dstride)
    let put (v : List Byte) (s : State) : Perf × Array Nat :=
      if cpyEnc d then
        let i (k : Nat) : Nat := ((t.find? fun q => q.1 == k).map Prod.snd).getD 0
        cpyGo pl c d old r (x.setIfInBounds (i 1 * 64 + i 0) (ofBytes v)) s
      else match operandWrite pl c (d.ctrl.getLsbD 1) d.dst dst v s with
        | .ok _ s => cpyGo pl c d old r x s
        | .ask b s => (.ask b s, x)
        | .err e => (.fail s e, x)
    if here then
      match operandRead pl c (d.ctrl.getLsbD 0) d.src src (cpySizes d).1 s with
      | .ok v s => put (cpyConvert d (cpySource pl c d old src v)) s
      | .ask b s => (.ask b s, x)
      | .err e => (.fail s e, x)
    else if d.ctrl.getLsbD 18 then put (List.replicate (cpySizes d).2 0) s
    else cpyGo pl c d old r x s
/-- A copy (R264). Elements of the tile buffer that no tuple writes are 0 (DESIGN CHOICE, log entry 74). -/
def runCpy (pl : Place) (c : Cmd) (d : CpyDesc) (s : State) : Perf :=
  let levels := (((cpyPerm d).take (cpyDims d)).map fun k => (k, d.count.getD k 0)).reverse
  match cpyGo pl c d s (loopTuples levels) (Array.replicate 4096 0) s with
  | (.ok s, x) =>
    if cpyEnc d then
      match encParam d.param with
      | some p => (match cmdBoxWrite s c.tid d.dst (descOff d.dst) (Num.encodeTile p x).bytes with
        | .ok s => .ok s
        | .error e => .fail s e)
      | none => .ok s
    else .ok s
  | (r, _) => r

/-- The blocks of a gather (R265). -/
def runCpyx (pl : Place) (c : Cmd) (d : DWord) (base blk limit : Nat) : List (Nat × Nat) → State → Perf
  | [], s => .ok s
  | (l, i) :: r, s =>
    let start := descOff d + l * blk
    let put (x : List Byte) (s : State) : Perf := match cmdBoxWrite s c.tid d start x with
      | .ok s => runCpyx pl c d base blk limit r s
      | .error e => .fail s e
    if i < limit then
      match engRead pl c.asked ((base + i * blk) % 2 ^ 64) blk s with
      | .ok x s => put x s
      | .ask b s => .ask b s
      | .err e => .fail s e
    else put (List.replicate blk 0) s

/-- A queue of a quad. -/
def queueOf (s : State) (quad q : Nat) : List OQEntry := Cells.get [] q (quadOf s quad).queues
/-- Change a queue of a quad. -/
def setQueue (quad q : Nat) (f : List OQEntry → List OQEntry) (s : State) : State :=
  setQuad quad (fun k => { k with queues := Cells.put [] q (f (Cells.get [] q k.queues)) k.queues }) s
/-- An earlier `cpyq` of the same core to the same queue goes first, unless it cannot push: it has failed, or its unit is not resident
(R262, R266). -/
def cpyqTurn (s : State) (c : Cmd) (q : Nat) : Bool :=
  s.cmds.all fun m => m.core != c.core || decide (c.ticket ≤ m.ticket) || m.failed.isSome || cmdRes s m != some .resident || (match m.kind with
    | .cpyq _ w => (w.extractLsb' 0 4).toNat != q
    | _ => true)
/-- Where `cpyq` reads: an offset or an address. -/
def cpyqPos (c : Cmd) (a w : DWord) : Nat := cpyStart (w.getLsbD 4) a + c.pos
/-- Change a command. -/
def setCmd (ticket : Nat) (f : Cmd → Cmd) (s : State) : State :=
  { s with cmds := s.cmds.map fun m => if m.ticket = ticket then f m else m }
/-- Push the next tile of a `cpyq` (R266): the state with the command moved on, or its error. -/
def pushTile (pl : Place) (c : Cmd) (a w : DWord) (s : State) : Perf :=
  let q := (w.extractLsb' 0 4).toNat
  let at_ := cpyqPos c a w
  let quad := coreQuad c.core
  match operandRead pl c (w.getLsbD 4) a at_ 64 s with
  | .ask b s => .ask b s
  | .err e => .fail s e
  | .ok h s => match Num.readHead h.toArray with
    | none => .fail s (operandErr (w.getLsbD 4) 0x13 0x03 at_)
    | some t =>
      let n := Num.tileBytes t.f4 t.cap
      let lists := Num.bodyBytes t.f4
      let fits := !w.getLsbD 4 || (match teamBox s c.tid (descHandle a) with
        | some (_, b) => decide (at_ + n ≤ b.bytes)
        | none => false)
      if !fits then .fail s (boxCmdErr 0x09 0x02 at_ false)
      else match operandRead pl c (w.getLsbD 4) a (at_ + lists) (n - lists) s with
        | .ask b s => .ask b s
        | .err e => .fail s e
        | .ok x s =>
          if !cpyqTurn s c q || decide (4 ≤ (queueOf s quad q).length) then .held s
          else
            let recs := (List.range t.nout.sum).map fun i => BitVec.ofNat 32 (ofBytes ((x.drop (4 * i)).take 4))
            let e : OQEntry := ⟨BitVec.ofNat 16 t.tensor, recs, false⟩
            .ok (setCmd c.ticket (fun m => { m with pushed := m.pushed + 1, pos := m.pos + Num.tileSpan t.f4 t.cap })
              (setQueue quad q (fun l => l ++ [e]) s))
/-- Tiles of a `cpyq` (R266). -/
def cpyqTiles (w : DWord) : Nat := (w.extractLsb' 5 2).toNat + 1
/-- Push tiles while there is room; the count left is the fuel. -/
def runCpyq (pl : Place) (ticket : Nat) (a w : DWord) : Nat → State → Perf
  | 0, s => .ok s
  | n + 1, s => match s.cmds.find? fun m => m.ticket == ticket with
    | none => .ok s
    | some c =>
      if cpyqTiles w ≤ c.pushed then .ok s
      else match pushTile pl c a w s with
        | .ok s => runCpyq pl ticket a w n s
        | r => r

/-- `menc` in the encoder (R191): the tile is written and the flags merged. -/
def runMenc (c : Cmd) (d src w : DWord) (s : State) : Perf :=
  match encParam w with
  | none => .ok s
  | some p => match cmdBoxRead s c.tid src (descOff src) 8192 with
    | .error e => .fail s e
    | .ok x =>
      let b := x.toArray
      let codes := (Array.range 4096).map fun i => (b.getD (2 * i) 0).toNat + (b.getD (2 * i + 1) 0).toNat * 256
      let r := Num.encodeTile p codes
      match cmdBoxWrite s c.tid d (descOff d) r.bytes with
      | .error e => .fail s e
      | .ok s => .ok (setGroup c.gid (fun g =>
          { mergeAfl r.flags g with
            ovf := match r.ovf with
              | some (i, n) => recordOvf g.ovf i n (BitVec.ofNat 16 p.tensor)
              | none => g.ovf }) s)
/-- `mdec` in the encoder (R192). -/
def runMdec (c : Cmd) (d src : DWord) (s : State) : Perf :=
  match cmdBoxRead s c.tid src (descOff src) 64 with
  | .error e => .fail s e
  | .ok h => match Num.readHead h.toArray with
    | none => .fail s (boxCmdErr 0x13 0x03 (descOff src) false)
    | some t => match cmdBoxRead s c.tid src (descOff src) (Num.tileBytes t.f4 t.cap) with
      | .error e => .fail s e
      | .ok x =>
        let r := Num.decodeTile t x.toArray
        match cmdBoxWrite s c.tid d (descOff d) r.1 with
        | .error e => .fail s e
        | .ok s => .ok (setGroup c.gid (mergeAfl r.2) s)

/-- The first arrival of a kind from a device on a channel (R267). -/
def arrivalOf (s : State) (dev : BitVec 9) (kind : BitVec 2) (chan : BitVec 6) : Option PeerCollective :=
  s.arrivals.find? fun a => a.dev == dev && a.kind == kind && a.chan == chan
/-- Arrivals without the first that equals a given one. -/
def takeArrival (a : PeerCollective) (s : State) : State := { s with arrivals := s.arrivals.erase a }
/-- An outstanding command of the collective unit: its kind, peer and channel. -/
def xferKey (c : Cmd) : Option (BitVec 2 × BitVec 9 × BitVec 6) :=
  match c.kind with
  | .xsend _ w => some (0, w.extractLsb' 0 9, w.extractLsb' 9 6)
  | .xrecv _ w => some (1, w.extractLsb' 0 9, w.extractLsb' 9 6)
  | .xred _ w => some (2, 0, w.extractLsb' 19 6)
  | _ => none
/-- No earlier command of the unit waits for the same match (R267). -/
def xferTurn (s : State) (c : Cmd) : Bool :=
  s.cmds.all fun m => xferKey m != xferKey c || decide (c.ticket ≤ m.ticket)
/-- Send a collective message to a device; one to this device arrives here (R267). -/
def announce (dev : BitVec 9) (kind : BitVec 2) (chan : BitVec 6) (w : DWord) (d : List Byte) (s : State) : State :=
  if dev = Config.deviceId then { s with arrivals := s.arrivals ++ [⟨dev, kind, chan, w, d⟩] }
  else send (.collective dev.toNat kind.toNat chan.toNat w d) s
/-- The error of a collective whose sides differ (R267, R268). -/
def mismatch (box : Bool) (a : Nat) : CmdErr := operandErr box 0x13 0x0A a
/-- The command has not announced itself yet. -/
def fresh (c : Cmd) : Bool := c.pushed == 0
/-- Note that it has. -/
def announced (c : Cmd) (s : State) : State := setCmd c.ticket (fun m => { m with pushed := 1 }) s

/-- `xsend` (R267): it moves its bytes once the receiver's `xrecv` has arrived. Where its bytes cannot be read, a message without
bytes takes their place, so that the receiver's command ends too and later transfers match as before (DESIGN CHOICE,
log entry 22). -/
def runXsend (pl : Place) (c : Cmd) (a w : DWord) (s : State) : Perf :=
  let dev := w.extractLsb' 0 9
  let chan := w.extractLsb' 9 6
  match (if xferTurn s c then arrivalOf s dev 1 chan else none) with
  | none => .held s
  | some m =>
    if xferLen m.word ≠ xferLen w then
      .fail (announce dev 0 chan w [] (takeArrival m s)) (mismatch (w.getLsbD 15) a.toNat)
    else match operandRead pl c (w.getLsbD 15) a (cpyStart (w.getLsbD 15) a) (xferLen w) s with
      | .ask b s => .ask b s
      | .err e => .fail (announce dev 0 chan 0 [] (takeArrival m s)) e
      | .ok x s => .ok (announce dev 0 chan w x (takeArrival m s))
/-- `xrecv` (R267): it announces itself when its turn on the channel comes, so that transfers match in order, and writes the bytes that arrive; released at system scope. -/
def runXrecv (pl : Place) (c : Cmd) (a w : DWord) (s : State) : Perf :=
  let dev := w.extractLsb' 0 9
  let chan := w.extractLsb' 9 6
  let s := if xferTurn s c && fresh c then announced c (announce dev 1 chan w [] s) else s
  match (if xferTurn s c then arrivalOf s dev 0 chan else none) with
  | none => .held s
  | some m =>
    if xferLen m.word ≠ xferLen w then .fail (takeArrival m s) (mismatch (w.getLsbD 15) a.toNat)
    else match operandWrite pl c (w.getLsbD 15) a (cpyStart (w.getLsbD 15) a) (m.data.take (xferLen w)) s with
      | .ask b s => .ask b s
      | .err e => .fail (takeArrival m s) e
      | .ok _ s => .ok (takeArrival m s)

/-- Bytes of an element of a reduction (R268). -/
def redSize (w : DWord) : Nat := if w.getLsbD 25 then 16 else 4
/-- Two buffers combined element by element by the PHASE of R268, where block exponents are phase 0, although R96 and R163 call them
phase 1 (DEDUCED, log entry 96). -/
def redCombine (w : DWord) : Nat → List Byte → List Byte → List Byte
  | 0, _, _ => []
  | n + 1, x, y =>
    let z := redSize w
    let a := ofBytes (x.take z)
    let b := ofBytes (y.take z)
    let r := if w.getLsbD 25 then (Num.binnedAdd (BitVec.ofNat 128 a) (BitVec.ofNat 128 b)).1.toNat
      else if signedOf 4 a < signedOf 4 b then b else a
    toBytes z r ++ redCombine w n (x.drop z) (y.drop z)
/-- The participants of a reduction (R268). -/
def redDevs (w : DWord) : List (BitVec 9) := (List.range (redCount w)).map fun i => BitVec.ofNat 9 (redFirst w + i)
/-- Messages on a reduction's channel that carry its word from devices that this word does not name (R268): such a device has issued
this reduction without being a participant. A message with another word from such a device waits for a reduction that names it
(DESIGN CHOICE, log entry 22). -/
def strangers (s : State) (chan : BitVec 6) (w : DWord) : List PeerCollective :=
  s.arrivals.filter fun m => m.kind == 2 && m.chan == chan && m.word == w && !(redDevs w).contains m.dev
/-- A round of reductions fails here: the buffers of the others that have arrived go, and those still to come will not be taken for
another round's (R268). -/
def failRound (chan : BitVec 6) (others : List (BitVec 9)) (s : State) : State :=
  others.foldl (fun s d => match arrivalOf s d 2 chan with
    | some m => takeArrival m s
    | none => { s with stale := s.stale ++ [(d, chan)] }) s
/-- A message of another device arrives: it waits to be matched in arrival order, unless it belongs to a reduction that has failed
here (R267, R268). -/
def peerArrive (a : PeerCollective) (s : State) : State :=
  if a.kind = 2 ∧ (a.dev, a.chan) ∈ s.stale then { s with stale := s.stale.erase (a.dev, a.chan) }
  else { s with arrivals := s.arrivals ++ [a] }
/-- The buffer of a reduction: as it was announced, or as it stands while it has not been. -/
def redBuffer (pl : Place) (c : Cmd) (a w : DWord) (s : State) : EngIO :=
  if fresh c then engRead pl c.asked a.toNat (redElems w * redSize w) s else .ok c.sent s
/-- `xred` (R268): it sends its buffer to every participant, and reduces once every other buffer has arrived. A device that is no
participant sends only its word, and every participant that meets it completes with the same error. -/
def runXred (pl : Place) (c : Cmd) (a w : DWord) (s : State) : Perf :=
  let chan := w.extractLsb' 19 6
  let others := (redDevs w).filter fun d => d != Config.deviceId
  if !(redDevs w).contains Config.deviceId then
    .fail (others.foldl (fun s d => announce d 2 chan w [] s) s) (mismatch false a.toNat)
  else match redBuffer pl c a w s with
    | .ask b s => .ask b s
    | .err e => .fail s e
    | .ok x s =>
      let s := if fresh c then
          setCmd c.ticket (fun m => { m with pushed := 1, sent := x }) (others.foldl (fun s d => announce d 2 chan w x s) s)
        else s
      let odd := strangers s chan w
      let got := others.filterMap fun d => arrivalOf s d 2 chan
      if !xferTurn s c then .held s
      else if !odd.isEmpty || got.any (fun m => m.word != w) then
        .fail (failRound chan others (odd.foldl (fun s m => takeArrival m s) s)) (mismatch false a.toNat)
      else if got.length ≠ others.length then .held s
      else
        let bufs := (redDevs w).map fun d => if d = Config.deviceId then x
          else ((got.find? fun m => m.dev == d).map fun m => m.data).getD []
        let sum := (bufs.drop 1).foldl (fun t b => redCombine w (redElems w) t b) (bufs.headD [])
        match engWrite pl c.asked a.toNat sum s with
        | .ask b s => .ask b s
        | .err e => .fail (failRound chan others s) e
        | .ok _ s => .ok (failRound chan others s)

/-- A command runs as far as it can. -/
def runCmd (c : Cmd) (s : State) : Perf :=
  let pl := enginePlace s c.core c.ctx
  match c.kind with
  | .cpy d => runCpy pl c d s
  | .cpyx d base blk limit idx => runCpyx pl c d base blk limit idx s
  | .cpyq a w => runCpyq pl c.ticket a w 4 s
  | .menc d src w => runMenc c d src w s
  | .mdec d src => runMdec c d src s
  | .xsend a w => runXsend pl c a w s
  | .xrecv a w => runXrecv pl c a w s
  | .xred a w => runXred pl c a w s

/-! ### Completion -/

/-- The part that a command with f = 0 holds goes on past it. -/
def releaseHeld (c : Cmd) (s : State) : State :=
  setThread c.who (fun t => match t.wait with
    | .command k n => if k = c.ticket then retireThread s.tick (pc56 (t.pc + BitVec.ofNat 64 n)) t else t
    | _ => t) s
/-- A command has left the core's count: what waited for that looks again. -/
def dropCmd (c : Cmd) (s : State) : State :=
  let s := { s with cmds := s.cmds.filter fun m => m.ticket != c.ticket }
  wakeIf (fun a w => (w == .issueLimit && agentCore s a == c.core) || (w == .flagMerge && decide (a = c.who))) s
/-- The scope at which a command's writes have completed before its chit is set: 1 cluster, 2 package, 3 system (R211, R228,
R263, R267, R268). -/
def cmdScope : CmdKind → Nat
  | .cpy d => max 1 (d.ctrl.extractLsb' 20 2).toNat
  | .xsend _ _ => 3
  | .xrecv _ _ => 3
  | .xred _ _ => 3
  | _ => 1
/-- The release that ends a command's writes, whether it completes or fails (R211, R228). -/
def cmdRelease (c : Cmd) (s : State) : State := engRelease (coreDie c.core) (cmdScope c.kind) s
/-- A command completes (R228, R262). -/
def endCmd (c : Cmd) (s : State) : State :=
  let s := dropCmd c (cmdRelease c s)
  match c.chit with
  | some k => setChit c.tid k.toNat false s
  | none => releaseHeld c s
/-- The trap of a command's error. -/
def errTrap (c : Cmd) (e : CmdErr) : Trap :=
  { Trap.at e.cause e.detail e.addr.toNat with wr := e.wr, paged := e.paged, chit := c.chit }
/-- The record of a failed command with f = 1 (R262, R364, R365). -/
def cmdRecord (s : State) (c : Cmd) (e : CmdErr) (serial : BitVec 32) : List DWord :=
  let g := (Cells.get? c.gid s.groups).map Group.gslot
  let t := (Cells.get? c.tid s.teams).map Team.tslot
  let tsd := match c.who with
    | .part pid => ((Cells.get? pid s.parts).map fun p => p.tstack.length).getD 0
    | _ => 0
  let b := if namesAddress (errTrap c e) then pageBase s (ctxPart s c.ctx) e.addr.toNat else (0, 4096)
  [recW1 e.cause e.detail 3 0 0 0 e.wr true tsd (pgszCode b.2) (g.getD 0) (t.getD 0) c.ctx,
   BitVec.ofNat 64 (serial.toNat + c.core * 2 ^ 32), pc56 c.pc, BitVec.ofNat 64 (b.1 % 2 ^ 56), 0, pc56 e.addr,
   recW7 0 c.chit 0]
/-- The copy engine holds a pending record for the context (R366). -/
def engineRecord (s : State) (c : Cmd) : Bool := s.recs.any fun r => r.ctx == c.ctx && r.core == 1024 + coreQuad c.core
/-- A failed command ends: with f = 0 its cause is raised in the part, once no other agent's pending record is in the way, with
f = 1 its record is written, and then its chit is set with its error bit (R262, R366). -/
def failCmd (c : Cmd) (e : CmdErr) (s : State) : State :=
  let s := if e.cause = cNOPAGE then noteAt (ctxPart s c.ctx) e.addr.toNat s else s
  match c.chit with
  | none =>
    if trapHeld s c.who (errTrap c e) then setCmd c.ticket (fun m => { m with failed := some e }) s
    else
      let s := dropCmd c s
      (match thread? s c.who with
       | some t => (match t.wait with
         | .command k n => if k = c.ticket then takeTrap c.who n (errTrap c e) s else s
         | _ => s)
       | none => s)
  | some k =>
    let s := setCmd c.ticket (fun m => { m with failed := some e }) s
    let s := if c.recorded ∨ engineRecord s c then s
      else match ctxOf? s c.ctx with
        | none => s
        | some x =>
          let serial := x.serial + 1
          emit c.ctx (1024 + coreQuad c.core) .none [cmdRecord s c e serial]
            (setCmd c.ticket (fun m => { m with recorded := true }) (setCtx c.ctx (fun x => { x with serial := serial }) s))
    match s.cmds.find? fun m => m.ticket == c.ticket with
    | some m => if m.recorded && !engineRecord s c then setChit c.tid k.toNat true (dropCmd c s) else s
    | none => s
/-- A command takes its next step: it completes, waits, or fails. -/
def driveCmd (c : Cmd) (s : State) : State :=
  match c.failed with
  | some e => failCmd c e s
  | none => match runCmd c s with
    | .ok s => endCmd c s
    | .held s => s
    | .fail s e => failCmd c e (cmdRelease c s)
    | .ask b s =>
      if c.asked.contains (b, none) then s
      else askPage (ctxPart s c.ctx) b (coreDie c.core) (setCmd c.ticket (fun m => { m with asked := noteAsk b m.asked }) s)

end Sys2Proof.Machine
end

