-- ==== Sys2Proof/Machine/HostFn.lean ====
section
/-!
DEFINITION. What the host, the operator and the tenant do to the module through its functions: feature and other registers
(R8, R9, R280, R331, R351, R368, R377, R393), TDISP (R342 to R344), SPDM and measurements (R347, R348), keys (R345, R346),
debug policies (R350), and the operator's partition commands (R286, R300, R343, R409).
-/

namespace Sys2Proof.Machine

/-! ### Functions and their state -/

/-- Key of a function: the index of a VF, 64 for the PF. -/
def fnKey : Fn → Nat
  | .pf => 64
  | .vf i => i.toNat
/-- The SPDM state of a function (R347). -/
def spdmOf (s : State) (f : Fn) : Spdm := Cells.get Spdm.idle (fnKey f) s.spdm
/-- Change it. -/
def setSpdm (f : Fn) (x : Spdm) (s : State) : State := { s with spdm := Cells.put Spdm.idle (fnKey f) x s.spdm }
/-- The function has an SPDM secured session (R342, R347). -/
def inSession (s : State) (f : Fn) : Bool := spdmOf s f == .session
/-- State of a partition's TDI. -/
def tdiOf (s : State) (p : BitVec 6) : Option Tdi := (parOf? s p).map Partition.tdi
/-- A request to a VF comes under IDE protection (R346). -/
def vfIde (s : State) (p : BitVec 6) : Bool :=
  match parOf? s p with
  | some t => t.ideKeyed && !s.bare
  | none => false
/-- The VF takes register requests: TDI in RUN, under IDE, the partition not leaving (R331, R346). -/
def vfOpen (s : State) (p : BitVec 6) : Bool :=
  match parOf? s p with
  | some t => t.tdi == .run && vfIde s p && t.leaving.isNone
  | none => false

/-- A request to a VF's registers without IDE protection, or with the TDI outside RUN, is answered as Unsupported Request (R346). -/
def unsupported (p : BitVec 6) (s : State) : State := send (.unsupported p) s

/-! ### Leaving -/

/-- The contexts of a partition. -/
def parCtxs (s : State) (p : BitVec 6) : List Nat := (s.ctxs.filter fun k => k.2.part == p).map Prod.fst
/-- Kill every context of a partition (R374). -/
def killAll (p : BitVec 6) (reason : BitVec 8) (s : State) : State :=
  (parCtxs s p).foldl (fun s c => killCtx c reason s) s
/-- DONE, NOTIFY and TAG of a fetched record (R282). -/
def recDone (w : List DWord) : Nat × Bool × DWord :=
  ((w.getD 10 0).toNat % 2 ^ 56, (w.getD 4 0).getLsbD 34, w.getD 12 0)
/-- A partition starts to leave (R344): its contexts are killed and its pending launches end with STATUS 0x07. -/
def leaveNow (p : BitVec 6) (why : Leave) (s : State) : State :=
  match parOf? s p with
  | none => s
  | some t =>
    let s := setPar p (fun t =>
      { t with leaving := (match t.leaving, why with
                 | some .destroy, _ => some .destroy
                 | _, w => some w) }) s
    let s := killAll p 0x02 s
    let s := (s.kills.filter fun k => k.part == p).foldl (fun s k => driveKill k s) { s with notes := s.notes.filter fun n => n.part != p }
    let s := t.fetched.foldl (fun (s : State) (f : Nat × Fetched) =>
      let d := recDone f.2.words
      startDone p d.1 0x07 0x02 d.2.2 d.2.1 s) s
    setPar p (fun t => { t with fetched := [] }) s
/-- A partition leaves now, or once the copy of a checkpoint or restore has ended (R381). -/
def startLeave (p : BitVec 6) (why : Leave) (s : State) : State :=
  if copying s p then { s with deferred := s.deferred ++ [.leave p why] } else leaveNow p why s
/-- The TDI goes to ERROR (R343). -/
def toError (p : BitVec 6) (s : State) : State :=
  match tdiOf s p with
  | some .locked | some .run => startLeave p .error (setPar p (fun t => { t with tdi := .error }) s)
  | _ => s
/-- The TDIs of the partitions in whose tables the MC has met a breach of R339 go to ERROR (R343). -/
def settleBreaches (s : State) : State := s.breaches.foldl (fun s p => toError p s) { s with breaches := [] }
/-- A change to a frozen item is carried out, and in CONFIG_LOCKED or RUN it moves the TDI to ERROR (R343). -/
def changeFrozen (p : BitVec 6) (f : Partition → Partition) (s : State) : State := toError p (setPar p f s)
/-- A PF request that changes the BAR layout of a VF's TDI (R343). -/
def relayoutBar (p : BitVec 6) (bar : Nat) (s : State) : State := changeFrozen p (fun t => { t with bar := bar }) s

/-- Nothing of a partition is in flight (R344). -/
def parIdle (s : State) (p : BitVec 6) : Bool :=
  (parCtxs s p).isEmpty && (!s.dones.any fun d => d.part == p) && (!s.kills.any fun k => k.part == p) &&
    (match s.ck with
     | some r => !r.parts.contains p
     | none => true)
/-- Free the frames of a partition, its sequences, and what the device holds for it elsewhere (R344). That its feature registers
return to 0 with the other registers of its VF is the model's choice (DESIGN CHOICE, log entry 71). -/
def scrub (p : BitVec 6) (s : State) : State :=
  let fs := s.frames.filter fun f : Nat × Frame => f.2.part == p
  let s := fs.foldl (fun s f => freeFrame f.1 s) s
  let quads := match parOf? s p with
    | some t => t.quads ++ t.heldQuads
    | none => []
  { s with
    cores := (s.cores.map fun c => (c.1, if quads.contains (coreQuad c.1) then { c.2 with gens := [] } else c.2)).filter fun c =>
      c.2 != Core.zero
    deferred := s.deferred.filter fun d => match d with
      | .kill q _ _ => q != p
      | .leave q _ => q != p
      | .peer a => a.target != p
      | .mcmd q _ => q != p
      | .ccmd q _ => q != p
    breaches := s.breaches.filter fun q => q != p
    sqs := s.sqs.filter fun q => q.part != p
    pris := s.pris.filter fun r => r.part != p
    tablePoison := s.tablePoison.filter fun r => decide (r.1 ≠ p)
    fns := Cells.erase p.toNat s.fns }
/-- LEAVE_SCRUB (R344): scrub, destroy the keys, return the frames, report. -/
def execLeaveScrub (p : BitVec 6) (s : State) : Host.Outcome State Fault Refusal :=
  .next (match parOf? s p with
    | none => s
    | some t => match t.leaving with
      | none => s
      | some why =>
        if !parIdle s p then s
        else
          let s := scrub p s
          let bare : Partition :=
            { Partition.zero with
              tdi := if why = .error then .error else .unlocked
              quads := t.quads, pool := t.pool, quantum := t.quantum, bar := t.bar, ideKeyed := t.ideKeyed, hostMem := t.hostMem,
              hostPoison := t.hostPoison }
          let s := if why = .destroy then { s with pars := Cells.erase p.toNat s.pars } else setPar p (fun _ => bare) s
          send (.left p) s)

/-! ### Registers -/

/-- Put a value into a field of bits lo to lo + n − 1; the reserved bits above read 0. -/
def lowField (n : Nat) (v : DWord) : DWord := v &&& lowMask n
/-- A bit of DLOCK is set (R351). -/
def lockOpen (s : State) (p : BitVec 6) (bit : Nat) : Bool := (fnOf s p).dlock.getLsbD bit
/-- The value of a counter of a context on a core as DBGPROF shows it (R391, R393). -/
def profValue (s : State) (ctx core : Nat) (cnt : Nat) : DWord :=
  if 14 ≤ cnt then 0
  else if timeCounter cnt then Config.profTime s.tick
  else Cells.get 0 (ctx * 16 + cnt) (coreOf s core).prof
/-- The count that DBGPROF shows: of the counter that it names, for the context and core that DBGSEL names (R391, R393). -/
def profRead (s : State) (p : BitVec 6) : DWord :=
  let f := fnOf s p
  let ctx := (f.dsel.extractLsb' 0 8).toNat
  if (match ctxOf? s ctx with
    | some k => k.part == p
    | none => false) then profValue s ctx (f.dsel.extractLsb' 8 10).toNat (f.dprof.extractLsb' 0 4).toNat else 0
/-- A write to a register of a VF that has no row of its own. FEATREQ is written under IDE in CONFIG_LOCKED; in RUN a write is ignored
(R9), and elsewhere, or without IDE, it is an Unsupported Request (R346; DEDUCED, log entry 69). A write of MCMD or CCMD with no command
in it changes the register only (R368). LQBASE takes any value, on a multiple of 128 or not (DESIGN CHOICE, log entry 102). -/
def vfWrite (p : BitVec 6) (off : Nat) (v : DWord) (s : State) : State :=
  let f := fnOf s p
  if off = 0x10 ∨ off = 0x18 then
    (if !vfIde s p then unsupported p s
     else if tdiOf s p = some .locked then
      setFn p (fun f => if off = 0x10 then { f with featReq0 := v } else { f with featReq1 := v }) s
     else if tdiOf s p = some .run then s
     else unsupported p s)
  else if !vfOpen s p then unsupported p s
  else if 0x1000 ≤ off ∧ off < 0x1080 ∧ off % 0x20 = 0 then
    let q := (off - 0x1000) / 0x20
    let r := Cells.get LqRegs.zero q f.lq
    if r.en then s else setFn p (fun f => { f with lq := Cells.put LqRegs.zero q { r with base := v } f.lq }) s
  else match off with
    | 0x2008 => if f.mbusy then s else setFn p (fun f => { f with mva := lowField 56 v }) s
    | 0x2010 => if f.mbusy then s else setFn p (fun f => { f with mlen := v }) s
    | 0x2018 => if f.mbusy then s else setFn p (fun f => { f with mpeer := v &&& 0x3F7FFF }) s
    | 0x4000 => setFn p (fun f => { f with mlbase := lowField 56 v }) s
    | 0x4010 => if f.cbusy ∨ v.extractLsb' 0 4 ≠ 0 then s else setFn p (fun f => { f with ccmd := lowField 38 v }) s
    | 0x3008 =>
      let a := v.extractLsb' 0 4
      if lockOpen s p 1 && (a == 0 || decide (6 ≤ a.toNat)) then
        setFn p (fun f => { f with dact := a, dstat := if a = 0 then f.dstat else 0x01 }) s
      else s
    | 0x3010 => if lockOpen s p 1 then setFn p (fun f => { f with dsel := lowField 31 v }) s else s
    | 0x3028 =>
      if lockOpen s p 4 then
        let s := setFn p (fun f => { f with dprof := lowField 4 v }) s
        send (.regValue p 0x3028 (profRead s p)) s
      else s
    | 0x3030 => if lockOpen s p 2 || lockOpen s p 3 then setFn p (fun f => { f with ddata := v }) s else s
    | _ => s
/-- A write to a register of the PF that has no row of its own; a write of CKCMD with no command in it changes the register only
(R377). -/
def pfWrite (off : Nat) (v : DWord) (s : State) : State :=
  let f := s.pf
  match off with
  | 0x10 => if f.vfEnable then s else { s with pf := { f with featReq0 := v } }
  | 0x18 => if f.vfEnable then s else { s with pf := { f with featReq1 := v } }
  | 0x5000 =>
    if f.ckbusy ∨ v.extractLsb' 0 2 ≠ 0 then s else { s with pf := { f with ckcmd := lowField 3 v } }
  | 0x5008 => { s with pf := { f with ckpart := v } }
  | 0x5010 => { s with pf := { f with cktier := lowField 9 v } }
  | 0x5018 => { s with pf := { f with ckbase := v } }
  | _ => s
/-- REGISTER_WRITE (R9, R280, R331, R351, R368, R377, R393): a register that the requester may not write, or may not write
now, keeps its value. -/
def execRegisterWrite (f : Fn) (off : Nat) (val : BitVec 64) (s : State) : Host.Outcome State Fault Refusal :=
  .next (match f with
    | .pf => pfWrite off val s
    | .vf p => vfWrite p off val s)

/-- The status word of a command register: BUSY and RESULT. -/
def statWord (busy : Bool) (result : BitVec 8) : DWord := BitVec.ofNat 64 ((if busy then 1 else 0) + result.toNat * 2 ^ 8)
/-- Ports that operate (R377). -/
def portCount (s : State) : Nat := ((List.range 8).filter fun i => s.ports.getLsbD i).length
/-- A queue register as the host reads it (R280). -/
def lqRead (r : LqRegs) (off : Nat) : DWord :=
  match off with
  | 0x00 => r.base
  | 0x08 => r.log.setWidth 64 ||| (if r.en then 0x20 else 0)
  | 0x10 => r.prod.setWidth 64
  | 0x18 => r.cons.setWidth 64
  | _ => 0
/-- A register of a VF as its host reads it (R9, R280, R331, R351, R368, R393, R409): 0 for a debug register that is closed,
and none, an Unsupported Request, where the VF takes no requests. The feature registers are read under IDE in any state of the TDI
(DESIGN CHOICE, log entry 69: R9 lets the host read them, R346 turns requests outside RUN away). -/
def vfRead (s : State) (p : BitVec 6) (off : Nat) : Option DWord :=
  let f := fnOf s p
  if (if off < 0x30 then !vfIde s p else !vfOpen s p) then none
  else some (match off with
  | 0x00 => feat0
  | 0x10 => f.featReq0
  | 0x18 => f.featReq1
  | 0x20 => f.featMiss0
  | 0x28 => f.featMiss1
  | _ =>
    if 0x1000 ≤ off ∧ off < 0x1080 then lqRead (Cells.get LqRegs.zero ((off - 0x1000) / 0x20) f.lq) (off % 0x20)
    else match off with
      | 0x2000 => f.mcmd
      | 0x2008 => f.mva
      | 0x2010 => f.mlen
      | 0x2018 => f.mpeer
      | 0x2020 => statWord f.mbusy f.mresult
      | 0x2028 => BitVec.ofNat 64 (poolSize s p)
      | 0x2030 => BitVec.ofNat 64 (poolUsed s p)
      | 0x3000 => f.dlock.setWidth 64
      | 0x3008 =>
        if lockOpen s p 1 then
          let k := (ctxOf? s (f.dsel.extractLsb' 0 8).toNat).filter fun k => k.part == p
          BitVec.ofNat 64 (f.dact.toNat + f.dstat.toNat * 2 ^ 8 + (if (k.map Context.dbgStop).getD false then 2 ^ 16 else 0) +
            (if (k.map Context.armed).getD false then 2 ^ 17 else 0))
        else 0
      | 0x3010 => if lockOpen s p 1 then f.dsel else 0
      | 0x3018 => if lockOpen s p 2 then f.dreg else 0
      | 0x3020 => if lockOpen s p 3 then f.dmem else 0
      | 0x3028 => if lockOpen s p 4 then profRead s p else 0
      | 0x3030 => if lockOpen s p 2 || lockOpen s p 3 then f.ddata else 0
      | 0x4000 => f.mlbase
      | 0x4008 => f.mllog.setWidth 64 ||| (if f.mlen_ then 0x20 else 0)
      | 0x4010 => f.ccmd
      | 0x4018 => statWord f.cbusy f.cresult
      | 0x4020 => f.mldrop.setWidth 64
      | _ => 0)
/-- A register of the PF as the operator reads it (R9, R377). -/
def pfRead (s : State) (off : Nat) : DWord :=
  match off with
  | 0x00 => feat0
  | 0x10 => s.pf.featReq0
  | 0x18 => s.pf.featReq1
  | 0x20 => s.pf.featMiss0
  | 0x28 => s.pf.featMiss1
  | 0x5000 => s.pf.ckcmd
  | 0x5008 => s.pf.ckpart
  | 0x5010 => s.pf.cktier
  | 0x5018 => s.pf.ckbase
  | 0x5020 => statWord s.pf.ckbusy s.pf.ckresult ||| BitVec.ofNat 64 (portCount s * 2 ^ 16)
  | 0x5028 => s.pf.cklen
  | _ => 0

/-- What the PF shows of the module: power, die temperatures, clock step, and for each partition its number of resident contexts and
of busy cores, nothing else of it (R351). -/
structure Telemetry where
  power : Nat
  temperatures : List Nat
  clockMhz : Nat
  parts : List (Nat × Nat × Nat)
  deriving DecidableEq, Repr
/-- The teams of a partition that sit on cores. -/
def seatedTeams (s : State) (p : BitVec 6) : List (Nat × Team) :=
  s.teams.filter fun t => ctxPart s t.2.ctx == p && !t.2.exited && unitResident s t.2.uid
/-- The contexts of a partition that are resident: some resident cluster of theirs has a team that has not exited or a sequencer context
that has not ended (R300, R304). -/
def residentCtxs (s : State) (p : BitVec 6) : List Nat :=
  (((seatedTeams s p).map fun t => t.2.ctx) ++
    ((s.seqs.filter fun q => ctxPart s q.2.ctx == p && !q.2.ended && unitResident s q.2.uid).map fun q => q.2.ctx)).eraseDups
/-- The telemetry of the module (R351); a core is busy while a team that has not exited is seated on it (DESIGN CHOICE, log entry
12). -/
def telemetry (s : State) : Telemetry :=
  { power := Config.power s.tick, temperatures := (List.range 4).map (Config.dieTemperature s.tick), clockMhz := s.clockMhz
    parts := s.pars.map fun t =>
      let p := BitVec.ofNat 6 t.1
      (t.1, (residentCtxs s p).length, ((seatedTeams s p).map fun x => x.2.core).eraseDups.length) }

/-! ### Features -/

/-- VF_ENABLE (R9). What clearing the bit does to partitions is left open: they stay as they are (DESIGN CHOICE, log entry 70). -/
def execVfEnable (on : Bool) (s : State) : Host.Outcome State Fault Refusal :=
  .next (if on then
      let m0 := s.pf.featReq0 &&& ~~~feat0
      let m1 := s.pf.featReq1
      { s with pf := { s.pf with featMiss0 := m0, featMiss1 := m1, vfEnable := m0 == 0 && m1 == 0 } }
    else { s with pf := { s.pf with vfEnable := false } })

/-! ### TDISP -/

/-- An answer to a TDISP request, which only a secured session carries (R342). -/
def tdisp (p : BitVec 6) (f : Partition → State → State) (s : State) : Host.Outcome State Fault Refusal :=
  .next (match parOf? s p with
    | some t => if inSession s (.vf p) then f t s else s
    | none => s)
/-- A response with the TDI's state, or an error response. -/
def answer (p : BitVec 6) (ok : Bool) (st : Option Tdi) (s : State) : State := send (.tdisp p ok st) s

/-- GET_TDISP_VERSION (R342). -/
def execGetTdispVersion (p : BitVec 6) (s : State) : Host.Outcome State Fault Refusal := tdisp p (fun _ s => answer p true none s) s
/-- GET_TDISP_CAPABILITIES (R342). -/
def execGetTdispCapabilities (p : BitVec 6) (s : State) : Host.Outcome State Fault Refusal :=
  tdisp p (fun _ s => answer p true none s) s
/-- Bytes of HBM4 (R1). -/
def hbmBytes : Nat := 8 * stackBytes
/-- Bytes of HBM4 reserved for other partitions (R409). -/
def reservedElsewhere (s : State) (p : BitVec 6) : Nat :=
  ((s.pars.filter fun t => t.1 != p.toNat && t.2.tdi != .unlocked).map fun t => max t.2.pool (poolUsed s (BitVec.ofNat 6 t.1))).sum
/-- LOCK_INTERFACE (R343, R409). -/
def execLockInterface (p : BitVec 6) (s : State) : Host.Outcome State Fault Refusal :=
  tdisp p (fun t s =>
    if t.tdi = .unlocked ∧ t.leaving.isNone ∧ 0 < t.pool ∧ reservedElsewhere s p + t.pool ≤ hbmBytes then
      answer p true (some .locked)
        (setPar p (fun t => { t with
          tdi := .locked, policyDigest := Config.content s.tick
          report := some ⟨t.quads, t.pool, t.quantum, t.bar, Config.content s.tick⟩ }) s)
    else answer p false (some t.tdi) s) s
/-- GET_DEVICE_INTERFACE_REPORT (R342, R348): what LOCK_INTERFACE has frozen. -/
def execGetDeviceInterfaceReport (p : BitVec 6) (s : State) : Host.Outcome State Fault Refusal :=
  tdisp p (fun t s =>
    match t.report with
    | some r =>
      if t.tdi = .locked ∨ t.tdi = .run then send (.report p r.quads r.pool r.quantum r.bar feat0 r.policy) s
      else answer p false (some t.tdi) s
    | none => answer p false (some t.tdi) s) s
/-- GET_DEVICE_INTERFACE_STATE (R342, R344). -/
def execGetDeviceInterfaceState (p : BitVec 6) (s : State) : Host.Outcome State Fault Refusal :=
  tdisp p (fun t s => answer p true (some t.tdi) s) s
/-- START_INTERFACE (R8, R9, R343, R348, R350): the features are checked, the nonce is issued, the keys and the touch map are
fresh. While the firmware does not run or the partition leaves, it fails before the features are checked (DESIGN CHOICE, log entry
69). -/
def execStartInterface (p : BitVec 6) (s : State) : Host.Outcome State Fault Refusal :=
  tdisp p (fun t s =>
    if t.tdi ≠ .locked ∨ t.leaving.isSome ∨ !s.fwRuns then answer p false (some t.tdi) s
    else
      let f := fnOf s p
      let m0 := f.featReq0 &&& ~~~feat0
      let m1 := f.featReq1
      let s := setFn p (fun f => { f with featMiss0 := m0, featMiss1 := m1 }) s
      if m0 ≠ 0 ∨ m1 ≠ 0 then answer p false (some .locked) s
      else
        let key := s.nextId
        let nonce := Config.content s.tick
        answer p true (some .run)
          (setPar p (fun t => { t with tdi := .run, keyCur := some key, keyNext := none, nonce := some nonce, touchMap := [] })
            { s with nextId := s.nextId + 1 })) s
/-- STOP_INTERFACE (R343, R344). -/
def execStopInterface (p : BitVec 6) (s : State) : Host.Outcome State Fault Refusal :=
  tdisp p (fun t s =>
    if t.tdi = .unlocked then answer p true (some .unlocked) s
    else answer p true (some t.tdi) (startLeave p .stop s)) s
/-- IDE_KM (R342). -/
def execIdeKm (p : BitVec 6) (s : State) : Host.Outcome State Fault Refusal :=
  .next (setPar p (fun t => { t with ideKeyed := true }) s)
/-- IDE_INTEGRITY_FAILURE (R343). -/
def execIdeIntegrityFailure (p : BitVec 6) (s : State) : Host.Outcome State Fault Refusal := .next (toError p s)

/-! ### SPDM and measurements -/

/-- A response of a function, named by its request's code (DESIGN CHOICE, log entry 12). -/
def respond (f : Fn) (code : Nat) (b : SpdmBody) (s : State) : State := send (.spdm f code b) s
/-- An error response. -/
def respondError (f : Fn) (s : State) : State := respond f 0x7F .error s
/-- A request that is served in some states of the function and then leaves it in a state. -/
def spdmStep (f : Fn) (code : Nat) (b : SpdmBody) (ok : Spdm → Bool) (next : Spdm → Spdm) (s : State) :
    Host.Outcome State Fault Refusal :=
  .next (if ok (spdmOf s f) then respond f code b (setSpdm f (next (spdmOf s f)) s) else respondError f s)
/-- Measurement blocks 1 to 5 (R348). -/
def deviceBlocks (s : State) : List Nat := (List.range 5).map fun i => Cells.get 0 (i + 1) s.measures
/-- The chain of certificate slot 0 (R347). -/
def certChain (s : State) : SpdmBody := .chain Config.rootCert Config.deviceCert (Config.aliasCert (deviceBlocks s))
/-- A signature with the alias key: 29,792 bytes (R347). -/
def aliasSigned (s : State) : SpdmBody := .signed (Config.aliasKey (deviceBlocks s)) 29792 (Config.content s.tick)
/-- Contents that the manual does not give. -/
def openBody (s : State) : SpdmBody := .other (Config.content s.tick)

/-- GET_VERSION (R347): 1.2 and 1.3; it starts the exchange anew. -/
def execGetVersion (f : Fn) (s : State) : Host.Outcome State Fault Refusal :=
  spdmStep f 0x84 (.versions [0x12, 0x13]) (fun _ => true) (fun _ => .idle) s
/-- GET_CAPABILITIES (R347). -/
def execGetCapabilities (f : Fn) (s : State) : Host.Outcome State Fault Refusal :=
  spdmStep f 0xE1 (openBody s) (fun _ => true) (fun x => x) s
/-- NEGOTIATE_ALGORITHMS (R347): one signature algorithm, with its lengths, and one hash. -/
def execNegotiateAlgorithms (f : Fn) (s : State) : Host.Outcome State Fault Refusal :=
  spdmStep f 0xE3 (.algorithms "SLH-DSA-SHAKE-256s" "SHAKE256" 64 29792 64) (fun x => x == .idle) (fun _ => .negotiated) s
/-- GET_DIGESTS (R347). -/
def execGetDigests (f : Fn) (s : State) : Host.Outcome State Fault Refusal :=
  spdmStep f 0x81 (.chainDigest (Config.chainDigest Config.rootCert Config.deviceCert (Config.aliasCert (deviceBlocks s))))
    (fun x => x != .idle) (fun x => x) s
/-- GET_CERTIFICATE (R347). -/
def execGetCertificate (f : Fn) (s : State) : Host.Outcome State Fault Refusal :=
  spdmStep f 0x82 (certChain s) (fun x => x != .idle) (fun x => x) s
/-- CHALLENGE (R347). -/
def execChallenge (f : Fn) (s : State) : Host.Outcome State Fault Refusal :=
  spdmStep f 0x83 (aliasSigned s) (fun x => x != .idle) (fun x => x) s
/-- Block 6 of a partition, as LOCK_INTERFACE left it: the digest of its interface report, on the PF with its quad map only (R348). -/
def reportBlock (full : Bool) (t : Partition) : List Nat :=
  match t.report with
  | some r => [if full then Config.reportDigest r.quads r.pool r.quantum r.bar feat0 r.policy else Config.quadDigest r.quads]
  | none => []
/-- GET_MEASUREMENTS (R348). -/
def execGetMeasurements (f : Fn) (s : State) : Host.Outcome State Fault Refusal :=
  .next (if spdmOf s f = .idle then respondError f s
    else
      let six := match f with
        | .vf p => (match parOf? s p with
          | some t => reportBlock true t
          | none => [])
        | .pf => s.pars.flatMap fun t => reportBlock false t.2
      send (.measurements f (deviceBlocks s ++ six)) s)
/-- KEY_EXCHANGE (R347). -/
def execKeyExchange (f : Fn) (s : State) : Host.Outcome State Fault Refusal :=
  spdmStep f 0xE4 (aliasSigned s) (fun x => x == .negotiated) (fun _ => .keyed) s
/-- FINISH (R347). -/
def execFinish (f : Fn) (s : State) : Host.Outcome State Fault Refusal := spdmStep f 0xE5 (openBody s) (fun x => x == .keyed) (fun _ => .session) s
/-- END_SESSION (R347). -/
def execEndSession (f : Fn) (s : State) : Host.Outcome State Fault Refusal :=
  spdmStep f 0xEC (openBody s) (fun x => x == .session) (fun _ => .negotiated) s
/-- VENDOR_DEFINED_REQUEST (R347). -/
def execVendorDefinedRequest (f : Fn) (s : State) : Host.Outcome State Fault Refusal :=
  spdmStep f 0xFE (openBody s) (fun x => x != .idle) (fun x => x) s

/-! ### Firmware -/

/-- Number of a kind of firmware. -/
def kindIndex : FirmwareKind → Nat
  | .sp => 0 | .mc => 1 | .microcode => 2
/-- The image of a kind that a start runs. -/
def imageOf (s : State) (k : Nat) : Nat := (Cells.get? k s.fwImage).getD (Config.shippedImage k)
/-- Its security version. -/
def versionOf (s : State) (k : Nat) : Nat := (Cells.get? k s.fwVersion).getD (Config.shippedVersion k)
/-- The SP runs an image: its signature verifies and it is not below the fused minimum (R348). -/
def imageRuns (s : State) (k : Nat) : Bool := Config.imageValid (imageOf s k) && decide (Config.minVersion k ≤ versionOf s k)
/-- FIRMWARE_UPDATE (R348): the image takes effect at the next start. -/
def execFirmwareUpdate (img : Firmware) (s : State) : Host.Outcome State Fault Refusal :=
  .next { s with
    fwVersion := Cells.insert (kindIndex img.kind) img.version s.fwVersion
    fwImage := Cells.insert (kindIndex img.kind) img.image s.fwImage }
/-- DEVICE_START (R347, R348): the module is as after power-on, with its firmware verified and measured; an image that does not
run is reported, and then no partition enters RUN, as none does before the first start. What lies outside the module stays. -/
def execDeviceStart (s : State) : Host.Outcome State Fault Refusal :=
  let kinds : List FirmwareKind := [.sp, .mc, .microcode]
  let bad := kinds.filter fun k => !imageRuns s (kindIndex k)
  let blocks : Cells Nat :=
    [(1, Config.digest 1 0), (2, Config.versionDigest (imageOf s 0) (versionOf s 0)), (3, Config.digest 3 (imageOf s 1)),
     (4, Config.digest 4 (imageOf s 2)), (5, Config.digest 5 0)]
  .next { State.reset with
    inbox := s.inbox, tick := s.tick, nextId := s.nextId, fwVersion := s.fwVersion, fwImage := s.fwImage
    measures := blocks, fwRuns := bad.isEmpty, ports := s.ports, peerMem := s.peerMem
    tier := s.tier, out := s.out ++ bad.map HostMsg.firmwareRefused }

/-! ### Keys -/

/-- KEY_ROTATION_REQUEST (R346). -/
def execKeyRotationRequest (p : BitVec 6) (s : State) : Host.Outcome State Fault Refusal :=
  .next (match parOf? s p with
    | none => s
    | some t =>
      if !inSession s (.vf p) then s
      else if t.keyCur.isNone ∨ t.keyNext.isSome then respondError (.vf p) s
      else
        let key := s.nextId
        endRotation p (respond (.vf p) 0xFE (openBody s) (setPar p (fun t => { t with keyNext := some key }) { s with nextId := s.nextId + 1 })))
/-- FRAME_REENCRYPT (R346): the bytes of the frame do not change. -/
def execFrameReencrypt (p : BitVec 6) (frame : Nat) (s : State) : Host.Outcome State Fault Refusal :=
  .next (match parOf? s p, Cells.get? frame s.frames with
    | some t, some f =>
      if f.part = p ∧ t.keyNext.isSome ∧ !f.nextKey then
        endRotation p { s with frames := Cells.insert frame { f with nextKey := true } s.frames }
      else s
    | _, _ => s)

/-! ### The tenant's grants -/

/-- A policy passes every check of R350; its reserved bits must be 0 (DESIGN CHOICE, log entry 103). -/
def policyOk (t : Partition) (p : BitVec 6) (pol : Policy) : Bool :=
  pol.head.extractLsb' 0 16 == 0x4450 && pol.head.extractLsb' 16 6 == p && pol.head.extractLsb' 22 42 == 0 &&
    decide (t.nonce = some pol.nonce.toNat) && pol.grants.extractLsb' 5 59 == 0 && pol.keyDigest == t.policyDigest &&
    Config.signatureValid pol.keyDigest pol.head pol.nonce pol.grants pol.sig
/-- DEBUG_POLICY (R350): only a policy that passes every check changes the lock register. -/
def execDebugPolicy (p : BitVec 6) (pol : Policy) (s : State) : Host.Outcome State Fault Refusal :=
  .next (match parOf? s p with
    | some t =>
      if vfOpen s p && policyOk t p pol then
        setFn p (fun f => { f with dlock := pol.grants.setWidth 5 }) s
      else s
    | none => s)
/-- CHECKPOINT_PERMIT (R377, R378): the SP makes the key once, and gives it to the tenant. -/
def execCheckpointPermit (p : BitVec 6) (on : Bool) (s : State) : Host.Outcome State Fault Refusal :=
  .next (match parOf? s p with
    | none => s
    | some t =>
      if !inSession s (.vf p) then s
      else
        let key := t.ckKey.getD s.nextId
        let s := setPar p (fun t => { t with ckPermit := on, ckKey := if on then some key else t.ckKey })
          { s with nextId := s.nextId + 1 }
        if on then send (.keyWrapped p key) s else s)
/-- CHECKPOINT_KEY_SUPPLY (R379). -/
def execCheckpointKeySupply (p : BitVec 6) (key : Nat) (s : State) : Host.Outcome State Fault Refusal :=
  .next (if inSession s (.vf p) then setPar p (fun t => { t with ckKey := some key }) s else s)

/-! ### The operator -/

/-- PARTITION_CREATE (R343): on a VF that exists and has no partition. -/
def execPartitionCreate (p : BitVec 6) (s : State) : Host.Outcome State Fault Refusal :=
  .next (if s.pf.vfEnable && (parOf? s p).isNone then
      { s with pars := Cells.insert p.toNat { Partition.zero with bar := Config.barLayout p } s.pars } else s)
/-- PARTITION_DESTROY (R344). -/
def execPartitionDestroy (p : BitVec 6) (s : State) : Host.Outcome State Fault Refusal := .next (startLeave p .destroy s)
/-- ASSIGN_QUADS (R286, R343, R344): whole quads that no other partition holds. Quads taken from a partition that has not been scrubbed
stay its own until it has (R344; DESIGN CHOICE, log entry 78). -/
def execAssignQuads (p : BitVec 6) (quads : List Nat) (s : State) : Host.Outcome State Fault Refusal :=
  .next (if (quads.all fun q => decide (q < 192)) && !(s.pars.any fun t => t.1 != p.toNat && (t.2.quads ++ t.2.heldQuads).any fun q => quads.contains q) then
      changeFrozen p (fun t => { t with
        quads := quads.eraseDups
        heldQuads := if t.tdi = .unlocked ∧ t.leaving = none then t.heldQuads else (t.heldQuads ++ t.quads).eraseDups }) s
    else s)
/-- SET_QUANTUM (R300): 0.25 ms to 16 ms. -/
def execSetQuantum (p : BitVec 6) (us : Nat) (s : State) : Host.Outcome State Fault Refusal :=
  .next (if 250 ≤ us ∧ us ≤ 16000 then changeFrozen p (fun t => { t with quantum := us }) s else s)
/-- SET_POOL_SIZE (R343, R409): a nonzero multiple of 2 MiB. -/
def execSetPoolSize (p : BitVec 6) (bytes : Nat) (s : State) : Host.Outcome State Fault Refusal :=
  .next (if 0 < bytes ∧ bytes % 2097152 = 0 then changeFrozen p (fun t => { t with pool := bytes }) s else s)

/-! ### Control registers with rows of their own -/

/-- LQCTL_WRITE (R280). -/
def execLqctlWrite (p : BitVec 6) (q : BitVec 2) (val : BitVec 64) (s : State) : Host.Outcome State Fault Refusal :=
  .next (let r := Cells.get LqRegs.zero q.toNat (fnOf s p).lq
    if !vfOpen s p then unsupported p s
    else if r.en then s
    else
      let log := val.extractLsb' 0 5
      let ok := val.getLsbD 5 && decide (4 ≤ log.toNat) && decide (log.toNat ≤ 16) && val.extractLsb' 6 58 == 0
      setFn p (fun f => { f with lq := Cells.put LqRegs.zero q.toNat { r with log := log, en := ok } f.lq }) s)
/-- LQPROD_WRITE (R280, R281): what the host wrote before it has reached every die (R222). -/
def execLqprodWrite (p : BitVec 6) (q : BitVec 2) (val : BitVec 64) (s : State) : Host.Outcome State Fault Refusal :=
  .next (if !vfOpen s p then unsupported p s
    else
      let s := drainUpds s
      let r := Cells.get LqRegs.zero q.toNat (fnOf s p).lq
      setFn p (fun f => { f with lq := Cells.put LqRegs.zero q.toNat { r with prod := val.setWidth 32 } f.lq }) s)
/-- MLCTL_WRITE (R368). -/
def execMlctlWrite (p : BitVec 6) (val : BitVec 64) (s : State) : Host.Outcome State Fault Refusal :=
  .next (if !vfOpen s p then unsupported p s
    else if (fnOf s p).mlen_ then s
    else
      let log := val.extractLsb' 0 5
      let ok := val.getLsbD 5 && decide (6 ≤ log.toNat) && decide (log.toNat ≤ 16) && val.extractLsb' 6 58 == 0
      setFn p (fun f => { f with mllog := log, mlen_ := ok }) s)

/-! ### Links -/

/-- PEER_AUTHENTICATION (R349): after it EXPORT and IMPORT may name the device. -/
def execPeerAuthentication (dev : BitVec 9) (ok : Bool) (s : State) : Host.Outcome State Fault Refusal :=
  .next { s with peers := if ok then (if s.peers.contains dev.toNat then s.peers else s.peers ++ [dev.toNat])
                          else s.peers.filter fun d => d != dev.toNat }
/-- LINK_CRC_ERROR (R371): the link is retrained and a lost request is retried; no value changes. -/
def execLinkCrcError (link : Link) (s : State) : Host.Outcome State Fault Refusal := .next (send (.linkRetrain link) s)
/-- UALINK_PORT_RESTORED (R377). -/
def execUalinkPortRestored (port : BitVec 3) (s : State) : Host.Outcome State Fault Refusal :=
  .next { s with ports := s.ports ||| (1#8 <<< port.toNat) }

end Sys2Proof.Machine
end

