-- ==== Sys2Proof/Machine/Control.lean ====
section
/-!
DEFINITION. Control, synchronisation and window instructions, majors 0x38 to 0x3C (R309 to R328).
-/

namespace Sys2Proof.Machine

/-! ### Branches -/

/-- The target of a PC-relative branch (R36). -/
def relPc (pc : DWord) {n : Nat} (disp : BitVec n) : DWord := pc56 (pc + BitVec.ofInt 64 (2 * disp.toInt))

/-- bk (R311): both sides of a split have lanes; the smaller leaves, the taken side on a tie. -/
def execBk (o : OpBk) (s : State) : Host.Outcome State Fault Refusal :=
  onPart s fun pid p g =>
    (gateP p g 0 [] [] [o.k.toNat] [] []).run s
      (let m := maskVal g o.k.toNat
       let t := p.em &&& m
       let n := p.em &&& ~~~m
       let target := relPc p.thr.pc o.disp
       let next := nextPc s p.thr.pc
       if t = 0 then .done s
       else if n = 0 then .goto s target
       else if (lanesOf 64 t).length ≤ (lanesOf 64 n).length then .goto (fork pid t target s) next
       else .goto (fork pid n next s) target)

/-- A branch that takes the whole part one way (R312). -/
def wholeBranch (o : OpBk) (cond : DWord → DWord → Bool) (s : State) : Host.Outcome State Fault Refusal :=
  onPart s fun _ p g =>
    (gateP p g 0 [] [] [o.k.toNat] [] []).run s
      (if cond p.em (maskVal g o.k.toNat) then .goto s (relPc p.thr.pc o.disp) else .done s)
/-- bkany (R312). -/
def execBkany (o : OpBk) (s : State) : Host.Outcome State Fault Refusal := wholeBranch o (fun em k => em &&& k != 0) s
/-- bkall (R312). -/
def execBkall (o : OpBk) (s : State) : Host.Outcome State Fault Refusal := wholeBranch o (fun em k => em &&& ~~~k == 0) s
/-- bknone (R312). -/
def execBknone (o : OpBk) (s : State) : Host.Outcome State Fault Refusal := wholeBranch o (fun em k => em &&& k == 0) s

/-- The condition of bs on a signed value (R313). -/
def bsTaken (cond : Nat) (v : Int) : Bool :=
  match cond with
  | 0 => v == 0
  | 1 => v != 0
  | 2 => decide (v < 0)
  | 3 => decide (0 ≤ v)
  | 4 => decide (0 < v)
  | _ => decide (v ≤ 0)
/-- bs (R313). -/
def execBs (o : OpBs) (s : State) : Host.Outcome State Fault Refusal :=
  onAgent s fun _ t =>
    (gateS t [⟨o.sa, false⟩] []).run s
      (if bsTaken o.cond.toNat (sVal t o.sa).toInt then .goto s (relPc t.pc o.disp) else .done s)

/-- jmp (R314). -/
def execJmp (o : OpJ) (s : State) : Host.Outcome State Fault Refusal :=
  onAgent s fun _ t => .goto s (relPc t.pc o.disp)

/-- The checks of a register target (R314). -/
def targetTrap (x : DWord) : Option Trap :=
  if x.getLsbD 0 then some (Trap.at cALIGN 0x00 x.toNat)
  else if x.extractLsb' 56 8 ≠ 0 then some (Trap.at cPROT 0x01 x.toNat)
  else none
/-- jmpr (R314). -/
def execJmpr (o : OpUa) (s : State) : Host.Outcome State Fault Refusal :=
  onAgent s fun _ t =>
    (gateS t [⟨o.sa, o.wsa⟩] []).run s
      (match targetTrap (sVal t o.sa) with
       | some e => .trap s e
       | none => .goto s (sVal t o.sa))

/-! ### Calls and returns -/

/-- The entries of a window stack, newest first, with the base of the frame that each owns; `top` is the window base above the
newest (R315). -/
def frameBases (v : Nat) : Nat → List WFrame → List (Nat × WFrame)
  | _, [] => []
  | top, e :: r => ((top + v - e.slide) % v, e) :: frameBases v ((top + v - e.slide) % v) r
/-- The window at a base meets a register that a frame owns (R315). -/
def windowMeets (v wb : Nat) (f : Nat × WFrame) : Bool :=
  (List.range f.2.slide).any fun j => decide ((f.1 + j + v - wb) % v < 64)
/-- Entries that a call spills, oldest first (R315). -/
def spillList (v wb : Nat) (st : List WFrame) : List (Nat × WFrame) :=
  let fs := frameBases v wb st
  let k := ((List.range (fs.length + 1)).find? fun k =>
    decide (fs.length - k ≤ 16) && !(fs.take (fs.length - k)).any (windowMeets v wb)).getD fs.length
  (fs.drop (fs.length - k)).reverse

/-- Bytes of a spill record (R316). -/
def recordBytes (slide : Nat) : Nat := (slide + 2) * 256
/-- The physical registers that a frame owns (R315). -/
def frameRegs (v : Nat) (f : Nat × WFrame) : List Nat := (List.range f.2.slide).map fun j => (f.1 + j) % v
/-- The trailer words of a record (R316). -/
def trailer (e : WFrame) : List Nat := [e.rpc.toNat % 2 ^ 32, e.rpc.toNat / 2 ^ 32 % 2 ^ 24 + e.slide / 8 * 2 ^ 24]

/-- The rows of a record at an address: each with the word of every owned lane (R316). -/
def recordRows (g : Group) (own : DWord) (w : Nat) (f : Nat × WFrame) : List (Nat × List (Nat × Nat)) :=
  let ls := lanesOf g.w own
  let regs := (frameRegs g.vregs f).map fun r =>
    ls.map fun l => (l, (Cells.get LaneWord.zero (r * 64 + l) g.lanes).val.toNat)
  let tail := (trailer f.2).map fun x => ls.map fun l => (l, x)
  (regs ++ tail).mapIdx fun j r => (w + 256 * j, r)
/-- The rows of consecutive records from an address (R316). -/
def spillRows (g : Group) (own : DWord) : Nat → List (Nat × WFrame) → List (Nat × List (Nat × Nat))
  | _, [] => []
  | w, f :: r => recordRows g own w f ++ spillRows g own (w + recordBytes f.2.slide) r

/-- A spill or fill never goes through a peer window (R316; DEDUCED, log entry 25). -/
def ownMemory (hs : List LaneHit) : List LaneHit :=
  hs.map fun h => match h.hit with
    | .peer _ => { h with hit := .bad 0x08 0x02 }
    | _ => h

/-- Write rows in order; the first that faults ends the call (R315, R316). -/
def writeRows (a : Agent) (pl : Place) (instr : Nat) : List (Nat × List (Nat × Nat)) → State → State × Option Trap
  | [], s => (s, none)
  | r :: rs, s =>
    let x := reachLanes pl .write .none 4 (r.2.map fun q => (q.1, r.1 + 4 * q.1)) s
    match laneTrap true true (ownMemory x.1) with
    | some t => (noteLanes pl.part x.1 s, some t)
    | none =>
      let s := ((wholeLanes 4 x.1).zip (r.2.map Prod.snd)).foldl (fun s q => match q.1.1.hit with
        | .phys _ _ _ _ _ => plainStore a pl instr q.1.2 q.1.1.addr (toBytes 4 q.2) q.1.1.hit s
        | _ => s) x.2
      writeRows a pl instr rs (countProf pl.core pl.ctx 11 1 s)

/-- The marks of owned lanes of physical registers. -/
def regMarks (g : Group) (own : DWord) (rs : List Nat) (f : LaneWord → Bool) : DWord :=
  maskOf ((lanesOf g.w own).filter fun l => rs.any fun r => f (Cells.get LaneWord.zero (r * 64 + l) g.lanes))

/-- A call with a frame slide (R315). Of several causes of its spill the first counts of: WINDOW 0x01 and 0x03, POISON of any register of the
spilled frames, faults of the rows in order; empty registers are waited for before POISON (DESIGN CHOICE, log entry 104). -/
def doCall (pid : Nat) (p : Part) (g : Group) (target : DWord) (slide : Nat) (s : State) : Res :=
  let wb := (p.wb + slide) % g.vregs
  let st := ⟨nextPc s p.thr.pc, slide⟩ :: p.wstack
  let out := spillList g.vregs wb st
  let regs := out.flatMap (frameRegs g.vregs)
  let bad := regMarks g p.own regs LaneWord.poison
  let pl := placeOf s (.part pid)
  if out.isEmpty then .goto (setPart pid (fun p => { p with wb := wb, wstack := st }) s) target
  else if p.wsp = 0 then .trap s (Trap.plain cWINDOW 0x01)
  else if 2 ^ 32 ≤ p.spc + out.length then .trap s (Trap.plain cWINDOW 0x03)
  else if regMarks g p.own regs (fun w => !w.full) ≠ 0 then .wait s .reg
  else if bad ≠ 0 then .trap s (poisonTrap bad)
  else if !roomFor s (.part pid) false true then .wait s .issueLimit
  else match writeRows (.part pid) pl s.nextId (spillRows g p.own p.wsp.toNat out) { s with nextId := s.nextId + 1 } with
    | (s, some t) => .trap s t
    | (s, none) =>
      let bytes := (out.map fun f => recordBytes f.2.slide).sum
      .goto (setPart pid (fun p =>
        { p with wb := wb, wstack := st.take (st.length - out.length), wsp := pc56 (p.wsp + BitVec.ofNat 64 bytes),
                 spc := p.spc + out.length }) s) target

/-- call (R315). -/
def execCall (o : OpCall) (s : State) : Host.Outcome State Fault Refusal :=
  onPart s fun pid p g => doCall pid p g (relPc p.thr.pc o.disp) (o.frame.toNat * 8) s
/-- callr (R315): the target checks of R314 come first. -/
def execCallr (o : OpCallr) (s : State) : Host.Outcome State Fault Refusal :=
  onPart s fun pid p g =>
    (gateP p g 0 [] [⟨o.sa, o.wsa⟩] [] [] []).run s
      (match targetTrap (sVal p.thr o.sa) with
       | some e => .trap s e
       | none => doCall pid p g (sVal p.thr o.sa) (o.frame.toNat * 8) s)

/-- Plain loads of 4 bytes of the part's own memory, as `sld` makes them (R317); the first that faults ends them. -/
def fillWords (a : Agent) (pl : Place) : List Nat → State → List Nat × State × Option Trap
  | [], s => ([], s, none)
  | x :: r, s =>
    let hit := match reachChecked s pl .read .none x 4 with
      | .peer _ => .bad 0x08 0x02
      | q => q
    match hitCause true hit with
    | some c => ([], s, some (uniTrap false x c))
    | none =>
      let s' := match hit with
        | .phys s' _ _ _ _ => s'
        | _ => s
      match readHit a pl x 4 hit s' with
      | (none, _) => ([], s, some (uniTrap false x (0x10, 0x02)))
      | (some d, s') =>
        let y := fillWords a pl r s'
        (ofBytes d :: y.1, y.2)
/-- An address below WSP: a difference that wraps has bits above 55 and cannot be accessed (R24, R243). -/
def belowWsp (p : Part) (n o : Nat) : Nat := (p.wsp - BitVec.ofNat 64 n + BitVec.ofNat 64 o).toNat
/-- A program address whose bit 0 is 0, as a PC always is (R35; DEDUCED, log entry 67). -/
def evenPc (x : DWord) : DWord := pc56 x &&& ~~~1#64
/-- Pop an entry: WB moves back by its slide (R317). -/
def popWindow (v : Nat) (e : WFrame) (wb : Nat) : Nat := (wb + v - e.slide % v) % v
/-- The fill of a return (R317). -/
def doFill (pid : Nat) (p : Part) (g : Group) (s : State) : Res :=
  let pl := placeOf s (.part pid)
  let l0 := lowLane p.own
  match fillWords (.part pid) pl [belowWsp p 512 (4 * l0), belowWsp p 256 (4 * l0)] s with
  | (_, _, some t) => .trap s t
  | (ws, s1, none) =>
    let hi := ws.getD 1 0
    let e : WFrame := ⟨evenPc (BitVec.ofNat 64 (ws.getD 0 0 + hi % 2 ^ 24 * 2 ^ 32)), hi / 2 ^ 24 % 8 * 8⟩
    let base := popWindow g.vregs e p.wb
    let regs := frameRegs g.vregs (base, e)
    let ls := lanesOf g.w p.own
    if regMarks g p.own regs (fun x => !x.full) ≠ 0 then .wait s .reg
    else
      let cells := regs.mapIdx (fun j r => ls.map fun l => (r * 64 + l, belowWsp p (recordBytes e.slide) (256 * j + 4 * l)))
      match fillWords (.part pid) pl (cells.flatten.map Prod.snd) s1 with
      | (_, _, some t) => .trap s t
      | (vs, s2, none) =>
        let put (m : Cells LaneWord) (q : Nat × Nat) : Cells LaneWord :=
          Cells.put LaneWord.zero q.1 ⟨BitVec.ofNat 32 q.2, true, false⟩ m
        let s3 := setGroup p.gid (fun g => { g with lanes := ((cells.flatten.map Prod.fst).zip vs).foldl put g.lanes }) s2
        .goto (setPart pid (fun p =>
          { p with wb := base, wsp := pc56 (p.wsp - BitVec.ofNat 64 (recordBytes e.slide)), spc := p.spc - 1 })
          (countProf pl.core pl.ctx 11 (e.slide + 2) s3)) e.rpc
/-- ret (R317). -/
def execRet (s : State) : Host.Outcome State Fault Refusal :=
  onPart s fun pid p g =>
    match p.wstack with
    | e :: r => .goto (setPart pid (fun p => { p with wb := popWindow g.vregs e p.wb, wstack := r }) s) e.rpc
    | [] =>
      if p.spc = 0 then .trap s (Trap.plain cWINDOW 0x02)
      else if !roomFor s (.part pid) true false then .wait s .issueLimit
      else doFill pid p g s

/-! ### Joins, ends, stops -/

/-- join (R319). -/
def execJoin (o : OpTok) (s : State) : Host.Outcome State Fault Refusal :=
  onPart s fun pid p _ =>
    if (groupParts s p.gid).length = 1 ∨ !p.tstack.isEmpty then .done s
    else .keep (checkJoins p.gid (hold (.part pid) (.join o.tok.toNat s.iss.len) (countIssue (.part pid) 0 s)))

/-- exit (R321): a sequencer context waits for its engine operations. -/
def execExit (s : State) : Host.Outcome State Fault Refusal :=
  onAgent s fun a _ =>
    match a with
    | .part pid => .keep (endPart pid (countIssue a 0 s))
    | .seq sc => (match Cells.get? sc s.seqs with
      | some q => if q.ops.isEmpty then .keep (endSeq sc s) else .wait s (.monitor (.engineOps 0xF true))
      | none => .keep s)
    | .none => .keep s

/-- yield (R322): the new ready time is all it changes. -/
def execYield (s : State) : Host.Outcome State Fault Refusal := onAgent s fun _ _ => .done s

/-- brkp (R323): armed breakpoints stop only while the tenant's policy keeps BRK open (R350, R351; DEDUCED, log
entry 79). -/
def execBrkp (o : OpCode) (s : State) : Host.Outcome State Fault Refusal :=
  onPart s fun pid _ _ =>
    let armed := match (agentCtx s (.part pid)).bind (ctxOf? s) with
      | some c => c.armed && (fnOf s c.part).dlock.getLsbD 1
      | none => false
    if armed then .done (setThread (.part pid) (fun t => { t with stop := .brkp }) s)
    else .trap s (Trap.plain cBRKP (o.code.setWidth 8))

/-! ### Watching -/

/-- The value at the home of an address (R324): zero for a slot at or beyond CL. -/
def homeValue (s : State) (hit : Reach) (n : Nat) : Option Nat :=
  match hit with
  | .phys s' pa _ _ _ => some (ofBytes (memBytes s'.mem pa n))
  | .beyond => some 0
  | .peer p => some (ofBytes (memBytes s.peerMem p n))
  | _ => none
/-- The accepted stores of a core to a line of a physical address are performed, and its home is heard (R212). -/
def drainLine (core : Nat) (hit : Reach) (s : State) : State :=
  match hit with
  | .phys s' pa _ _ _ =>
    hearHome core (coreDie core) pa (drainStores (fun q => q.core == core && !q.peer && q.addr / 128 == pa / 128) s')
  | .peer p => drainStores (fun q => q.core == core && q.peer && q.addr / 128 == p / 128) s
  | _ => s
/-- watch.32 and watch.64 (R324): poison counts as the home has it, never as the team's view or a cache does (R238, R372). -/
def execWatch (o : OpWatch) (s : State) : Host.Outcome State Fault Refusal :=
  onPart s fun pid p g =>
    (gateP p g 0 [] [⟨o.sa, o.wsa⟩, ⟨o.sb, o.wsb⟩] [] [] [o.sd]).run s
      (let n := if o.is64 then 8 else 4
       let pl := placeOf s (.part pid)
       let addr := (sVal p.thr o.sa).toNat
       let past := (sVal p.thr o.sb).toNat % 2 ^ (8 * n)
       match hitCause true (reachChecked s pl .read .home addr n) with
       | some c => .trap s (uniTrap false addr c)
       | none =>
         let s := drainLine pl.core (reachChecked s pl .read .home addr n) s
         match homeValue s (reachChecked s pl .read .home addr n) n with
         | none => .wait s (.monitor (.watch addr n (BitVec.ofNat 64 past)))
         | some v =>
           if v = past then .wait s (.monitor (.watch addr n (BitVec.ofNat 64 past)))
           else .done (writeS (.part pid) o.sd (BitVec.ofNat 64 v) s))

/-! ### Barriers -/

/-- A barrier's state (R294). -/
def barOf (s : State) : Barrier → BarState
  | .team tid n => match Cells.get? tid s.teams with
    | some t => Cells.get BarState.zero n t.tbars
    | none => .zero
  | .cluster uid n => match Cells.get? uid s.clus with
    | some u => Cells.get BarState.zero n u.cbars
    | none => .zero
  | .grid c n => match ctxOf? s c with
    | some k => Cells.get BarState.zero n k.gbars
    | none => .zero
/-- Change a barrier's state. -/
def setBar (b : Barrier) (f : BarState → BarState) (s : State) : State :=
  let upd (n : Nat) (m : Cells BarState) : Cells BarState := Cells.put BarState.zero n (f (Cells.get BarState.zero n m)) m
  match b with
  | .team tid n => setTeam tid (fun t => { t with tbars := upd n t.tbars }) s
  | .cluster uid n => setCluster uid (fun u => { u with cbars := upd n u.cbars }) s
  | .grid c n => setCtx c (fun k => { k with gbars := upd n k.gbars }) s
/-- The scope of a barrier: 1 team, 2 cluster, 3 package (R325). -/
def barScope : Barrier → Nat
  | .team _ _ => 1
  | .cluster _ _ => 2
  | .grid _ _ => 3
/-- The pending phase of a part for a barrier (R326). -/
def pendOf (p : Part) (b : Barrier) : Option Nat := (p.pend.find? fun q => q.1 == b).map Prod.snd
/-- Forget the pending phase. -/
def dropPend (b : Barrier) (p : Part) : Part := { p with pend := p.pend.filter fun q => q.1 != b }

/-- An arrive (R326): a release, then the owned lanes are marked and the phase becomes pending. -/
def arrive (pid : Nat) (p : Part) (b : Barrier) (s : State) : State :=
  let s := releaseAt (placeOf s (.part pid)) (barScope b) s
  let ph := (barOf s b).phase
  let s := setBar b (fun x => { x with marks := Cells.insert p.gid (Cells.get 0 p.gid x.marks ||| p.own) x.marks }) s
  setPart pid (fun p => { dropPend b p with pend := (b, ph) :: (dropPend b p).pend }) s
/-- A wait on a phase (R326): it returns, an acquire, once the phase has completed; the pending phase is consumed. -/
def awaitPhase (pid : Nat) (b : Barrier) (ph : Nat) (s : State) : Res :=
  if ph < (barOf s b).phase then
    let eat (p : Part) : Part := if pendOf p b = some ph then dropPend b p else p
    .done (setPart pid (fun p => { eat p with latch := none }) (acquireAt (placeOf s (.part pid)) (barScope b) s))
  else .wait (setPart pid (fun p => { p with latch := some (b, ph) }) s) (.monitor (.barrier b ph))
/-- The phase that a waiting instruction already names. -/
def latched (p : Part) (b : Barrier) : Option Nat :=
  match p.latch with
  | some (c, ph) => if c = b then some ph else none
  | none => none

/-- What a barrier form does on its barrier. -/
inductive BarOp where
  | arrive | wait | sync
  deriving DecidableEq, Repr
/-- A barrier form (R325, R326). -/
def onBarrier (op : BarOp) (pid : Nat) (p : Part) (b : Barrier) (s : State) : Res :=
  match op with
  | .arrive => .done (arrive pid p b s)
  | .wait => awaitPhase pid b ((latched p b).getD ((pendOf p b).getD (barOf s b).phase)) s
  | .sync => match latched p b with
    | some ph => awaitPhase pid b ph s
    | none => awaitPhase pid b (barOf s b).phase (arrive pid p b s)

/-- A team barrier form; a number that the launch did not request raises UNDEF (R309). -/
def teamBarrier (op : BarOp) (n : Nat) (s : State) : Host.Outcome State Fault Refusal :=
  onPart s fun pid p g =>
    match (agentCtx s (.part pid)).bind (ctxOf? s) with
    | some c => if n < c.lr.tbars then onBarrier op pid p (.team g.tid n) s else undef s
    | none => undef s
/-- A cluster barrier form (R309). -/
def clusterBarrier (op : BarOp) (n : Nat) (s : State) : Host.Outcome State Fault Refusal :=
  onPart s fun pid p _ =>
    match (agentCtx s (.part pid)).bind (ctxOf? s), agentUnit s (.part pid) with
    | some c, some uid => if n < c.lr.cbars then onBarrier op pid p (.cluster uid n) s else undef s
    | _, _ => undef s

/-- tbar.arrive (R325). -/
def execTbarArrive (o : OpTbar) (s : State) : Host.Outcome State Fault Refusal := teamBarrier .arrive o.num.toNat s
/-- tbar.wait (R325). -/
def execTbarWait (o : OpTbar) (s : State) : Host.Outcome State Fault Refusal := teamBarrier .wait o.num.toNat s
/-- tbar.sync (R325). -/
def execTbarSync (o : OpTbar) (s : State) : Host.Outcome State Fault Refusal := teamBarrier .sync o.num.toNat s
/-- cbar.arrive (R325). -/
def execCbarArrive (o : OpRtag) (s : State) : Host.Outcome State Fault Refusal := clusterBarrier .arrive o.num.toNat s
/-- cbar.wait (R325). -/
def execCbarWait (o : OpRtag) (s : State) : Host.Outcome State Fault Refusal := clusterBarrier .wait o.num.toNat s
/-- cbar.sync (R325). -/
def execCbarSync (o : OpRtag) (s : State) : Host.Outcome State Fault Refusal := clusterBarrier .sync o.num.toNat s
/-- gbar.sync (R325). -/
def execGbarSync (o : OpRtag) (s : State) : Host.Outcome State Fault Refusal :=
  onPart s fun pid p _ =>
    match (agentCtx s (.part pid)), (agentCtx s (.part pid)).bind (ctxOf? s) with
    | some ci, some c => if o.num.toNat < c.lr.gbars then onBarrier .sync pid p (.grid ci o.num.toNat) s else undef s
    | _, _ => undef s

end Sys2Proof.Machine
end

