-- ==== Sys2Proof/Machine/Engine.lean ====
section
/-!
DEFINITION. The matrix engine: requests (R194 to R196), engine operations of sequencer contexts (majors 0x36 and 0x37, R187 to
R206), their failures (R188), and the grants of the arbiter (R121 to R128).
-/

namespace Sys2Proof.Machine

/-! ### Requests -/

/-- Entries of a quad's FIFO for a sequencer context. -/
def fifoCount (q : Quad) (target : Nat) : Nat := (q.fifo.filter fun e => e.target == target).length
/-- Shared entries in use (R298). -/
def fifoShared (q : Quad) : Nat := ((List.range 8).map fun t => fifoCount q t - 2).sum
/-- An entry for a target may be taken (R298). -/
def fifoRoom (q : Quad) (target : Nat) : Bool := decide (fifoCount q target < 2) || decide (fifoShared q < 48)
/-- The signal word of a poster (R195). -/
def signalWord (f : Bool) (chit : BitVec 6) (t : Team) (g : Group) : DWord :=
  BitVec.ofNat 64 ((if f then chit.toNat + 2 ^ 6 else 0) + t.rank * 2 ^ 8 + g.gslot * 2 ^ 16 + t.tslot * 2 ^ 22)
/-- mpost (R194): a release at cluster scope. -/
def execMpost (o : OpMpost) (s : State) : Host.Outcome State Fault Refusal :=
  onPart s fun pid p g =>
    (gateP p g 0 [] [⟨o.sa, false⟩, ⟨o.sb, false⟩] [] [] []).run s
      (let pl := placeOf s (.part pid)
       let quad := coreQuad pl.core
       match ctxOf? s pl.ctx, Cells.get? g.tid s.teams with
       | some c, some t =>
         if c.lr.seqCtx ≤ o.ctx.toNat then .trap s (Trap.plain cENGINE 0x06)
         else if !fifoRoom (quadOf s quad) o.ctx.toNat then .wait s (.monitor (.fifoRoom quad o.ctx.toNat))
         else
           let e : FifoEntry := { ctx := pl.ctx, target := o.ctx.toNat, w0 := sVal p.thr o.sa, w1 := sVal p.thr o.sb,
                                  sig := signalWord o.f o.chit t g, poison := false }
           .done (setQuad quad (fun q => { q with fifo := q.fifo ++ [e] }) (releaseAt pl 2 s))
       | _, _ => .done s)
/-- The oldest entry addressed to a sequencer context (R195, R196). -/
def fifoFront (s : State) (sc : Nat) (ctx : Nat) : Option FifoEntry :=
  (quadOf s (sc / 8)).fifo.find? fun e => e.ctx == ctx && e.target == sc % 8
/-- mpick (R195): an acquire at cluster scope. A poisoned entry raises POISON with DETAIL 0x01 and stays in the FIFO (DESIGN CHOICE, log
entry 83). -/
def execMpick (o : OpXd) (s : State) : Host.Outcome State Fault Refusal :=
  onSeq s fun sc q =>
    (gateS q.thr [] [o.sd, o.sd + 1, o.sd + 2]).run s
      (let put (a b c : DWord) (s : State) : State :=
         writeS (.seq sc) (o.sd + 2) c (writeS (.seq sc) (o.sd + 1) b (writeS (.seq sc) o.sd a s))
       match fifoFront s sc q.ctx with
       | some e =>
         if e.poison then .trap s (poisonTrap 0)
         else .done (put e.w0 e.w1 e.sig
           (acquireAt (placeOf s (.seq sc)) 2 (setQuad (sc / 8) (fun k => { k with fifo := k.fifo.erase e }) s)))
       | none =>
         if o.f then .done (put (BitVec.allOnes 64) (BitVec.allOnes 64) (BitVec.allOnes 64) s)
         else .wait s (.monitor .fifoEntry))

/-! ### Order among operations -/

/-- The operation touches accumulators (R187), and is no queued `msig` or `mrel`. -/
def EngOp.engine (o : EngOp) : Bool :=
  match o.kind with
  | .signal _ => false
  | .release _ => false
  | _ => true
/-- An operation names a box handle: a pass, a drain or `mscale.row` (R206). -/
def EngOp.names (o : EngOp) (h : DWord) : Bool :=
  match o.kind with
  | .pass _ _ a b => descHandle a == h || descHandle b == h
  | .drain d => descHandle d == h
  | .scaleRow d => descHandle d == h
  | _ => false
/-- A later operation must wait for an earlier one (R133, R205, R206). -/
def mustWait (earlier later : EngOp) : Bool :=
  match later.kind with
  | .signal _ => !earlier.engine || earlier.accs &&& later.accs != 0
  | .release h => !earlier.engine || earlier.names (descHandle h)
  | _ => earlier.engine && earlier.accs &&& later.accs != 0
/-- Operations posted before one. -/
def opsBefore (q : SeqCtx) (id : Nat) : List EngOp := q.ops.takeWhile fun o => o.id != id
/-- Nothing that an operation must wait for is outstanding: nor the remaining steps of a pass whose context has been pre-empted,
which run before any later operation (R135). -/
def opReady (q : SeqCtx) (o : EngOp) : Bool := (opsBefore q o.id).all fun e => !e.cut && !mustWait e o
/-- The operation is a pass that has not been granted: it occupies the reservation entry (R126). -/
def EngOp.posted (o : EngOp) : Bool :=
  match o.kind with
  | .pass _ _ _ _ => !o.granted && o.failed.isNone
  | _ => false

/-! ### Eligibility -/

/-- How often a split pass pops from each operand (R117). -/
def passPops (shape : Nat) : List Bool :=
  match shape with
  | 0 => [true, false]
  | 1 => [true, false, true, false]
  | 2 => [true, false, true]
  | _ => [true, false, false]
/-- QUEUE of a descriptor (R184). -/
def descQueue (d : DWord) : Nat := (d.extractLsb' 52 4).toNat
/-- The queue of each pop of a split pass, in order (R197). -/
def popQueues (shape : Nat) (a b : DWord) : List Nat := (passPops shape).map fun x => if x then descQueue a else descQueue b
/-- The queue condition of a pass (R126): a pass that its descriptors refuse has none. -/
def queuesReady (s : State) (sc : Nat) (q : SeqCtx) (o : EngOp) : Bool :=
  match o.kind with
  | .pass false shape a b =>
    let quad := sc / 8
    let qs := popQueues shape a b
    !descOk a || !descOk b || !(qs.all fun x => ownsQueue s quad q.ctx x) ||
      qs.all fun x => decide ((qs.filter fun y => y == x).length ≤ (queueOf s quad x).length)
  | _ => true
/-- A posted pass is eligible while the array is free (R126). -/
def eligible (s : State) (sc : Nat) (q : SeqCtx) (o : EngOp) : Bool :=
  decide (sc < 4096) && o.posted && (quadOf s (sc / 8)).busy.isNone && opReady q o && queuesReady s sc q o
/-- Note which passes of a quad first become eligible now (R127). -/
def markEligible (quad : Nat) (s : State) : State :=
  { s with
    seqs := s.seqs.map fun q =>
      if q.1 / 8 = quad then
        (q.1, { q.2 with ops := q.2.ops.map fun o =>
                  if o.elig.isNone && eligible s q.1 q.2 o then { o with elig := some s.tick } else o })
      else q }

/-! ### Failing and completing -/

/-- The chit of an operation lies in the range of a team on the quad's first core (R187). -/
def seqChitOk (s : State) (sc : Nat) (c : Option (BitVec 6)) : Bool :=
  match c with
  | some k => agentRange s (.seq sc) &&& (1#64 <<< k.toNat) != 0
  | none => true
/-- Set the chit of an operation on the quad's first core (R187). -/
def setSeqChit (sc : Nat) (c : Option (BitVec 6)) (err : Bool) (s : State) : State :=
  match c with
  | some k => (chitTeams s (.seq sc)).foldl (fun s t => setChit t.1 k.toNat err s) s
  | none => s
/-- Operations that are cancelled with a failed one: those that must wait for it or for another cancelled one (R188). -/
def cancelList : List EngOp → List EngOp → List EngOp
  | _, [] => []
  | bad, o :: r => if bad.any fun e => mustWait e o then o :: cancelList (o :: bad) r else cancelList bad r
/-- A failed operation ends with its later dependants, and its context stops (R188). What it popped for steps that it has not
reached stays popped (R121): the first step of a pass uses two entries, the second what is left (R117). Later operations do not wait for
a drain that has failed (R134; DESIGN CHOICE, log entry 61). -/
def failOp (sc : Nat) (o : EngOp) (t : Trap) (s : State) : State :=
  match Cells.get? sc s.seqs with
  | none => s
  | some q =>
    let out := cancelList [o] ((q.ops.dropWhile fun e => e.id != o.id).drop 1)
    let accm := out.foldl (fun m e => if e.engine then m ||| e.accs else m) (0 : BitVec 4)
    let s := setSeq sc (fun q =>
      { q with ops := q.ops.filter (fun e => e.id != o.id && !out.any fun x => x.id == e.id)
               popped := q.popped ++ o.popped.drop (2 * o.pos) }) s
    let s := setQuad (sc / 8) (fun k => if o.granted ∧ k.busy = some sc then { k with busy := none } else k) s
    let s := if t.cause = cENGINE ∧ t.detail = 0x07 then s else setSeqChit sc o.chit true s
    trapSeq sc 0 { t with accm := accm, chit := o.chit } (some o.pc) (noteMissing (ctxPart s q.ctx) t s)
/-- A failure must wait: the sequencer core already holds a pending record for the context (R366). -/
def seqRecordBusy (s : State) (sc ctx : Nat) : Bool := s.recs.any fun r => r.ctx == ctx && r.core == 768 + sc / 8

/-- Change an operation of a sequencer context. -/
def setOp (sc id : Nat) (f : EngOp → EngOp) (s : State) : State :=
  setSeq sc (fun q => { q with ops := q.ops.map fun o => if o.id = id then f o else o }) s
/-- A cause, as an operation keeps it while its record has to wait. -/
def opErr (t : Trap) : CmdErr := ⟨t.cause, t.detail, t.fva, t.wr, t.paged⟩
/-- Such a cause, raised. -/
def opTrap (e : CmdErr) : Trap := { Trap.at e.cause e.detail e.addr.toNat with wr := e.wr, paged := e.paged }
/-- An operation fails at once, or once the core has written its pending record (R188, R366); it holds the array no longer. -/
def failSoon (sc : Nat) (o : EngOp) (t : Trap) (s : State) : State :=
  match Cells.get? sc s.seqs with
  | none => s
  | some q =>
    if seqRecordBusy s sc q.ctx then
      setQuad (sc / 8) (fun k => if o.granted ∧ k.busy = some sc then { k with busy := none } else k)
        (setOp sc o.id (fun e => { e with granted := false, failed := some (opErr t) }) s)
    else failOp sc o t s

/-- Change the accumulators of a sequencer context. -/
def putAcc (sc a : Nat) (vs : List (Nat × Nat)) (s : State) : State :=
  setSeq sc (fun q => { q with acc := vs.foldl (fun m v => Cells.put 0 (a * 4096 + v.1) (BitVec.ofNat 32 v.2) m) q.acc }) s
/-- An element of an accumulator. -/
def accVal (q : SeqCtx) (a e : Nat) : Nat := (Cells.get (0 : Word) (a * 4096 + e) q.acc).toNat
/-- A poisoned element of an accumulator from its `e`-th on. -/
def accPoisonFrom (q : SeqCtx) (acc e : Nat) : Bool := q.accPoison.any fun k => k / 4096 == acc && decide (e ≤ k % 4096)
/-- A poisoned element in the first n rows and columns of an accumulator. -/
def accPoisoned (q : SeqCtx) (acc n : Nat) : Bool :=
  q.accPoison.any fun k => k / 4096 == acc && decide (k % 4096 / 64 < n) && decide (k % 64 < n)
/-- The accumulators of a mask. -/
def accList (m : BitVec 4) : List Nat := (List.range 4).filter fun i => m.getLsbD i
/-- The one accumulator of an operation. -/
def accOf (o : EngOp) : Nat := (accList o.accs).headD 0

/-- A box lent to a quad's engine and not recalled, of the cluster of a sequencer context (R121, R125, R206). -/
def lentBox (s : State) (sc : Nat) (q : SeqCtx) (h : DWord) : Option Box :=
  match Cells.get? q.uid s.clus with
  | some u => (match boxAt u h with
    | some b => if b.lends.any fun l => l.quad == sc / 8 && !l.recalled then some b else none
    | none => none)
  | none => none

/-- End the lend of a box to an engine, with its chit (R206, R225). -/
def endLend (uid key quad : Nat) (s : State) : State :=
  match Cells.get? uid s.clus with
  | none => s
  | some u => match Cells.get? key u.boxes with
    | none => s
    | some b =>
      let mine := b.lends.filter fun l => l.quad == quad
      let s := setBox uid key (fun b => { b with lends := b.lends.filter fun l => l.quad != quad }) s
      wakeBoxes (mine.foldl (fun s l => setChit l.tid l.chit false s) s)
/-- The team of a cluster rank with its core's chits (R205). -/
def rankTeams (s : State) (q : SeqCtx) (rank : Nat) : List (Nat × Team) :=
  (unitTeams s q.uid).filter fun t => t.2.rank == rank
/-- A queued `msig` or `mrel` that need not wait any more (R205, R206): the cause where it fails. -/
def doSignal (sc : Nat) (q : SeqCtx) (o : EngOp) (s : State) : Option Trap × State :=
  match o.kind with
  | .signal w =>
    let rank := (w.extractLsb' 8 4).toNat
    let c := (w.extractLsb' 0 6).toNat
    match rankTeams s q rank with
    | [] => (some (Trap.plain cENGINE 0x09), s)
    | (_, r) :: _ =>
      let on := s.teams.filter fun t => t.2.ctx == q.ctx && t.2.core == r.core && !t.2.exited && onCores s t.2.uid &&
        chitRange t.2 &&& (1#64 <<< c) != 0
      if on.isEmpty then (some (Trap.plain cENGINE 0x07), s)
      else (none, on.foldl (fun s t => setChit t.1 c false s) (releaseAt (placeOf s (.seq sc)) 2 s))
  | .release h =>
    match lentBox s sc q (descHandle h) with
    | some _ => (none, endLend q.uid (boxKey (descHandle h)) (sc / 8) s)
    | none => (none, s)
  | _ => (none, s)
/-- Remove an operation. -/
def dropOp (sc id : Nat) (s : State) : State := setSeq sc (fun q => { q with ops := q.ops.filter fun o => o.id != id }) s
/-- Perform, in order, the queued `msig` and `mrel` whose turn has come (R205, R206). -/
def runSignals (sc : Nat) : Nat → State → State
  | 0, s => s
  | n + 1, s => match Cells.get? sc s.seqs with
    | none => s
    | some q => match q.ops.find? fun o => !o.engine && o.failed.isNone && opReady q o with
      | none => s
      | some o => match doSignal sc q o s with
        | (none, s) => runSignals sc n (dropOp sc o.id s)
        | (some t, s) => failSoon sc o t s
/-- After an operation has gone: queued signals, unless the unit leaves its quad (R207), boxes that only it still used, waits on boxes, an
end by the host (R369), and new eligibility. -/
def settleOps (sc : Nat) (s : State) : State :=
  match Cells.get? sc s.seqs with
  | none => s
  | some q =>
    let s := freeOrphans q.uid (if unitResident s q.uid then runSignals sc q.ops.length s else s)
    let s := match Cells.get? sc s.seqs with
      | some q => if q.ending ∧ q.ops.isEmpty then endSeq sc s else s
      | none => s
    markEligible (sc / 8) (wakeBoxes s)
/-- The first operation of a sequencer context that has failed and waits for the core's record, if that is written. -/
def failedOp (s : State) (sc : Nat) : Option EngOp :=
  match Cells.get? sc s.seqs with
  | some q => if seqRecordBusy s sc q.ctx then none else q.ops.find? fun o => o.failed.isSome
  | none => none
/-- The operations of a sequencer context that waited to fail do so in order, at most n of them, until one's record has to wait
(R366). -/
def retrySeq (sc : Nat) : Nat → State → State
  | 0, s => s
  | n + 1, s => match failedOp s sc with
    | some o => (match o.failed with
      | some e => retrySeq sc n (settleOps sc (failOp sc o (opTrap e) s))
      | none => s)
    | none => s
/-- The core's pending record has been written: the operations that waited to fail do so (R366). -/
def retryFailed (s : State) : State :=
  s.seqs.foldl (fun s q => retrySeq q.1 q.2.ops.length s) s

/-! ### Issue -/

/-- Post an operation (R187). -/
def postOp (sc : Nat) (q : SeqCtx) (kind : EngKind) (accs : BitVec 4) (chit : Option (BitVec 6)) (s : State) : State :=
  let o : EngOp := { id := s.nextId, kind := kind, accs := accs, chit := chit, pc := q.thr.pc, granted := false, age := 0,
                     elig := none, flags := 0, popped := [], heads := [], asked := [], pos := 0, cut := false, failed := none }
  settleOps sc (setSeq sc (fun q => { q with ops := q.ops ++ [o] }) { s with nextId := s.nextId + 1 })
/-- A form of major 0x36 or 0x37 that posts an operation from its uniform sources. -/
def posting (ss : List (BitVec 5)) (kind : SeqCtx → EngKind) (accs : BitVec 4) (chit : Option (BitVec 6)) (s : State) :
    Host.Outcome State Fault Refusal :=
  onSeq s fun sc q =>
    (gateS q.thr (ss.map fun r => ⟨r, false⟩) []).run s (.done (postOp sc q (kind q) accs chit s))
/-- The chit of a form. -/
def formChit (f : Bool) (c : BitVec 6) : Option (BitVec 6) := if f then some c else none
/-- The mask of one accumulator. -/
def accMask (a : BitVec 2) : BitVec 4 := 1#4 <<< a.toNat
/-- A pass waits at issue while the reservation entry is occupied (R126). -/
def posts (sa sb : BitVec 5) (dense : Bool) (shape : Nat) (accs : BitVec 4) (chit : Option (BitVec 6)) (s : State) :
    Host.Outcome State Fault Refusal :=
  onSeq s fun sc q =>
    (gateS q.thr [⟨sa, false⟩, ⟨sb, false⟩] []).run s
      (if q.ops.any EngOp.posted then .wait s (.monitor .reservation)
       else .done (postOp sc q (.pass dense shape (sVal q.thr sa) (sVal q.thr sb)) accs chit s))
/-- mma (R197): shapes 2 and 3 write a pair of accumulators. -/
def execMma (o : OpMma) (s : State) : Host.Outcome State Fault Refusal :=
  posts o.sa o.sb false o.s.toNat
    (if o.s.toNat < 2 then accMask o.acc else accMask o.acc ||| accMask (o.acc + 1)) (formChit o.f o.chit) s
/-- mmb (R198). -/
def execMmb (o : OpMmb) (s : State) : Host.Outcome State Fault Refusal :=
  posts o.sa o.sb true o.shape.toNat (accMask o.acc) (formChit o.f o.chit) s
/-- mzero (R199). -/
def execMzero (o : OpMzero) (s : State) : Host.Outcome State Fault Refusal :=
  posting [] (fun _ => .zero) (accMask o.acc) (formChit o.f o.chit) s
/-- mdrain (R200). -/
def execMdrain (o : OpMdrain) (s : State) : Host.Outcome State Fault Refusal :=
  posting [o.sa] (fun q => .drain (sVal q.thr o.sa)) (accMask o.acc) (formChit o.f o.chit) s
/-- mstore (R201). -/
def execMstore (o : OpMma) (s : State) : Host.Outcome State Fault Refusal :=
  posting [o.sa, o.sb] (fun q => .store (sVal q.thr o.sa) (sVal q.thr o.sb) o.s.toNat) (accMask o.acc) (formChit o.f o.chit) s
/-- mscale and mscale.row (R203). -/
def execMscale (o : OpMscale) (s : State) : Host.Outcome State Fault Refusal :=
  posting [o.sa] (fun q => if o.f then .scaleRow (sVal q.thr o.sa) else .scale (sVal q.thr o.sa)) (accMask o.acc) none s
/-- msig (R205). -/
def execMsig (o : OpMsig) (s : State) : Host.Outcome State Fault Refusal :=
  posting [o.sa] (fun q => .signal (sVal q.thr o.sa)) o.mask none s
/-- mrel (R206). -/
def execMrel (o : OpXa) (s : State) : Host.Outcome State Fault Refusal :=
  posting [o.sa] (fun q => .release (sVal q.thr o.sa)) 0 none s
/-- What `mwait` waits for is outstanding (R204). -/
def waitsOn (q : SeqCtx) (mask : BitVec 4) (all : Bool) : Bool :=
  q.ops.any fun o => if o.engine then o.accs &&& mask != 0 else all
/-- mwait (R204). -/
def execMwait (o : OpMwait) (s : State) : Host.Outcome State Fault Refusal :=
  onSeq s fun sc q =>
    if waitsOn q o.mask o.all then .wait s (.monitor (.engineOps o.mask o.all))
    else .done (acquireAt (placeOf s (.seq sc)) 3 s)

/-! ### Grants -/

/-- The effective priority of a pass (R127). -/
def passPriority (s : State) (q : SeqCtx) (o : EngOp) : Nat :=
  min 3 ((match ctxOf? s q.ctx with
    | some c => c.level.toNat
    | none => 0) + o.age / 16)
/-- One pass is chosen before another (R127): priority, age, first eligibility, lower context index. -/
def passBefore (x y : Nat × Nat × Nat × Nat × EngOp) : Bool :=
  let (p, a, e, i, _) := x
  let (p', a', e', i', _) := y
  if p ≠ p' then decide (p' < p)
  else if a ≠ a' then decide (a' < a)
  else if e ≠ e' then decide (e < e')
  else decide (i < i')
/-- The chosen one. -/
def bestPass : List (Nat × Nat × Nat × Nat × EngOp) → Option (Nat × Nat × Nat × Nat × EngOp)
  | [] => none
  | x :: r => match bestPass r with
    | none => some x
    | some y => if passBefore x y then some x else some y
/-- The eligible passes of a quad with their keys. -/
def passList (s : State) (quad : Nat) : List (Nat × Nat × Nat × Nat × EngOp) :=
  (s.seqs.filter fun q => q.1 / 8 == quad).flatMap fun q =>
    (q.2.ops.filter fun o => eligible s q.1 q.2 o).map fun o =>
      (passPriority s q.2 o, o.age, o.elig.getD s.tick, q.1, o)

/-- A tile of an operand: its bytes, its header, and the first poisoned granule of what a pass reads of it. -/
structure PassTile where
  bytes : Array Byte
  head : Num.TileHead
  poison : Option Nat
  deriving Repr
/-- The tile with a header at an offset of a box. -/
def heldTile (b : Box) (off : Nat) (h : Num.TileHead) : PassTile :=
  ⟨frontBytes b off (Num.bodyBytes h.f4), h, boxPoison b (off + 64) (Num.bodyBytes h.f4 - 64)⟩
/-- Where the next tile of an operand starts: its second one follows the first (R185). -/
def tileStart (d : DWord) (seen : Option Num.TileHead) : Nat :=
  descOff d + (match seen with
    | some h => Num.tileSpan h.f4 h.cap
    | none => 0)
/-- Read and check the tile at an offset of a box (R121, R197). -/
def passTile (b : Box) (off : Nat) : Except Trap PassTile :=
  if b.bytes < off + 64 then .error (Trap.plain cENGINE 0x01)
  else match boxPoison b off 64 with
    | some q => .error (Trap.box cPOISON 0x04 q)
    | none => match Num.readHead (frontBytes b off 64) with
      | none => .error (Trap.plain cENGINE 0x03)
      | some h =>
        if b.bytes < off + Num.tileBytes h.f4 h.cap then .error (Trap.plain cENGINE 0x01)
        else .ok (heldTile b off h)
/-- The tiles of a split pass in pop order (R197): the second tile of an operand follows its first (R185). -/
def passTiles (ba bb : Box) (a b : DWord) : List Bool → Option Num.TileHead → Option Num.TileHead →
    Except Trap (List PassTile)
  | [], _, _ => .ok []
  | x :: r, ha, hb =>
    match passTile (if x then ba else bb) (tileStart (if x then a else b) (if x then ha else hb)) with
    | .error t => .error t
    | .ok p => match passTiles ba bb a b r (if x then some p.head else ha) (if x then hb else some p.head) with
      | .error t => .error t
      | .ok ps => .ok (p :: ps)
/-- The tiles of a granted pass by the headers that passed its checks: no step checks them again, and what they hold is read when
the step reads it (R121). -/
def heldTiles (ba bb : Box) (a b : DWord) : List Bool → List (List Byte) → Option Num.TileHead → Option Num.TileHead → List PassTile
  | x :: r, d :: ds, ha, hb => match Num.readHead d.toArray with
    | none => []
    | some h =>
      heldTile (if x then ba else bb) (tileStart (if x then a else b) (if x then ha else hb)) h ::
        heldTiles ba bb a b r ds (if x then some h else ha) (if x then hb else some h)
  | _, _, _, _ => []
/-- Pop entries from queues in order, with the state that remains. -/
def popEntries (quad : Nat) : List Nat → State → List OQEntry × State
  | [], s => ([], s)
  | q :: r, s => match queueOf s quad q with
    | [] => popEntries quad r s
    | e :: _ =>
      let x := popEntries quad r (setQueue quad q (fun l => l.drop 1) s)
      (e :: x.1, x.2)
/-- The tag of an entry matches the tile it feeds (R121). -/
def tagOk (p : OQEntry × PassTile) : Bool :=
  p.1.poison || (p.1.tensor == BitVec.ofNat 16 p.2.head.tensor && p.1.recs.length == p.2.head.nout.sum)
/-- Steps of a split pass: accumulator offset, index of the A tile and of the B tile in pop order (R117). -/
def splitSteps (shape : Nat) : List (Nat × Nat × Nat) :=
  match shape with
  | 0 => [(0, 0, 1)]
  | 1 => [(0, 0, 1), (0, 2, 3)]
  | 2 => [(0, 0, 1), (1, 2, 1)]
  | _ => [(0, 0, 1), (1, 0, 2)]
/-- Rows, K columns and steps of a dense shape (R117). -/
def denseShape (shape : Nat) : Nat × Nat × List Nat :=
  match shape with
  | 4 => (64, 32, [0])
  | 5 => (64, 64, [0, 32])
  | _ => (32, 32, [0])
/-- Steps of a pass (R117). -/
def passSteps (dense : Bool) (shape : Nat) : Nat :=
  if dense then (denseShape shape).2.2.length else (splitSteps shape).length

/-- The checks of a pass at grant (R121, R197, R198): the cause of the first that fails, or the entries popped with the headers of
the tiles, and the state that remains. -/
def grantPass (sc : Nat) (q : SeqCtx) (o : EngOp) (s : State) : Except Trap ((List OQEntry × List (List Byte)) × State) :=
  match o.kind with
  | .pass dense shape a b =>
    let eng (d : BitVec 8) : Except Trap ((List OQEntry × List (List Byte)) × State) := .error (Trap.plain cENGINE d)
    if !descOk a || !descOk b then eng 0x06
    else if !dense && !((popQueues shape a b).all fun x => ownsQueue s (sc / 8) q.ctx x) then eng 0x05
    else match lentBox s sc q (descHandle a), lentBox s sc q (descHandle b) with
      | some ba, some bb =>
        let d := denseShape shape
        let n := if dense then d.1 * d.2.1 * 2 else 64
        if ba.bytes < descOff a + n ∨ bb.bytes < descOff b + n then eng 0x01
        else if descOff a % 128 ≠ 0 ∨ descOff b % 128 ≠ 0 then eng 0x02
        else if dense then (if !seqChitOk s sc o.chit then eng 0x07 else .ok (([], []), s))
        else match passTiles ba bb a b (passPops shape) none none with
          | .error t => .error t
          | .ok ts =>
            let pops := popEntries (sc / 8) (popQueues shape a b) s
            if !((pops.1.zip ts).all tagOk) then eng 0x04
            else if !seqChitOk s sc o.chit then eng 0x07
            else .ok ((pops.1, ts.map fun t => t.bytes.toList.take 64), pops.2)
      | _, _ => eng 0x01
  | _ => .ok (([], []), s)

/-- The box that a granted pass reads: its lend may have ended meanwhile (R206). -/
def passBox (s : State) (q : SeqCtx) (h : DWord) : Option Box := (Cells.get? q.uid s.clus).bind fun u => boxAt u h
/-- The address of the first poisoned granule that a dense step reads of an operand: columns k0 to k0 + 31 of its rows (R121). -/
def densePoison (b : Box) (off n k k0 : Nat) : Option Nat :=
  (List.range n).findSome? fun r => boxPoison b (off + r * 2 * k + 2 * k0) 64
/-- One step of a granted pass (R118, R119): what it leaves in an accumulator with its flags, or the cause of a poisoned operand,
which ends the pass before the step (R121). For a poisoned accumulator element or queue entry POISON has DETAIL 0x01, and of several
poisoned operands a dense step reports A, then B, then the accumulator, a split step entries and accumulator, then A, then B, each at its
lowest poisoned granule (DESIGN CHOICE, log entry 83); of a granted pass the box is always there and the held tiles are complete (R125, R225). -/
def passStep (s : State) (q : SeqCtx) (o : EngOp) (i : Nat) : Except Trap (Nat × List (Nat × Nat) × Num.Flags) :=
  match o.kind with
  | .pass dense shape a b => match passBox s q (descHandle a), passBox s q (descHandle b) with
    | some ba, some bb =>
      if dense then
        let d := denseShape shape
        let k0 := d.2.2.getD i 0
        let rows (x : Box) (y : DWord) := Num.denseRows (frontBytes x (descOff y) (d.1 * d.2.1 * 2)) d.1 d.2.1 k0
        match densePoison ba (descOff a) d.1 d.2.1 k0, densePoison bb (descOff b) d.1 d.2.1 k0 with
        | some x, _ => .error (Trap.box cPOISON 0x04 x)
        | none, some x => .error (Trap.box cPOISON 0x04 x)
        | none, none =>
          if accPoisoned q (accOf o) d.1 then .error (poisonTrap 0)
          else .ok (accOf o, Num.stepTile d.1 (accVal q (accOf o)) (rows ba a) (rows bb b))
      else
        let st := (splitSteps shape).getD i (0, 0, 1)
        let acc := accOf o + st.1
        let ts := heldTiles ba bb a b (passPops shape) o.heads none none
        match ts[st.2.1]?, ts[st.2.2]?, o.popped[st.2.1]?, o.popped[st.2.2]? with
        | some ta, some tb, some ea, some eb =>
          if ea.poison || eb.poison || accPoisoned q acc 64 then .error (poisonTrap 0)
          else match ta.poison, tb.poison with
            | some x, _ => .error (Trap.box cPOISON 0x04 x)
            | none, some x => .error (Trap.box cPOISON 0x04 x)
            | none, none => .ok (acc, Num.stepTile 64 (accVal q acc) (Num.tileValues ta.head ta.bytes ea.recs)
                (Num.tileValues tb.head tb.bytes eb.recs))
        | _, _, _, _ => .error (Trap.plain cENGINE 0x01)
    | _, _ => .error (Trap.plain cENGINE 0x01)
  | _ => .error (Trap.plain cENGINE 0x01)
/-- The granted pass of a sequencer context. -/
def grantedOp (s : State) (sc : Nat) : Option (SeqCtx × EngOp) :=
  match Cells.get? sc s.seqs with
  | none => none
  | some q => (q.ops.find? fun o => o.granted).map fun o => (q, o)
/-- Up to n further steps of the granted pass of a sequencer context, in order (R119, R121). The flags of steps before a failing
one are lost with it (DESIGN CHOICE, log entry 73). -/
def runSteps (sc : Nat) : Nat → State → State
  | 0, s => s
  | n + 1, s => match grantedOp s sc with
    | none => s
    | some (q, o) => match o.kind with
      | .pass dense shape _ _ =>
        if passSteps dense shape ≤ o.pos then s
        else match passStep s q o o.pos with
          | .error t => failSoon sc o t s
          | .ok (acc, x) =>
            runSteps sc n (setOp sc o.id (fun e => { e with pos := e.pos + 1, flags := e.flags ||| x.2 }) (putAcc sc acc x.1 s))
      | _ => s
/-- PASS_GRANT (R126, R127): the array is free and the chosen pass takes it with its entries popped, or fails its checks. -/
def execPassGrant (quad : Nat) (s : State) : Host.Outcome State Fault Refusal :=
  .next (match bestPass (passList s quad) with
    | none => s
    | some (_, _, _, sc, o) => match Cells.get? sc s.seqs with
      | none => s
      | some q =>
        let aged := (passList s quad).filter fun x => x.2.2.2.2.id != o.id
        let age (s : State) : State :=
          (quadCores quad).foldl (fun s k => countProf k q.ctx 10 1 s)
            (aged.foldl (fun s x => setOp x.2.2.2.1 x.2.2.2.2.id (fun e => { e with age := e.age + 1 }) s) s)
        match grantPass sc q o s with
        | .error t => settleOps sc (failSoon sc o t (age s))
        | .ok (es, s) => setQuad quad (fun k => { k with busy := some sc })
            (setOp sc o.id (fun e => { e with granted := true, popped := es.1, heads := es.2 }) (age s)))
/-- The array is with a sequencer context's granted pass, or free for one whose context has come back (R135). -/
def hasArray (s : State) (sc : Nat) : Bool :=
  decide (sc < 4096) && ((quadOf s (sc / 8)).busy == some sc || (quadOf s (sc / 8)).busy.isNone)
/-- The last step of a granted pass is applied and it is done: flags merged, then the chit (R120, R187). -/
def passDone (sc : Nat) (s : State) : State :=
  if !hasArray s sc then s
  else
    let s := runSteps sc 2 s
    match grantedOp s sc with
    | none => settleOps sc s
    | some (_, o) =>
      let s := setQuad (sc / 8) (fun k => { k with busy := none }) s
      settleOps sc (setSeqChit sc o.chit false (setSeq sc (mergeSeqAfl o.flags) (dropOp sc o.id s)))
/-- PASS_COMPLETE (R120, R187). -/
def execPassComplete (sc : Nat) (s : State) : Host.Outcome State Fault Refusal := .next (passDone sc s)

/-! ### Other operations -/

/-- How far an operation has come. -/
inductive OpRes where
  | ok (s : State) (flags : Num.Flags)
  | ask (page : Nat) (s : State)
  | fail (s : State) (t : Trap)
  deriving DecidableEq, Repr

/-- An ENGINE cause, as an operation's outcome. -/
def opFail (s : State) (d : BitVec 8) : OpRes := .fail s (Trap.plain cENGINE d)
/-- mzero (R199). -/
def runZero (sc : Nat) (o : EngOp) (s : State) : OpRes :=
  let a := accOf o
  if !seqChitOk s sc o.chit then opFail s 0x07
  else .ok (setSeq sc (fun q =>
    { q with acc := q.acc.filter fun e => e.1 / 4096 != a
             accPoison := q.accPoison.filter fun k => k / 4096 != a }) s) 0
/-- The checks of a drain: when it starts those of R200, and for the elements that it has not drained yet whether they are poisoned
(R372): with one poisoned element none of the rest lands (DESIGN CHOICE, log entry 83). -/
def drainTrap (s : State) (sc : Nat) (q : SeqCtx) (o : EngOp) (d : DWord) : Option Trap :=
  if 0 < o.pos then (if accPoisonFrom q (accOf o) (32 * o.pos) then some (poisonTrap 0) else none)
  else if !descOk d then some (Trap.plain cENGINE 0x06)
  else match lentBox s sc q (descHandle d) with
    | none => some (Trap.plain cENGINE 0x01)
    | some b =>
      if b.bytes < descOff d + 16384 then some (Trap.plain cENGINE 0x01)
      else if descOff d % 128 ≠ 0 then some (Trap.plain cENGINE 0x02)
      else if !b.escrow then some (Trap.plain cENGINE 0x08)
      else if !seqChitOk s sc o.chit then some (Trap.plain cENGINE 0x07)
      else if accPoisoned q (accOf o) 64 then some (poisonTrap 0)
      else none
/-- Lines from the `pos`-th up to n of a drain land in the copy that is the escrow copy (R200, R227): 32 values each. -/
def drainLines (q : SeqCtx) (o : EngOp) (d : DWord) (n : Nat) (s : State) : State :=
  let bytes := ((List.range (32 * n)).drop (32 * o.pos)).flatMap fun e => toBytes 4 (accVal q (accOf o) e)
  setBox q.uid (boxKey (descHandle d)) (engineBox (descOff d + 128 * o.pos) bytes) s
/-- mdrain (R200): what has not landed yet of its 128 lines does, all in this step (R227; DESIGN CHOICE, log entry 1). -/
def runDrain (sc : Nat) (q : SeqCtx) (o : EngOp) (d : DWord) (s : State) : OpRes :=
  match drainTrap s sc q o d with
  | some t => .fail s t
  | none => .ok (drainLines q o d 128 s) 0
/-- The units of 64 bytes of `mstore` from the `pos`-th on, each written where it goes (R202); what has been accepted is not
written again once a page has been answered. -/
def storeUnits (pl : Place) (sc id : Nat) (asked : List (Nat × Option Bool)) : List (Nat × List Byte) → State → OpRes
  | [], s => .ok s 0
  | (a, d) :: r, s =>
    match engWrite pl asked a d s with
    | .ok _ s => storeUnits pl sc id asked r (setOp sc id (fun e => { e with pos := e.pos + 1 }) s)
    | .ask b s => .ask b s
    | .err e => .fail s { Trap.at e.cause e.detail e.addr.toNat with wr := true }
/-- The checks of a `mstore` when it starts (R202): one that has asked for a page or stored a unit has started. -/
def storeTrap (s : State) (sc : Nat) (o : EngOp) (addr epi : DWord) : Option Trap :=
  let fmt := (epi.extractLsb' 32 3).toNat
  let size := if fmt = 0 then 4 else if fmt < 3 then 2 else 1
  let st := (epi.extractLsb' 52 12).toNat * 64
  if 0 < o.pos ∨ o.asked ≠ [] then none
  else if addr.extractLsb' 56 8 ≠ 0 ∨ 4 < fmt ∨ (0 < st ∧ st < 64 * size) then some (Trap.plain cENGINE 0x06)
  else if addr.toNat % 64 ≠ 0 then some (Trap.plain cENGINE 0x02)
  else if !seqChitOk s sc o.chit then some (Trap.plain cENGINE 0x07)
  else none
/-- mstore (R201, R202): the stores that are left are made in this step, up to one that waits for its page (DESIGN CHOICE, log entry
1); with a poisoned element among the rest none of them is made (DESIGN CHOICE, log entry 83). -/
def runStore (sc : Nat) (q : SeqCtx) (o : EngOp) (addr epi : DWord) (scope : Nat) (s : State) : OpRes :=
  let fmt := (epi.extractLsb' 32 3).toNat
  let size := if fmt = 0 then 4 else if fmt < 3 then 2 else 1
  let st := (epi.extractLsb' 52 12).toNat * 64
  match storeTrap s sc o addr epi with
  | some t => .fail s t
  | none =>
  if accPoisonFrom q (accOf o) (64 / size * o.pos) then .fail s (poisonTrap 0)
  else
    let v := (List.range 4096).map fun e =>
      Num.epiElem (Num.epiFmt fmt) (epi.extractLsb' 0 32).toNat (epi.getLsbD 35) (epi.extractLsb' 36 16).toNat
        (accVal q (accOf o) e)
    let bytes := v.flatMap fun x => toBytes size x.1
    let stride := if st = 0 then 64 * size else st
    let units := (List.range (64 * size)).map fun u => (addr.toNat + u / size * stride + u % size * 64, (bytes.drop (64 * u)).take 64)
    let pl : Place := { ctx := q.ctx, part := ctxPart s q.ctx, core := 1024 + sc / 8, die := sc / 8 / 48 }
    match storeUnits pl sc o.id o.asked (units.drop o.pos) s with
    | .ok s _ => .ok (engRelease pl.die scope s)
        (v.foldl (fun f x => f ||| x.2) 0 &&& (Num.fINV ||| Num.fOVF ||| Num.fUNF ||| Num.fINX ||| Num.fSAT))
    | r => r
/-- mscale with one factor per row (R203); with a poisoned element none is scaled (DESIGN CHOICE, log entry 83). -/
def scaleAcc (sc : Nat) (q : SeqCtx) (o : EngOp) (c : Nat → Nat) (s : State) : OpRes :=
  if accPoisoned q (accOf o) 64 then .fail s (poisonTrap 0)
  else
    let v := (List.range 4096).map fun e =>
      (e, Num.mulV .f32 (Num.decodeF .f32 (accVal q (accOf o) e)) (Num.decodeF .f32 (c (e / 64))))
    .ok (putAcc sc (accOf o) (v.map fun x => (x.1, x.2.1)) s) (v.foldl (fun f x => f ||| x.2.2) 0)
/-- mscale.row (R203). -/
def runScaleRow (sc : Nat) (q : SeqCtx) (o : EngOp) (d : DWord) (s : State) : OpRes :=
  if !descOk d then opFail s 0x06
  else match lentBox s sc q (descHandle d) with
    | none => opFail s 0x01
    | some b =>
      if b.bytes < descOff d + 256 then opFail s 0x01
      else if descOff d % 128 ≠ 0 then opFail s 0x02
      else match boxPoison b (descOff d) 256 with
        | some x => .fail s (Trap.box cPOISON 0x04 x)
        | none =>
          let rows := frontBytes b (descOff d) 256
          scaleAcc sc q o (fun i => ofBytes ((List.range 4).map fun j => rows.getD (4 * i + j) 0)) s
/-- Run an operation that is no pass. -/
def runOp (sc : Nat) (q : SeqCtx) (o : EngOp) (s : State) : OpRes :=
  match o.kind with
  | .zero => runZero sc o s
  | .drain d => runDrain sc q o d s
  | .store a e c => runStore sc q o a e c s
  | .scale c => if c.extractLsb' 32 32 ≠ 0 then opFail s 0x06 else scaleAcc sc q o (fun _ => c.toNat) s
  | .scaleRow d => runScaleRow sc q o d s
  | _ => .ok s 0
/-- The operation completes through ENGINE_OP_COMPLETE: not a pass, `msig` or `mrel`. -/
def EngOp.plain (o : EngOp) : Bool :=
  match o.kind with
  | .pass _ _ _ _ => false
  | _ => o.engine
/-- What a failed operation has written is released at its scope before its chit is set (R211, R228). -/
def failRelease (sc : Nat) (k : EngKind) (s : State) : State :=
  match k with
  | .store _ _ scope => engRelease (sc / 8 / 48) scope s
  | _ => s
/-- An operation that is no pass and whose turn has come runs: it completes, waits for a page, or fails (R133, R187). -/
def driveOp (sc : Nat) (q : SeqCtx) (o : EngOp) (s : State) : State :=
  match runOp sc q o s with
  | .ok s f => settleOps sc (setSeqChit sc o.chit false (setSeq sc (mergeSeqAfl f) (dropOp sc o.id s)))
  | .ask b s =>
    if o.asked.contains (b, none) then s
    else askPage (ctxPart s q.ctx) b (coreDie (768 + sc / 8)) (setOp sc o.id (fun e => { e with asked := noteAsk b e.asked }) s)
  | .fail s t => settleOps sc (failSoon sc o t (failRelease sc o.kind s))
/-- The operation is no pass, and nothing that it must wait for is outstanding. -/
def opDue (q : SeqCtx) (o : EngOp) : Bool := o.plain && o.failed.isNone && opReady q o
/-- ENGINE_OP_COMPLETE (R187): the operation takes effect once those before it have completed. -/
def execEngineOpComplete (sc op : Nat) (s : State) : Host.Outcome State Fault Refusal :=
  .next (match Cells.get? sc s.seqs with
    | none => s
    | some q => match q.ops.find? fun o => decide (sc < 4096) && o.id == op && opDue q o with
      | none => s
      | some o => driveOp sc q o s)

/-! ### Settling a box -/

/-- The two copies of an escrow box exchange roles (R227). -/
def swapCopies (b : Box) : Box :=
  { b with front := b.back, back := b.front, frontPoison := b.backPoison, backPoison := b.frontPoison }
/-- Some of a drain's lines land before a `settle` of its box, how many is left open (R200, R227; DESIGN CHOICE, log entry 32). -/
def drainSome (sc : Nat) (h : DWord) (s : State) : State :=
  match Cells.get? sc s.seqs with
  | none => s
  | some q => match q.ops.find? fun o => opDue q o && (match o.kind with
      | .drain d => descHandle d == descHandle h
      | _ => false) with
    | none => s
    | some o => match o.kind with
      | .drain d =>
        let n := o.pos + Config.choice 5 (s.tick + o.id) % (129 - o.pos)
        if sc < 4096 ∧ drainTrap s sc q o d = none then setOp sc o.id (fun e => { e with pos := n }) (drainLines q o d n s) else s
      | _ => s
/-- settle (R227): it waits for the passes that read the box; a drain in flight is cut at some line. -/
def execSettle (o : OpXa) (s : State) : Host.Outcome State Fault Refusal :=
  onPart s fun pid p g =>
    (gateP p g 0 [] [⟨o.sa, false⟩] [] [] []).run s
      (match heldBox s p.gid g (sVal p.thr o.sa) with
       | none => .trap s (boxTrap 0x01)
       | some (uid, b) =>
         if !b.escrow then .trap s (boxTrap 0x06)
         else if s.seqs.any (fun q => q.2.uid == uid && q.2.ops.any fun e => e.granted && e.uses (boxKey (sVal p.thr o.sa))) then
           .wait s .boxDrain
         else
           let s := ((s.seqs.filter fun q => q.2.uid == uid).map Prod.fst).foldl (fun s sc => drainSome sc (sVal p.thr o.sa) s) s
           .done (setBox uid (boxKey (sVal p.thr o.sa)) swapCopies (releaseAt (placeOf s (.part pid)) 2 s)))

/-- A sequencer context ends of itself: every team of its cluster on the quad has exited, and it waits in `mpick` with no entry for it
and no operation pending (R304). -/
def autoEnds (s : State) (sc : Nat) (q : SeqCtx) : Bool :=
  decide (sc < 4096) && q.thr.wait == .monitor .fifoEntry && q.thr.stop == .running && !q.ended && q.ops.isEmpty &&
    (fifoFront s sc q.ctx).isNone &&
    (s.teams.all fun t => t.2.uid != q.uid || coreQuad t.2.core != sc / 8 || t.2.exited)
/-- SEQUENCER_CONTEXT_AUTO_END (R304). -/
def execSequencerContextAutoEnd (sc : Nat) (s : State) : Host.Outcome State Fault Refusal :=
  .next (match Cells.get? sc s.seqs with
    | none => s
    | some q => if autoEnds s sc q then endSeq sc s else s)

/-! ### Events of commands -/

/-- COMMAND_COMPLETE (R262). -/
def execCommandComplete (ticket : Nat) (s : State) : Host.Outcome State Fault Refusal :=
  .next (match s.cmds.find? fun m => m.ticket == ticket with
    | some c => if cmdRuns s c then markEligible (coreQuad c.core) (driveCmd c s) else s
    | none => s)
/-- OUTLIER_QUEUE_PUSH (R122, R266): a held `cpyq` goes on. -/
def execOutlierQueuePush (ticket : Nat) (s : State) : Host.Outcome State Fault Refusal :=
  .next (match s.cmds.find? fun m => m.ticket == ticket with
    | some c => (match c.kind with
      | .cpyq _ _ => if c.failed.isSome || !cmdRuns s c then s else markEligible (coreQuad c.core) (driveCmd c s)
      | _ => s)
    | none => s)

end Sys2Proof.Machine
end

