-- ==== Sys2Proof/Machine/SeqInstr.lean ====
section
/-!
DEFINITION. Sequences at their homes, majors 0x31 and 0x32 (R231 to R233, R270 to R278, R410, R411).
-/

namespace Sys2Proof.Machine

/-! ### Descriptors and tables -/

/-- Slots of a segment (R270). -/
def segSlots (cfg : DWord) : Nat := 2 ^ cfgG cfg
/-- The least power of two from 64 upward that is not below n. -/
def roundPow (n : Nat) : Nat := if n ≤ 64 then 64 else 2 ^ Num.bitLen (n - 1)
/-- Bytes of a summary record (R411). -/
def sumBytes (cfg : DWord) : Nat := roundPow (4 * cfgCols cfg)
/-- Round up to 4 KiB. -/
def pageUp (n : Nat) : Nat := (n + 4095) / 4096 * 4096

/-- The live sequence with a handle in a partition (R270). -/
def liveSq (s : State) (p : BitVec 6) (h : Nat) : Option Sq := s.sqs.find? fun q => q.part == p && q.handle == h
/-- Change the live sequence with a handle. -/
def setSq (p : BitVec 6) (h : Nat) (f : Sq → Sq) (s : State) : State :=
  { s with sqs := s.sqs.map fun q => if q.part == p && q.handle == h then f q else q }
/-- The physical address behind a page that is on the device. -/
def physOf (s : State) (p : BitVec 6) (va : Nat) : Option Nat :=
  match parOf? s p with
  | some t => match pageOf t va with
    | some (b, pg) => match pg.state with
      | .device ph => if inPool s p ph pg.size then some (ph + (va - b)) else none
      | _ => none
    | none => none
  | none => none
/-- The die of the SCU that is a descriptor's home. -/
def sqDie (s : State) (p : BitVec 6) (h : Nat) : Nat := physDie ((physOf s p h).getD 0)
/-- The pieces of n bytes at a virtual address that lie in one page of 4 KiB: where each begins, and its length. -/
def pagePieces (va n : Nat) : List (Nat × Nat) :=
  (List.range ((va % 4096 + n + 4095) / 4096)).map fun i =>
    let a := max va ((va / 4096 + i) * 4096)
    (a, min (va + n) ((va / 4096 + i + 1) * 4096) - a)
/-- Bytes are written at a virtual address, page by page, where the page is on the device: by the homes themselves, or for a request
that a die has sent, whose clock the write then carries (R221). A page that the host has taken back drops its part of the write, a word of a
live descriptor included (DESIGN CHOICE, log entry 101). -/
def pokeFrom (src : Option Nat) (p : BitVec 6) (va : Nat) (d : List Byte) (s : State) : State :=
  (pagePieces va d.length).foldl (fun s q => match physOf s p q.1 with
    | some pa => homeWrite (src.getD (physDie pa)) pa ((d.drop (q.1 - va)).take q.2) s
    | none => s) s
/-- A home writes bytes of the device at a virtual address. -/
def poke (p : BitVec 6) (va : Nat) (d : List Byte) (s : State) : State := pokeFrom none p va d s
/-- Read bytes at a virtual address, page by page, zeros where the page is not on the device. -/
def peek (s : State) (p : BitVec 6) (va n : Nat) : List Byte :=
  (pagePieces va n).flatMap fun q => match physOf s p q.1 with
    | some pa => memBytes s.mem pa q.2
    | none => List.replicate q.2 0
/-- A byte at a virtual address lies in a poisoned sector (R371). -/
def spoiltAt (s : State) (p : BitVec 6) (va : Nat) : Bool :=
  match physOf s p va with
  | some pa => (poisonedAt s pa 1).isSome
  | none => false
/-- The sector that holds the byte at a virtual address takes a poison mark (R371, R372). -/
def spoil (p : BitVec 6) (va : Nat) (s : State) : State :=
  match physOf s p va with
  | some pa => homeLine .set (physDie pa) pa [] s
  | none => s

/-- The descriptor's words as loads of it read them (R270). -/
def sqWords (q : Sq) (live : Bool) : List DWord :=
  [(q.cfg &&& ~~~(1#64 <<< 32)) ||| (if live then 1#64 <<< 32 else 0), BitVec.ofNat 64 q.cap, BitVec.ofNat 64 q.cl,
   BitVec.ofNat 64 q.rl, BitVec.ofNat 64 q.win, BitVec.ofNat 64 q.wmax, BitVec.ofNat 64 q.stab, BitVec.ofNat 64 q.sumt]
/-- Write a descriptor's current values where loads read them, for a die's request or by the SCU itself. -/
def syncSq (src : Option Nat) (q : Sq) (live : Bool) (s : State) : State :=
  pokeFrom src q.part q.handle (wordBytes (sqWords q live)) s
/-- Sequences of a partition that hold a segment (R411). -/
def segRefs (s : State) (p : BitVec 6) (fs : List Nat) : Nat :=
  (s.sqs.filter fun q => q.part == p && q.segs.any fun g => g.2 == fs).length
/-- Write the table entries of a segment in every sequence that holds it (R411). -/
def syncSeg (p : BitVec 6) (fs : List Nat) (s : State) : State :=
  let n := min (segRefs s p fs) 0xFFFF
  s.sqs.foldl (fun s q =>
    if q.part == p then
      (q.segs.filter fun g => g.2 == fs).foldl (fun s g =>
        poke p (q.stab + 8 * g.1) (toBytes 8 (1 + n * 2 ^ 16)) s) s
    else s) s

/-- Every page of a window is of kind SEQ (R270, R341). -/
def seqCovered (t : Partition) (a n : Nat) : Bool :=
  decide (a + n ≤ t.pages.foldl (fun c p =>
    if p.1 ≤ c ∧ c < p.1 + p.2.size ∧ p.2.kind = .seq then p.1 + p.2.size else c) a)
/-- A free address of the table area for a table of n bytes: which one is left open (R411; DESIGN CHOICE, log entry 19). -/
def tableNext (t : Partition) (count n : Nat) : Nat :=
  let free (a : Nat) : Bool := decide (a + n ≤ region 0xE0) && t.pages.all fun p => decide (a + n ≤ p.1) || decide (p.1 + p.2.size ≤ a)
  let ends := t.pages.filterMap fun p => if p.2.kind = .table then some (p.1 + p.2.size) else none
  (((region 0xD0 + Config.choice 4 count % 2 ^ 40 * 4096) :: region 0xD0 :: ends).find? free).getD (region 0xD0)
/-- Place and map a table of n bytes beside a die in pages of 4 KiB, for reading only (R330, R411). -/
def mapTable (p : BitVec 6) (die n count : Nat) (s : State) : Option (Nat × State) :=
  match parOf? s p, allocFrames p die 4096 (pageUp n / 4096) s with
  | some t, some (fs, s) =>
    let va := tableNext t count (pageUp n)
    some (va, setPar p (fun t => { t with
      pages := (fs.mapIdx fun i ph => (va + 4096 * i, ph)).foldl (fun ps q =>
        Cells.insert q.1 ⟨4096, true, false, false, .table, .device q.2⟩ ps) t.pages }) s)
  | _, _ => none
/-- Unmap a page of a table and return its frame. -/
def dropTablePage (p : BitVec 6) (va : Nat) (s : State) : State :=
  match physOf s p va with
  | some ph => setPar p (fun t => { t with pages := Cells.erase va t.pages }) (freeFrame ph s)
  | none => s
/-- Unmap a table of n bytes and return its frames (R276, R411). -/
def unmapTable (p : BitVec 6) (va n : Nat) (s : State) : State :=
  (List.range (pageUp n / 4096)).foldl (fun s i => dropTablePage p (va + 4096 * i) s) s
/-- Bytes of a sequence's segment table (R411). -/
def stabBytes (cfg : DWord) (wmax : Nat) : Nat := wmax / segSlots cfg * 8
/-- Bytes of a sequence's summary table (R411). -/
def sumtBytes (cfg : DWord) (wmax : Nat) : Nat := wmax / segSlots cfg * sumBytes cfg
/-- Place both tables of a new sequence: STAB, and SUMT when it keeps summaries (R411). -/
def mapTables (p : BitVec 6) (die : Nat) (cfg : DWord) (wmax : Nat) (s : State) : Option (Nat × Nat × State) :=
  match mapTable p die (stabBytes cfg wmax) (2 * s.tick) s with
  | none => none
  | some (st, s) =>
    if cfgSummary cfg then
      match mapTable p die (sumtBytes cfg wmax) (2 * s.tick + 1) s with
      | none => none
      | some (su, s) => some (st, su, s)
    else some (st, 0, s)

/-- A configuration that `sqmint` and `sqfork` accept (R270). -/
def cfgOk (t : Partition) (cfg : DWord) (cap win wmax : Nat) : Bool :=
  decide (4 ≤ cfgEsz cfg) && decide (cfgEsz cfg ≤ 16) && decide (2 ≤ cfgG cfg) && decide (cfgG cfg ≤ 16) &&
    decide (12 ≤ cfgEsz cfg + cfgG cfg) && cfg.extractLsb' 11 5 == 0 && cfg.extractLsb' 32 32 == 0 &&
    (if cfgSummary cfg then decide (1 ≤ cfgCols cfg) && decide (cfgCols cfg ≤ 32768) &&
        decide (2 * cfgCols cfg ≤ 2 ^ cfgEsz cfg)
     else cfgCols cfg == 0) &&
    decide (cap % segSlots cfg = 0) && decide (cap ≤ wmax) && decide (wmax % segSlots cfg = 0) &&
    decide (win < 2 ^ 56) && decide (win % segBytes cfg = 0) && seqCovered t win (wmax * 2 ^ cfgEsz cfg)

/-- SEQC for a handle (R278). -/
def seqcTrap (d : BitVec 8) (h : Nat) : Trap := Trap.at cSEQC d h

/-- A register field that is read through bits 14:10 and one that names a handle. -/
def handleOf (t : Thread) (sa : BitVec 5) : Nat := (sVal t sa).toNat

/-- Run a meaning on a live sequence: SEQC 0x01 where the handle names none, or once where a live descriptor was changed from
outside (R270, R278). -/
def withSq (s : State) (p : BitVec 6) (h : Nat) (f : Sq → Res) : Res :=
  match liveSq s p h with
  | none => .trap s (seqcTrap 0x01 h)
  | some q => if q.tampered then .trap (setSq p h (fun q => { q with tampered := false }) s) (seqcTrap 0x01 h) else f q

/-- The sequence that a part waited on was dropped (R276). -/
def wasDropped (s : State) (pid h : Nat) : Bool := s.dropped.contains ⟨pid, h⟩
/-- Forget that it was. -/
def forgetDropped (pid : Nat) (s : State) : State := { s with dropped := s.dropped.filter fun d => d.pid != pid }

/-- The uniform sources of a sequence form and its handle's registers, checked (R271). -/
def onSq (s : State) (ss : List SSrc) (ds : List (BitVec 5)) (f : Nat → Part → Group → Place → Res) :
    Host.Outcome State Fault Refusal :=
  onPart s fun pid p g => (gateP p g 0 [] ss [] [] ds).run s (f pid p g (placeOf s (.part pid)))

/-! ### Minting and dropping -/

/-- The eight words of a descriptor in memory, the part's own stores to it performed first. -/
def readDesc (pl : Place) (h : Nat) (s : State) : (Except (Nat × Nat) (List Nat × Nat)) × State :=
  match reachChecked s pl .read .home h 64 with
  | .phys s' pa _ _ _ =>
    let s' := drainStores (fun q => q.core == pl.core && !q.peer && q.addr / 128 == pa / 128) s'
    (.ok ((List.range 8).map fun i => memNat s'.mem (pa + 8 * i) 8, physDie pa), s')
  | .bad c d => (.error (c, d), s)
  | .missing d => (.error (0x07, d), s)
  | _ => (.error (0x07, 0), s)

/-- A release at package scope to a descriptor's home: the part's earlier stores are performed, and the home takes the clock of
the part's die (R231, R402). -/
def releaseSq (pl : Place) (h : Nat) (s : State) : State :=
  let s := releaseAt pl 3 s
  joinClock (sqDie s pl.part h) (dieClock s pl.die) s
/-- The answer of a descriptor's home reaches a part's die with the home's clock (R221). -/
def answerSq (pl : Place) (h : Nat) (s : State) : State := joinClock pl.die (dieClock s (sqDie s pl.part h)) s
/-- sqmint (R270, R271, R402, R411). What the words of the descriptor that the device writes hold before it is ignored (DESIGN CHOICE,
log entry 60). -/
def execSqmint (o : OpUa) (s : State) : Host.Outcome State Fault Refusal :=
  onSq s [⟨o.sa, o.wsa⟩] [] fun _ p _ pl =>
    let h := handleOf p.thr o.sa
    if h % 64 ≠ 0 ∨ (liveSq s pl.part h).isSome then .trap s (seqcTrap 0x05 h)
    else match readDesc pl h s, parOf? s pl.part with
      | (.error c, _), _ => .trap s (uniTrap false h c)
      | (.ok (w, die), s'), some t =>
        let cfg := BitVec.ofNat 64 (w.getD 0 0)
        if !cfgOk t cfg (w.getD 1 0) (w.getD 4 0) (w.getD 5 0) then .trap s (seqcTrap 0x05 h)
        else (match mapTables pl.part die cfg (w.getD 5 0) (releaseSq pl h s') with
          | none => .trap s (seqcTrap 0x07 h)
          | some (st, su, s') =>
            let q : Sq := { part := pl.part, handle := h, cfg := cfg, cap := w.getD 1 0, cl := 0, rl := 0, win := w.getD 4 0,
                            wmax := w.getD 5 0, stab := st, sumt := su, committed := [], segs := [], queue := [],
                            tampered := false, clock := [0, 0, 0, 0] }
            .done (syncSq (some pl.die) q true { s' with sqs := s'.sqs ++ [q] }))
      | (.ok _, _), none => .trap s (seqcTrap 0x05 h)

/-- Release a sequence's segments that no other holds, and its tables (R276, R410). -/
def dropSegs (q : Sq) (s : State) : State :=
  q.segs.foldl (fun s g =>
    if segRefs s q.part g.2 = 0 then g.2.foldl (fun s a => freeFrame a s) s else syncSeg q.part g.2 s) s
/-- The registers bound to a dropped sequence keep their values and take no further one (R274). -/
def endBindings (p : BitVec 6) (h : Nat) (s : State) : State :=
  { s with teams := s.teams.map fun t =>
      if ctxPart s t.2.ctx == p then
        (t.1, { t.2 with cls := t.2.cls.map fun b => if b.2.handle == h then (b.1, { b.2 with bound := false }) else b })
      else t }
/-- sqdrop (R276, R402): requests queued on the sequence are told. -/
def execSqdrop (o : OpUa) (s : State) : Host.Outcome State Fault Refusal :=
  onSq s [⟨o.sa, o.wsa⟩] [] fun _ p _ pl =>
    let h := handleOf p.thr o.sa
    withSq s pl.part h fun q =>
      let told := q.queue.map fun r => match r with
        | .res pid _ => (⟨pid, h⟩ : DroppedReq)
        | .waitFor pid _ => ⟨pid, h⟩
        | .fork pid => ⟨pid, h⟩
      let s := releaseSq pl h s
      let s := { s with sqs := s.sqs.filter (fun x => !(x.part == pl.part && x.handle == h)), dropped := s.dropped ++ told }
      let s := syncSq (some pl.die) q false (dropSegs q (endBindings pl.part h s))
      let s := unmapTable pl.part q.stab (stabBytes q.cfg q.wmax) s
      .done (if cfgSummary q.cfg then unmapTable pl.part q.sumt (sumtBytes q.cfg q.wmax) s else s)

/-! ### Reserving and committing -/

/-- Segments that slots [a, b) touch and that are not allocated yet (R272). -/
def newSegs (q : Sq) (a b : Nat) : List Nat :=
  ((List.range ((b + segSlots q.cfg - 1) / segSlots q.cfg - a / segSlots q.cfg)).map fun i => a / segSlots q.cfg + i).filter
    fun i => (Cells.get? i q.segs).isNone
/-- Segments of a sequence's size that the pool could supply (R410). -/
def freeSegs (s : State) (q : Sq) : Nat := (poolSize s q.part - poolUsed s q.part) / segBytes q.cfg
/-- A reservation by a part can be granted: nothing of another part is queued ahead of it (R272). -/
def grantable (s : State) (q : Sq) (pid n : Nat) : Bool :=
  decide (q.rl + n ≤ q.cap) && decide (q.rl + n - q.cl ≤ 65536) &&
    (match q.queue.find? fun r => match r with
      | .res _ _ => true
      | _ => false with
     | some (.res x _) => x == pid
     | _ => true) && decide ((newSegs q q.rl (q.rl + n)).length ≤ freeSegs s q)
/-- Allocate and map segments for a sequence (R272, R336, R410). -/
def allocSegs (p : BitVec 6) (h die : Nat) : List Nat → State → Option State
  | [], s => some s
  | i :: r, s => match liveSq s p h with
    | none => none
    | some q => match allocFrames p die (segPiece q.cfg) (segBytes q.cfg / segPiece q.cfg) s with
      | none => none
      | some (b, s) => allocSegs p h die r (syncSeg p b (setSq p h (fun q => { q with segs := Cells.insert i b q.segs }) s))
/-- A request of a part in a queue, once. -/
def enqueue (p : BitVec 6) (h : Nat) (r : SqReq) (s : State) : State :=
  setSq p h (fun q => if q.queue.contains r then q else { q with queue := q.queue ++ [r] }) s

/-- sqres and sqres.try (R272). -/
def execSqres (o : OpSqres) (s : State) : Host.Outcome State Fault Refusal :=
  onSq s [⟨o.sa, o.wsa⟩, ⟨o.sb, o.wsb⟩] [o.sd] fun pid p _ pl =>
    let h := handleOf p.thr o.sa
    let n := (sVal p.thr o.sb).toNat
    if wasDropped s pid h then .trap (forgetDropped pid s) (seqcTrap 0x06 h)
    else withSq s pl.part h fun q =>
      if n = 0 ∨ 65536 < n then .trap s (seqcTrap 0x02 h)
      else
        let give := if grantable s q pid n then allocSegs pl.part h (sqDie s pl.part h) (newSegs q q.rl (q.rl + n)) s else none
        match give with
        | some s' =>
          let s' := withdraw pid (setSq pl.part h (fun q => { q with rl := q.rl + n }) s')
          let s' := match liveSq s' pl.part h with
            | some q => syncSq (some pl.die) q true s'
            | none => s'
          let s' := answerSq pl h s'
          if o.try_ then .done (landS (.part pid) pl.ctx o.sd (BitVec.ofNat 64 q.rl) false s')
          else .done (writeS (.part pid) o.sd (BitVec.ofNat 64 q.rl) s')
        | none =>
          if o.try_ then .done (landS (.part pid) pl.ctx o.sd (BitVec.allOnes 64) false (answerSq pl h s))
          else .wait (enqueue pl.part h (.res pid n) s) (.monitor (.seqGrant h))

/-- The column values of a segment's slots combined (R277). -/
def sumColumn (s : State) (q : Sq) (fs : List Nat) (c : Nat) (max : Bool) : Nat :=
  let v (i : Nat) := memNat s.mem ((segByte q.cfg fs (i * 2 ^ cfgEsz q.cfg + 2 * c)).getD 0) 2
  ((List.range (segSlots q.cfg - 1)).foldl (fun m i => (Num.minMax .bf16 max false m (v (i + 1))).1)
    (Num.minMax .bf16 max false (v 0) (v 0)).1)
/-- A column value of some slot of a segment lies in a poisoned sector. -/
def columnSpoilt (s : State) (q : Sq) (fs : List Nat) (c : Nat) : Bool :=
  (List.range (segSlots q.cfg)).any fun i =>
    match segByte q.cfg fs (i * 2 ^ cfgEsz q.cfg + 2 * c) with
    | some pa => (poisonedAt s pa 2).isSome
    | none => false
/-- Write the summary record of a segment (R277). Nothing poisoned counts as a value (R372): the entries of a column that a
poisoned slot meets are written with a poison mark (DESIGN CHOICE, log entry 85). -/
def summarise (q : Sq) (i : Nat) (s : State) : State :=
  match Cells.get? i q.segs with
  | none => s
  | some fs =>
    let n := cfgCols q.cfg
    let col (max : Bool) := (List.range n).flatMap fun c => toBytes 2 (sumColumn s q fs c max)
    let rec_ := col false ++ col true
    let at_ := q.sumt + i * sumBytes q.cfg
    ((List.range n).filter (columnSpoilt s q fs)).foldl (fun s c => spoil q.part (at_ + 2 * (n + c)) (spoil q.part (at_ + 2 * c) s))
      (poke q.part at_ (rec_ ++ List.replicate (sumBytes q.cfg - rec_.length) 0) s)
/-- Copy a summary record to another table, poison marks with it (R275, R371, R411). -/
def copyRecord (p : BitVec 6) (src dst n : Nat) (s : State) : State :=
  let bad := ((List.range (n / 32)).map (32 * ·)).filter fun o => spoiltAt s p (src + o)
  bad.foldl (fun s o => spoil p (dst + o) s) (poke p dst (peek s p src n) s)
/-- CL after runs of committed slots that begin at it, with the runs that stay beyond a hole (R273). -/
def advanceCl : Nat → Nat → List (Nat × Nat) → Nat × List (Nat × Nat)
  | 0, cl, rs => (cl, rs)
  | n + 1, cl, rs => match rs.find? fun r => r.1 == cl with
    | some r => advanceCl n r.2 (rs.filter fun x => x != r)
    | none => (cl, rs)
/-- Push a committed length, with the clock of its commits, to every register bound to the sequence (R231, R274). -/
def pushCl (p : BitVec 6) (h cl : Nat) (ck : List Nat) (s : State) : State :=
  { s with teams := s.teams.map fun t =>
      if ctxPart s t.2.ctx == p then
        (t.1, { t.2 with cls := t.2.cls.map fun b =>
                  if b.2.bound && b.2.handle == h then (b.1, { b.2 with val := BitVec.ofNat 64 (max b.2.val.toNat cl), clock := ck }) else b })
      else t }
/-- The home writes the summaries of the segments that CL passes and releases them: the clock of the die of each record's home
is advanced past the record's writes, so that an acquire that takes the clocks sees the records (R221, R277; DEDUCED, log entry
84). The answer holds the clock that covers them. -/
def publish (q : Sq) (passed : List Nat) (s : State) : List Nat × State :=
  if cfgSummary q.cfg then
    passed.foldl (fun x i =>
      let s := summarise q i x.2
      (pagePieces (q.sumt + i * sumBytes q.cfg) (sumBytes q.cfg)).foldl (fun x g =>
        match physOf x.2 q.part g.1 with
        | some pa =>
          let s := advanceClock (physDie pa) x.2
          (List.zipWith max x.1 (dieClock s (physDie pa)), s)
        | none => x) (x.1, s)) (q.clock, s)
  else (q.clock, s)
/-- Commit a checked range at the home, with the committer's clock (R231, R273): CL advances over the run, summaries are
computed first, CL is pushed. -/
def commitRange (p : BitVec 6) (h a n : Nat) (ck : List Nat) (s : State) : State :=
  match liveSq s p h with
  | none => s
  | some q =>
    let r := advanceCl (q.committed.length + 1) q.cl (q.committed ++ [(a, a + n)])
    let passed := (List.range (r.1 / segSlots q.cfg)).filter fun i => decide (q.cl < (i + 1) * segSlots q.cfg)
    let x := publish q passed s
    let s := x.2
    let c := List.zipWith max x.1 ck
    let q' := { q with cl := r.1, committed := r.2, clock := c }
    pushCl p h r.1 c (syncSq none q' true (setSq p h (fun q => { q with cl := r.1, committed := r.2, clock := c }) s))

/-- sqcom (R231, R273): a release at package scope, recorded at the home. -/
def execSqcom (o : OpUn) (s : State) : Host.Outcome State Fault Refusal :=
  onSq s [⟨o.sa, o.wsa⟩, ⟨o.sb, o.wsb⟩, ⟨o.sn, false⟩] [] fun _ p _ pl =>
    let h := handleOf p.thr o.sa
    let a := (sVal p.thr o.sb).toNat
    let n := (sVal p.thr o.sn).toNat
    withSq s pl.part h fun q =>
      if n = 0 ∨ 65536 < n ∨ a < q.cl ∨ q.rl < a + n ∨ q.committed.any fun r => decide (r.1 < a + n) && decide (a < r.2) then
        .trap s (seqcTrap 0x03 h)
      else
        let s := releaseSq pl h s
        .done (commitRange pl.part h a n (dieClock s pl.die) s)

/-! ### Lengths -/

/-- An acquire at package scope from commits whose clock is given (R231). -/
def acquireSq (pl : Place) (ck : List Nat) (s : State) : State := joinClock pl.die ck (acquireAt pl 3 s)
/-- A committed-length register of a part's team with the clock of its commits: unbound reads 0 (R271, R274). -/
def clReg (s : State) (pid : Nat) (n : BitVec 4) : List Nat × Nat :=
  match agentTeam s (.part pid) with
  | some (_, t) => (match Cells.get? n.toNat t.cls with
    | some b => (b.clock, b.val.toNat)
    | none => ([0, 0, 0, 0], 0))
  | none => ([0, 0, 0, 0], 0)
/-- sqlen (R271). -/
def execSqlen (o : OpSqlen) (s : State) : Host.Outcome State Fault Refusal :=
  if o.loc then
    onSq s [] [o.sd] fun pid _ _ pl =>
      let r := clReg s pid o.cl
      .done (landS (.part pid) pl.ctx o.sd (BitVec.ofNat 64 r.2) false (acquireSq pl r.1 s))
  else
    onSq s [⟨o.sa, o.wsa⟩] [o.sd] fun pid p _ pl =>
      let h := handleOf p.thr o.sa
      withSq s pl.part h fun q =>
        .done (landS (.part pid) pl.ctx o.sd (BitVec.ofNat 64 q.cl) false (acquireSq pl q.clock (answerSq pl h s)))
/-- sqwait (R271). -/
def execSqwait (o : OpSqwait) (s : State) : Host.Outcome State Fault Refusal :=
  if o.loc then
    onSq s [⟨o.sb, o.wsb⟩] [o.sd] fun pid p _ pl =>
      let r := clReg s pid o.cl
      let n := (sVal p.thr o.sb).toNat
      let bound := match agentTeam s (.part pid) with
        | some (_, t) => (Cells.get? o.cl.toNat t.cls).isSome
        | none => false
      if decide (n ≤ r.2) && bound then
        .done (writeS (.part pid) o.sd (BitVec.ofNat 64 r.2) (acquireSq pl r.1 s))
      else .wait s (.monitor (.boundCl o.cl.toNat n))
  else
    onSq s [⟨o.sa, o.wsa⟩, ⟨o.sb, o.wsb⟩] [o.sd] fun pid p _ pl =>
      let h := handleOf p.thr o.sa
      let n := (sVal p.thr o.sb).toNat
      if wasDropped s pid h then .trap (forgetDropped pid s) (seqcTrap 0x06 h)
      else withSq s pl.part h fun q =>
        if n ≤ q.cl then
          .done (writeS (.part pid) o.sd (BitVec.ofNat 64 q.cl) (withdraw pid (acquireSq pl q.clock (answerSq pl h s))))
        else .wait (enqueue pl.part h (.waitFor pid n) s) (.monitor (.seqLen h n))

/-! ### Forks, bindings, extensions -/

/-- Copy the first z bytes of a segment's frames to another's, poison marks with them (R275, R371). -/
def copySeg (cfg : DWord) (src dst : List Nat) (z : Nat) (s : State) : State :=
  ((src.zip dst).mapIdx fun i q => (q.1, q.2, min (segPiece cfg) (z - i * segPiece cfg))).foldl (fun s q =>
    let s := homeWrite (physDie q.2.1) q.2.1 (memBytes s.mem q.1 q.2.2) s
    let marks := (s.poison.filter fun x => decide (q.1 ≤ x) && decide (x < q.1 + q.2.2)).map fun x => x - q.1 + q.2.1
    marks.foldl (fun s x => homeLine .set (physDie x) x [] s) s) s
/-- sqfork (R275, R411): a wait for a segment comes before SEQC 0x07 (DESIGN CHOICE, log entry 91). -/
def execSqfork (o : OpUn) (s : State) : Host.Outcome State Fault Refusal :=
  onSq s [⟨o.sa, o.wsa⟩, ⟨o.sb, o.wsb⟩, ⟨o.sn, false⟩] [] fun pid p _ pl =>
    let h := handleOf p.thr o.sa
    let len := (sVal p.thr o.sb).toNat
    let d := (sVal p.thr o.sn).toNat
    if wasDropped s pid h then .trap (forgetDropped pid s) (seqcTrap 0x06 h)
    else withSq s pl.part h fun q =>
      if d % 64 ≠ 0 ∨ (liveSq s pl.part d).isSome then .trap s (seqcTrap 0x05 d)
      else match readDesc pl d s, parOf? s pl.part with
        | (.error c, _), _ => .trap s (uniTrap false d c)
        | (.ok _, _), none => .trap s (seqcTrap 0x05 d)
        | (.ok (w, die), s'), some t =>
          let win := w.getD 4 0
          let wmax := w.getD 5 0
          if !cfgOk t (q.cfg &&& ~~~(1#64 <<< 32)) q.cap win wmax then .trap s (seqcTrap 0x05 d)
          else if q.cl < len then .trap s (seqcTrap 0x04 h)
          else
            let f := len / segSlots q.cfg
            let part := decide (len % segSlots q.cfg ≠ 0)
            if part && freeSegs s q == 0 then .wait (enqueue pl.part h (.fork pid) s) (.monitor (.seqSegment h))
            else match mapTables pl.part die q.cfg wmax s' with
              | none => .trap s (seqcTrap 0x07 d)
              | some (st, su, s') =>
                let n : Sq := { part := pl.part, handle := d, cfg := q.cfg, cap := q.cap, cl := len, rl := len, win := win,
                                wmax := wmax, stab := st, sumt := su, committed := [],
                                segs := q.segs.filter fun g => decide (g.1 < f), queue := [], tampered := false
                                clock := List.zipWith max q.clock (dieClock s' pl.die) }
                let s' := n.segs.foldl (fun s g => syncSeg pl.part g.2 s) { s' with sqs := s'.sqs ++ [n] }
                match (if part then allocSegs pl.part d die [f] s' else some s') with
                | none => .wait (enqueue pl.part h (.fork pid) s) (.monitor (.seqSegment h))
                | some s' =>
                  let s' := match (if part then Cells.get? f q.segs else none), liveSq s' pl.part d with
                    | some src, some n => (match Cells.get? f n.segs with
                      | some dst =>
                        copySeg q.cfg src dst (len % segSlots q.cfg * 2 ^ cfgEsz q.cfg) s'
                      | none => s')
                    | _, _ => s'
                  let s' := if cfgSummary q.cfg then
                      (List.range f).foldl (fun s i =>
                        copyRecord pl.part (q.sumt + i * sumBytes q.cfg) (su + i * sumBytes q.cfg) (sumBytes q.cfg) s) s'
                    else s'
                  let s' := match liveSq s' pl.part d with
                    | some n => syncSq (some pl.die) n true s'
                    | none => s'
                  .done (withdraw pid (acquireSq pl q.clock s'))

/-- sqbind (R274). -/
def execSqbind (o : OpSqbind) (s : State) : Host.Outcome State Fault Refusal :=
  if o.off then
    onSq s [] [] fun _ _ g _ => .done (setTeam g.tid (fun t => { t with cls := Cells.erase o.cl.toNat t.cls }) s)
  else
    onSq s [⟨o.sa, o.wsa⟩] [] fun _ p g pl =>
      let h := handleOf p.thr o.sa
      withSq s pl.part h fun q =>
        .done (setTeam g.tid (fun t => { t with cls := Cells.insert o.cl.toNat ⟨h, true, BitVec.ofNat 64 q.cl, q.clock⟩ t.cls }) s)

/-- sqext (R271, R278, R402). -/
def execSqext (o : OpUab) (s : State) : Host.Outcome State Fault Refusal :=
  onSq s [⟨o.sa, o.wsa⟩, ⟨o.sb, o.wsb⟩] [] fun _ p _ pl =>
    let h := handleOf p.thr o.sa
    let n := (sVal p.thr o.sb).toNat
    withSq s pl.part h fun q =>
      if n ≤ q.cap then .done (releaseSq pl h s)
      else if q.wmax < n ∨ n % segSlots q.cfg ≠ 0 then .trap s (seqcTrap 0x05 h)
      else .done (syncSq (some pl.die) { q with cap := n } true (setSq pl.part h (fun q => { q with cap := n }) (releaseSq pl h s)))

/-- A sequence form whose result lands in sd (R271). -/
def sqResult (o : OpUad) (sb : List SSrc) (f : State → Part → Sq → Nat) (s : State) : Host.Outcome State Fault Refusal :=
  onSq s (⟨o.sa, o.wsa⟩ :: sb) [o.sd] fun pid p _ pl =>
    withSq s pl.part (handleOf p.thr o.sa) fun q =>
      .done (landS (.part pid) pl.ctx o.sd (BitVec.ofNat 64 (f s p q)) false (answerSq pl (handleOf p.thr o.sa) s))
/-- sqsum (R277). -/
def execSqsum (o : OpU) (s : State) : Host.Outcome State Fault Refusal :=
  sqResult ⟨o.sd, o.sa, o.wsa⟩ [⟨o.sb, o.wsb⟩] (fun _ p q =>
    let i := (sVal p.thr o.sb).toNat
    if cfgSummary q.cfg ∧ (Cells.get? i q.segs).isSome ∧ (i + 1) * segSlots q.cfg ≤ q.cl then q.sumt + i * sumBytes q.cfg
    else 0) s
/-- sqaddr (R271). -/
def execSqaddr (o : OpU) (s : State) : Host.Outcome State Fault Refusal :=
  sqResult ⟨o.sd, o.sa, o.wsa⟩ [⟨o.sb, o.wsb⟩] (fun _ p q =>
    let i := (sVal p.thr o.sb).toNat
    if i < q.wmax then q.win + i * 2 ^ cfgEsz q.cfg else 0) s
/-- sqinfo (R271, R410). -/
def execSqinfo (o : OpSqinfo) (s : State) : Host.Outcome State Fault Refusal :=
  sqResult ⟨o.sd, o.sa, o.wsa⟩ [] (fun s _ q =>
    match o.k.toNat with
    | 0 => q.cl
    | 1 => q.rl
    | 2 => q.cap
    | 3 => ((sqWords q true).headD 0).toNat
    | 4 => q.segs.length
    | _ => freeSegs s q) s

end Sys2Proof.Machine
end

