-- ==== Sys2Proof/Machine/Fabric.lean ====
section
/-!
DEFINITION. Events of the memory system: landings (R25), stores reaching their homes (R208, R220), line updates (R221), L1
expiry (R219), the teller (R239), and accesses from the host, peers and other devices' collective units (R222, R267, R349).
-/

namespace Sys2Proof.Machine

/-! ### Landings -/

/-- Lane words written full by landing data (R25). -/
def landWords (ws : List (Nat × Word)) (g : Group) : Group :=
  { g with lanes := ws.foldl (fun m w => Cells.put LaneWord.zero w.1 ⟨w.2, true, false⟩ m) g.lanes }
/-- A lane word of a group by key. -/
def groupWord (s : State) (gid key : Nat) : LaneWord :=
  match Cells.get? gid s.groups with
  | some g => Cells.get LaneWord.zero key g.lanes
  | none => .zero
/-- A uniform register takes a landing value. -/
def landReg (a : Agent) (r : Nat) (v : SReg) (s : State) : State :=
  setThread a (fun t => { t with sregs := Cells.put SReg.zero r v t.sregs }) s
/-- A uniform register that waits for a lane word takes it once it is full (R179). -/
def landFromLane (l : Landing) (s : State) : State :=
  match l.dest with
  | .fromLane a r gid key =>
    let w := groupWord s gid key
    if w.full then landReg a r ⟨w.val.setWidth 64, true, w.poison⟩ { s with lands := s.lands.filter fun x => x.ticket != l.ticket }
    else s
  | _ => s
/-- Agents that a landing lets look again: those that wait for a register of the group or of the agent, and the producer. -/
def landWakes (s : State) (l : Landing) (a : Agent) (w : Wait) : Bool :=
  (w == .issueLimit && decide (a = l.who)) || (w == .reg && (match l.dest with
    | .lanes gid _ => (match a with
      | .part pid => (match Cells.get? pid s.parts with
        | some p => p.gid == gid
        | none => false)
      | _ => false)
    | .sreg b _ _ => decide (a = b)
    | .fromLane b _ _ _ => decide (a = b)))
/-- A landing's data arrive, those of all its lanes together (R25; DESIGN CHOICE, log entry 4). -/
def land (l : Landing) (s : State) : State :=
  match l.dest with
  | .lanes gid ws =>
    let s := setGroup gid (landWords ws) { s with lands := s.lands.filter fun x => x.ticket != l.ticket }
    let s := s.lands.foldl (fun s x => landFromLane x s) s
    wakeIf (fun a w => landWakes s l a w || (match a with
      | .part pid => w == .reg && (match Cells.get? pid s.parts with
        | some p => p.gid == gid
        | none => false)
      | _ => false)) s
  | .sreg a r v =>
    let s := landReg a r ⟨v, true, false⟩ { s with lands := s.lands.filter fun x => x.ticket != l.ticket }
    wakeIf (landWakes s l) s
  | .fromLane _ _ _ _ => let s := landFromLane l s; wakeIf (landWakes s l) s

/-- DATA_LANDING (R25). -/
def execDataLanding (ticket : Nat) (s : State) : Host.Outcome State Fault Refusal :=
  .next (match s.lands.find? fun l => l.ticket == ticket with
    | some l => land l s
    | none => s)

/-! ### Homes -/

/-- An accepted store is the core's oldest to its line (R212, R213). -/
def storeFirst (s : State) (q : PStore) : Bool :=
  (s.stores.find? fun x => x.core == q.core && x.peer == q.peer && x.addr / 128 == q.addr / 128) == some q
/-- HOME_WRITE (R208, R210, R220): a store leaves its core's queue and is performed at its home. -/
def execHomeWrite (ticket : Nat) (s : State) : Host.Outcome State Fault Refusal :=
  .next (match s.stores.find? fun q => q.ticket == ticket with
    | some q =>
      if storeFirst s q then
        wakeIf (fun a w => w == .issueLimit && decide (a = q.who))
          (performStore q { s with stores := s.stores.filter fun x => x.ticket != q.ticket })
      else s
    | none => s)
/-- DIE_COPY_UPDATE (R221): a die applies an update after every one that its clock shows as causally earlier. -/
def execDieCopyUpdate (ticket : Nat) (s : State) : Host.Outcome State Fault Refusal :=
  .next (match s.upds.find? fun u => u.ticket == ticket with
    | some u => takeUpd u s
    | none => s)
/-- L1_LINE_EXPIRY (R219): a line of a context leaves a core's L1 caches. -/
def execL1LineExpiry (core ctx line : Nat) (s : State) : Host.Outcome State Fault Refusal :=
  .next (setCore core (fun c => { c with
      l1 := c.l1.filter fun l => !(l.ctx == ctx && l.vline == line)
      l1i := c.l1i.filter fun l => !(l.ctx == ctx && l.vline == line) }) s)

/-! ### The teller -/

/-- The team that the teller applies next, once it has exited (R239). -/
def tellerTeam (s : State) (ctx : Nat) : Option (Nat × Team) :=
  match ctxOf? s ctx with
  | some k =>
    if k.lr.det && k.killed.isNone then
      s.teams.find? fun t => t.2.ctx == ctx && t.2.index == k.tellerNext && t.2.exited && !t.2.applied
    else none
  | none => none
/-- TELLER_APPLY (R239): a release at package scope. What a team has written through already stands (R240). -/
def execTellerApply (ctx : Nat) (s : State) : Host.Outcome State Fault Refusal :=
  .next (match tellerTeam s ctx with
    | some (tid, t) =>
      let s := if t.through then s else applyTeam t s
      let s := setTeam tid (fun t => { t with staged := [], view := [], undo := [], applied := true }) (advanceClock (coreDie t.core) s)
      let s := setCtx ctx (fun k => { k with tellerNext := k.tellerNext + 1 }) s
      wakeStaging s
    | none => s)

/-! ### Accesses from outside -/

/-- The page is with the host: in the host's own memory (R334). -/
def hostOwned (s : State) (p : BitVec 6) (va : Nat) : Bool :=
  match parOf? s p with
  | none => false
  | some t => match pageOf t va with
    | none => true
    | some (_, pg) => pg.state == .host
/-- A live descriptor that bytes from outside touch keeps its values, and its next access raises SEQC (R270). -/
def tamper (p : BitVec 6) (va n : Nat) (s : State) : State :=
  { s with sqs := s.sqs.map fun q =>
      if q.part == p && decide (va < q.handle + 64) && decide (q.handle < va + n) then { q with tampered := true } else q }
/-- HOST_MEMORY_ACCESS (R222, R270, R334), within one line. A poisoned sector is answered with a poisoned TLP (R372). -/
def execHostMemoryAccess (a : HostAccess) (s : State) : Host.Outcome State Fault Refusal :=
  .next (if a.len = 0 ∨ 128 < a.va % 128 + a.len ∨ region 0x80 ≤ a.va then s
    else if hostOwned s a.part a.va then
      (if a.write then
        setPar a.part (fun t => { t with hostMem := memWrite t.hostMem a.va (a.data.take a.len)
                                         hostPoison := marksAfter .kept a.va a.len t.hostPoison }) s
       else match parOf? s a.part with
        | some t => send (.hostRead a.part a.va (memBytes t.hostMem a.va a.len) (anyPoison a.va a.len t.hostPoison)) s
        | none => s)
    else match physOf s a.part a.va with
      | none => s
      | some pa =>
        if a.write then
          (if onDescriptor s a.part a.va a.len then tamper a.part a.va a.len s
           else homeWrite (physDie pa) pa (a.data.take a.len) s)
        else send (.hostRead a.part a.va (memBytes s.mem pa a.len) (poisonedAt s pa a.len).isSome) s)

/-- The export of a partition that an access of a peer reaches (R349): the slot's range and rights for the peer's device and
partition. Of several slots for one importer the lowest whose length covers the offset serves it (DESIGN CHOICE, log entry 98). -/
def exportFor (t : Partition) (dev : BitVec 9) (part : BitVec 6) (o : Nat) : Option Export :=
  (t.exports.find? fun e => e.2.dev == dev.toNat && e.2.part == part && decide (o < e.2.len)).map Prod.snd
/-- The kind of an access for translation. -/
def accKind : AccKind → AccessKind
  | .read => .lane
  | .write => .write
  | .atomic _ _ => .write
/-- An access from a peer is answered with bytes, whether the page was resident, and a cause (R335, R349). -/
def peerAnswer (a : PeerAccess) (bytes : List Byte) (resident : Bool) (cause : Nat) (s : State) : State :=
  send (.peerReply a.dev.toNat a.tag bytes resident cause) s
/-- A peer access on the exporter's side: translation, rights, poison, and the access at its home (R349, R335, R372). -/
def peerOn (a : PeerAccess) (va : Nat) (s : State) : State :=
  match reach s a.target (Config.portDie a.port).toNat (accKind a.kind) va a.len with
  | .phys s pa _ _ _ =>
    (match a.kind with
     | .read =>
       if (poisonedAt s pa a.len).isSome then peerAnswer a [] true 0x10 s else peerAnswer a (memBytes s.mem pa a.len) true 0 s
     | .write => peerAnswer a [] true 0 (homeWrite (physDie pa) pa (a.data.take a.len) s)
     | .atomic op _ =>
       if (poisonedAt s pa a.len).isSome then peerAnswer a [] true 0x10 s
       else
         let old := memBytes s.mem pa a.len
         peerAnswer a old true 0 (homeWrite (physDie pa) pa (atomNew op.toNat a.len old a.data) s))
  | .bad c _ => peerAnswer a [] true c s
  | .beyond => peerAnswer a (List.replicate a.len 0) false 0 s
  | _ =>
    let s := noteAt a.target va s
    if a.kind = .read then peerAnswer a (List.replicate a.len 0) false 0 s else peerAnswer a [] true 0x07 s
/-- The partition's incoming accesses and its launches are held: while a copy runs, and after a checkpoint that leaves it
stopped (R378). -/
def peerHeld (s : State) (p : BitVec 6) : Bool :=
  copying s p || (match parOf? s p with
    | some t => t.stopped
    | none => false)
/-- An access of a peer: the export it goes through, then the access (R349). -/
def peerThrough (a : PeerAccess) (s : State) : State :=
  match parOf? s a.target with
  | none => peerAnswer a [] true 0x08 s
  | some t => match exportFor t a.dev a.part a.offset with
    | none => peerAnswer a [] true 0x08 s
    | some e =>
      if a.offset + a.len ≤ e.len ∧ (if a.kind = .read then e.rd else e.wr) then peerOn a (e.base + a.offset) s
      else peerAnswer a [] true 0x08 s
/-- PEER_ACCESS (R349), naturally aligned and of 1 to 16 bytes; a checkpoint holds it (R378). -/
def execPeerAccess (a : PeerAccess) (s : State) : Host.Outcome State Fault Refusal :=
  .next (if a.len = 0 ∨ 16 < a.len ∨ a.offset % a.len ≠ 0 ∨ !s.peers.contains a.dev.toNat then s
    else if peerHeld s a.target then { s with deferred := s.deferred ++ [.peer a] }
    else peerThrough a s)

/-- PEER_COLLECTIVE_ARRIVAL (R267, R268): a message of another device waits to be matched in arrival order. -/
def execPeerCollectiveArrival (a : PeerCollective) (s : State) : Host.Outcome State Fault Refusal :=
  .next (peerArrive a s)

end Sys2Proof.Machine
end

