-- ==== Sys2Proof/Machine/Fetch.lean ====
section
/-!
DEFINITION. Fetch (R35, R37), which agents may issue (R290), and a step of an agent around its instruction.
-/

namespace Sys2Proof.Machine

/-- What a fetch finds: a cause, with the length that its trap records (R355), or an instruction and its length. -/
inductive Look where
  | trap (len : Nat) (t : Trap)
  | instr (len : Nat) (i : Instr)
  deriving DecidableEq, Repr

/-- The line of a core's L1 instruction cache that holds an address (R13, R339). -/
def codeLine? (s : State) (pl : Place) (pc : DWord) : Option ILine :=
  if pl.core < 768 then (coreOf s pl.core).l1i.find? fun l => l.ctx == pl.ctx && l.vline == pc.toNat / 128 else none
/-- A fetched line enters the core's L1 instruction cache of 512 lines, unless some of it is poisoned (R13, R371; DESIGN CHOICE,
log entry 7). -/
def keepCode (pl : Place) (va pa : Nat) (b : Line) (s : State) : State :=
  if pl.core < 768 ∧ b.marks = [] then
    setCore pl.core (fun c => { c with
      l1i := ((⟨pl.ctx, va / 128, pa / 128, b.bytes⟩ : ILine) :: c.l1i.filter fun l =>
        !(l.pline == pa / 128 || (l.ctx == pl.ctx && l.vline == va / 128))).take 512 }) s
  else s
/-- The halfword at an address, or the cause of its fetch (R37, R335, R372), with what the fetch brings into caches: a hit in the
L1 instruction cache is not translated (R339). -/
def fetchHalf (s : State) (pl : Place) (pc : DWord) : Except Trap (BitVec 16) × State :=
  match codeLine? s pl pc with
  | some l => (.ok (half (memByte l.bytes (pc.toNat % 128)) (memByte l.bytes (pc.toNat % 128 + 1))), s)
  | none => match translate s pl .fetch pc.toNat 2 with
    | .phys _ pa b z _ =>
      let r := dieLine pl.die pl.part (pa / 128) (touchTlb pl.core pl.ctx b z s)
      if r.1.marked (pa % 128) 2 then (.error (Trap.at cPOISON 0x03 pc.toNat), s)
      else (.ok (half (memByte r.1.bytes (pa % 128)) (memByte r.1.bytes (pa % 128 + 1))), keepCode pl pc.toNat pa r.1 r.2)
    | .bad c d => (.error (Trap.at (BitVec.ofNat 8 c) (BitVec.ofNat 8 d) pc.toNat), s)
    | _ => (.error (Trap.at cNOPAGE 0x03 pc.toNat), s)

/-- The cause of an undefined encoding fetched directly (R47). -/
def undefTrap : Trap := Trap.plain cUNDEF 0xFF

/-- Fetch and decode at a PC (R35, R46), with what the fetches bring into caches. -/
def fetchAt (s : State) (pl : Place) (pc : DWord) : Look × State :=
  match fetchHalf s pl pc with
  | (.error t, s) => (.trap 2 t, s)
  | (.ok h, s) =>
    if h.getLsbD 0 then
      match fetchHalf s pl (pc56 (pc + 2)) with
      | (.error t, s) => (.trap 4 t, s)
      | (.ok k, s) => (match decode32 (k ++ h) with
        | .ok i => .instr 4 i
        | .error _ => .trap 4 undefTrap, s)
    else (match decode16 h with
      | .ok i => .instr 2 i
      | .error _ => .trap 2 undefTrap, s)

/-- The agent's context lets it issue: it exists, it is not being killed (R375), and no debugger holds the agent (R394). -/
def ctxIssues (s : State) (a : Agent) : Bool :=
  match (agentCtx s a).bind (ctxOf? s) with
  | some k => k.killed.isNone && (!k.dbgStop || k.steps.contains a)
  | none => false
/-- The agent's unit is resident (R300, R302). -/
def agentResident (s : State) (a : Agent) : Bool :=
  match agentUnit s a with
  | some u => unitResident s u
  | none => false
/-- An agent may issue: seated, resident, running, its context not held (R290). A sequencer context with a failed operation stops
even before the record of the failure can be written (R188, R366). -/
def mayIssue (s : State) (a : Agent) : Bool :=
  ctxIssues s a && agentResident s a && (match a with
    | .none => false
    | .part pid => (match Cells.get? pid s.parts with
      | some p => p.seated && p.thr.stop == .running
      | none => false)
    | .seq sc => (match Cells.get? sc s.seqs with
      | some q => !q.ended && !q.ending && q.thr.stop == .running && q.ops.all fun o => o.failed.isNone
      | none => false))

/-- A wait that only an event ends; in every other wait the instruction is executed again. -/
def heldWait : Wait → Bool
  | .join _ _ => true
  | .command _ _ => true
  | .ring => true
  | _ => false

/-- A wait after which the waiting instruction is decoded and executed again: not one that ends past it. -/
def decodesAgain : Wait → Bool
  | .none => false
  | .join _ _ => false
  | .command _ _ => false
  | _ => true

/-- After the turn of an agent that a debugger steps its step is over, whatever others it steps, unless the instruction waits to be executed again (R394). -/
def afterTurn (a : Agent) (s : State) : State :=
  match agentCtx s a, thread? s a with
  | some c, some t =>
    match ctxOf? s c with
    | none => s
    | some k =>
      if k.steps.contains a = true ∧ (t.wait = .none ∨ heldWait t.wait) then
        let s := setCtx c (fun k => { k with steps := k.steps.erase a }) s
        if k.dbgStop then s
        else setThread a (fun t => { t with stop := if t.stop = .running then .brkp else t.stop }) s
      else s
  | _, _ => s

/-- What the turn of an agent runs. -/
inductive Turned where
  /-- The agent does not issue. -/
  | idle
  /-- The fetch raised a cause. -/
  | trap (s : State)
  /-- An instruction, with the state in which its agent and length are latched. -/
  | run (i : Instr) (s : State)
  deriving DecidableEq, Repr

/-- The turn of an agent up to its instruction's meaning (R46, R290). -/
def agentTurn (a : Agent) (s : State) : Turned :=
  if mayIssue s a then
    match thread? s a with
    | none => .idle
    | some t =>
      if heldWait t.wait then .idle
      else match fetchAt s (placeOf s a) t.pc with
        | (.trap n e, s) => .trap (takeTrap a n e { s with agent := a, iss := ⟨n, none⟩ })
        | (.instr n i, s) => .run i { s with agent := a, iss := ⟨n, none⟩ }
  else .idle

end Sys2Proof.Machine
end

