-- ==== Sys2Proof/Machine/Waits.lean ====
section
/-!
DEFINITION. How waits end: monitors (R296, R297), barriers (R294), seats (R292), pending records (R366), completion records
(R283, R284), page answers (R337) and WEDGE (R306, R307).
-/

namespace Sys2Proof.Machine

/-! ### Monitors -/

/-- The condition of a monitor holds, so that its instruction would now go on (R296). -/
def monitorReady (s : State) (a : Agent) (m : Monitor) : Bool :=
  let pl := placeOf s a
  let pid := match a with
    | .part p => p
    | _ => 0
  match m with
  | .watch addr n past =>
    let hit := reachChecked s pl .read .home addr n
    (hitCause true hit).isSome || (match homeValue s hit n with
      | some v => v != past.toNat
      | none => false)
  | .seqLen h n => wasDropped s pid h || (match liveSq s pl.part h with
    | some q => q.tampered || decide (n ≤ q.cl)
    | none => true)
  | .seqGrant h => wasDropped s pid h || (match liveSq s pl.part h with
    | some q => q.tampered || q.queue.any (fun r => match r with
      | .res p n => p == pid && grantable s q p n
      | _ => false) || !q.queue.any (fun r => match r with
      | .res p _ => p == pid
      | _ => false)
    | none => true)
  | .seqSegment h => wasDropped s pid h || (match liveSq s pl.part h with
    | some q => q.tampered || decide (0 < freeSegs s q)
    | none => true)
  | .boundCl n target => (match agentTeam s a with
    | some (_, t) => (match Cells.get? n t.cls with
      | some b => decide (target ≤ b.val.toNat)
      | none => false)
    | none => false)
  | .barrier b ph => decide (ph < (barOf s b).phase)
  | .chits all m =>
    let r := agentChr s a &&& m
    if all then
      let range := (chitTeams s a).foldl (fun m t => m ||| chitRange t.2) 0
      decide (r = m &&& range)
    else r != 0
  | .takeQueue => (match a with
    | .part p => (match (Cells.get? p s.parts).bind fun x => Cells.get? x.gid s.groups with
      | some g => !g.takeq.isEmpty
      | none => false)
    | _ => false)
  | .giveQueue gid => (match Cells.get? gid s.groups with
    | some g => g.exited || decide (g.takeq.length < 16)
    | none => true)
  | .fifoRoom quad target => fifoRoom (quadOf s quad) target
  | .fifoEntry => (match a with
    | .seq sc => (fifoFront s sc pl.ctx).isSome
    | _ => false)
  | .reservation => (match a with
    | .seq sc => (match Cells.get? sc s.seqs with
      | some q => !q.ops.any EngOp.posted
      | none => false)
    | _ => false)
  | .engineOps accs all => (match a with
    | .seq sc => (match Cells.get? sc s.seqs with
      | some q => !waitsOn q accs all
      | none => false)
    | _ => false)
/-- The agent waits on a monitor whose condition holds. -/
def wakeable (s : State) (a : Agent) : Bool :=
  match thread? s a with
  | some t => (match t.wait with
    | .monitor m => monitorReady s a m
    | _ => false)
  | none => false
/-- An agent that waits becomes ready; should its condition not hold after all, its wait goes on as before (R296). -/
def awake (a : Agent) (s : State) : State := setThread a (fun t => { t with wait := .none, woken := t.wait, ready := s.tick }) s
/-- MONITOR_WAKE (R296, R297): also of parked parts and of saved units. -/
def execMonitorWake (who : Agent) (s : State) : Host.Outcome State Fault Refusal :=
  .next (if wakeable s who then awake who s else s)

/-! ### Barriers -/

/-- Every lane of a group has arrived: marked, or of an exited part (R294). -/
def groupArrived (x : BarState) (g : Nat × Group) : Bool :=
  g.2.exited || (lowMask g.2.w &&& ~~~(Cells.get 0 g.1 x.marks ||| g.2.gone)) == 0
/-- The groups of teams. -/
def groupsOf (s : State) (ts : List (Nat × Team)) : List (Nat × Group) :=
  s.groups.filter fun g => ts.any fun t => t.1 == g.2.tid
/-- The groups that are members of a barrier (R294). -/
def barMembers (s : State) : Barrier → List (Nat × Group)
  | .team tid _ => teamGroups s tid
  | .cluster uid _ => groupsOf s (unitTeams s uid)
  | .grid c _ => groupsOf s (ctxTeams s c)
/-- A grid barrier has all its members only when every cluster of the launch has been placed (R289). -/
def barPlaced (s : State) : Barrier → Bool
  | .grid c _ => (match ctxOf? s c with
    | some k => decide (k.lr.teams ≤ k.unplaced * shapeSize k.lr.shape)
    | none => false)
  | _ => true
/-- Every member of a barrier is resident: none completes with part of its members saved (R295). -/
def barResident (s : State) : Barrier → Bool
  | .team tid _ => (match Cells.get? tid s.teams with
    | some t => unitResident s t.uid
    | none => false)
  | .cluster uid _ => unitResident s uid
  | .grid c _ => s.clus.all fun u => u.2.ctx != c || u.2.res == .resident
/-- The barrier's phase can complete: some lane is marked, and every member is there and has arrived. -/
def barComplete (s : State) (b : Barrier) : Bool :=
  let x := barOf s b
  !x.marks.isEmpty && barPlaced s b && barResident s b && (barMembers s b).all (groupArrived x)
/-- BARRIER_COMPLETE (R294): the phase advances and the marks clear in one step, and every waiter is ready. -/
def execBarrierComplete (b : Barrier) (s : State) : Host.Outcome State Fault Refusal :=
  .next (if barComplete s b then
      let ph := (barOf s b).phase
      let s := setBar b (fun x => { phase := x.phase + 1, marks := [] }) s
      let s := match b with
        | .grid _ _ => ([0, 1, 2, 3] : List Nat).foldl (fun s d => joinAll d s) s
        | _ => s
      wakeIf (fun _ w => w == .monitor (.barrier b ph)) s
    else s)

/-! ### Seats -/

/-- The parts of a core. -/
def coreParts (s : State) (core : Nat) : List (Nat × Part) :=
  s.parts.filter fun p => match partTeam s p.2 with
    | some t => t.core == core && unitResident s t.uid
    | none => false
/-- The least of a list by a key. -/
def leastBy (f : Nat × Part → Nat) : List (Nat × Part) → Option (Nat × Part)
  | [] => none
  | p :: r => match leastBy f r with
    | none => some p
    | some q => if f q < f p then some q else some p
/-- The head of the FIFO of parts that wait to be seated (R292). -/
def reseatHead (s : State) (core : Nat) : Option (Nat × Part) :=
  leastBy (fun p => p.2.thr.ready)
    ((coreParts s core).filter fun p => !p.2.seated && p.2.thr.wait == .none && p.2.thr.stop == .running)
/-- The part waits on a monitor. -/
def onMonitor (t : Thread) : Bool :=
  match t.wait with
  | .monitor _ => true
  | _ => false
/-- The part waits at a join. -/
def onJoin (t : Thread) : Bool :=
  match t.wait with
  | .join _ _ => true
  | _ => false
/-- The seated part that gives up its seat (R292): the longest in a monitor wait, else the longest at a join, else the ready
part that issued most recently and has issued at least 16 instructions since it was seated. A stopped part is not ready. -/
def reseatVictim (s : State) (core : Nat) : Option (Nat × Part) :=
  let seated := (coreParts s core).filter fun p => p.2.seated
  match leastBy (fun p => p.2.thr.since) (seated.filter fun p => onMonitor p.2.thr) with
  | some p => some p
  | none => match leastBy (fun p => p.2.thr.since) (seated.filter fun p => onJoin p.2.thr) with
    | some p => some p
    | none => leastBy (fun p => s.tick - p.2.last)
        (seated.filter fun p => p.2.thr.wait == .none && p.2.thr.stop == .running && decide (16 ≤ p.2.issued))
/-- A part gives up its seat: a ready one enters the FIFO behind those that are in it (R292). -/
def park (tick : Nat) (p : Part) : Part :=
  { p with seated := false, issued := 0, thr := if p.thr.wait = .none then { p.thr with ready := tick } else p.thr }
/-- A part takes a seat: one that is not blocked becomes ready with it (R290). -/
def sitPart (tick : Nat) (p : Part) : Part :=
  { p with seated := true, issued := 0, thr := if p.thr.wait = .none then { p.thr with ready := tick } else p.thr }
/-- RESEAT_EXCHANGE (R292): a free seat needs no exchange. -/
def execReseatExchange (core : Nat) (s : State) : Host.Outcome State Fault Refusal :=
  .next (match reseatHead s core with
    | none => s
    | some (pid, _) =>
      let sit := setPart pid (sitPart s.tick)
      if seatedOn s core < 64 then sit s
      else match reseatVictim s core with
        | some (v, _) =>
          countProf core ((agentCtx s (.part v)).getD 0) 12 1
            (sit (setPart v (park s.tick) s))
        | none => s)

/-! ### Pending records -/

/-- The records of a pending write, in turn (R366): what is left over, the state with the others written, and what the first
that is left met (`ok` where none is). -/
def driveRec (k : Context) (r : PendRec) : Nat → List DWord → State → List DWord × State × RingRes
  | 0, ws, s => (ws, s, .ok s)
  | n + 1, ws, s =>
    if ws.isEmpty then ([], s, .ok s)
    else match ringWrite k.part (coreDie r.core) k.lr.fring.toNat k.lr.frlog (ws.take 7) s with
      | .ok s => driveRec k r n (ws.drop 7) s
      | .full => (ws, s, .full)
      | .ask b => if r.asked.contains (b, some false) then (ws, s, .bad 0x07 0x02) else (ws, s, .ask b)
      | .bad c d => (ws, s, .bad c d)
/-- A pending record can go on: it is not at a full ring (R366). -/
def recordDue (s : State) (r : PendRec) : Bool :=
  match ctxOf? s r.ctx with
  | none => true
  | some k => match (driveRec k r 1 r.words s).2.2 with
    | .full => false
    | _ => true
/-- The KIND 6 record of a killed launch can go on. -/
def killDue (s : State) (k : KillPend) : Bool :=
  match ringWrite k.part 0 k.ring k.log k.words s with
  | .full => false
  | _ => true
/-- Change a pending record. -/
def setRec (id : Nat) (f : PendRec → PendRec) (s : State) : State :=
  { s with recs := s.recs.map fun r => if r.id == id then f r else r }
/-- The agents that a written record lets go on: its producer, and those of the core that waited to write (R366). -/
def ringWakes (s : State) (r : PendRec) (a : Agent) (w : Wait) : Bool :=
  w == .ring && agentCtx s a == some r.ctx && agentCore s a == r.core && !s.recs.any fun q => decide (q.who = a)
/-- An asynchronous record that waits for its page goes on (R366). -/
def execNoteRecord (id : Nat) (s : State) : State :=
  match s.notes.find? fun n => n.id == id with
  | some n => (match n.ctx with
    | some c => ctxWrite c n s
    | none => mlWrite n s)
  | none => s
/-- The KIND 6 record of a killed launch goes on (R366, R375). -/
def execKillRecord (id : Nat) (s : State) : State :=
  match s.kills.find? fun k => k.id == id with
  | some k => driveKill k s
  | none => execNoteRecord id s
/-- PENDING_RECORD_WRITE (R366). Engine operations whose failure waited for the record are settled after it (R188). -/
def execPendingRecordWrite (id : Nat) (s : State) : Host.Outcome State Fault Refusal :=
  .next (match s.recs.find? fun r => r.id == id with
    | none => execKillRecord id s
    | some r => match ctxOf? s r.ctx with
      | none => { s with recs := s.recs.filter fun q => q.id != id }
      | some k =>
        let d := driveRec k r (r.words.length / 7 + 1) r.words s
        let s := d.2.1
        match d.2.2 with
        | .ok _ =>
          let s := { s with recs := s.recs.filter fun q => q.id != id }
          retryFailed (wakeIf (ringWakes s r) s)
        | .full => setRec id (fun q => { q with words := d.1 }) s
        | .ask b =>
          let s := setRec id (fun q => { q with words := d.1 }) s
          if r.asked.contains (b, none) then s
          else askPage k.part b (coreDie r.core) (setRec id (fun q => { q with asked := noteAsk b q.asked }) s)
        | .bad _ _ => killCtx r.ctx 0x06 (noteRing k.part k.lr.fring.toNat k.lr.frlog s))

/-! ### Completion records -/

/-- What the store at DONE meets (R284), beside die 0 (DESIGN CHOICE, log entry 92). -/
def doneReach (s : State) (d : DonePend) : Reach :=
  if d.addr % 16 ≠ 0 then .bad 0x06 0x00
  else if region 0x80 ≤ d.addr then .bad 0x08 0x00
  else match reach s d.part 0 .deviceWrite d.addr 16 with
    | .ask b => if d.asked.contains (b, some false) then .bad 0x07 0x02 else .ask b
    | .missing x => .bad 0x07 x
    | r => r
/-- The 16 bytes of a completion record (R283). -/
def doneBytes (d : DonePend) : List Byte := toBytes 8 (d.status.toNat + d.detail.toNat * 2 ^ 8) ++ toBytes 8 d.tag.toNat
/-- The completion is over. -/
def dropDone (id : Nat) (s : State) : State := { s with dones := s.dones.filter fun d => d.id != id }
/-- DONE_WRITE (R283, R284): a release at system scope, then the interrupt where NOTIFY is set; where the store cannot be
performed, a record in the management log and the interrupt. -/
def execDoneWrite (id : Nat) (s : State) : Host.Outcome State Fault Refusal :=
  .next (match s.dones.find? fun d => d.id == id with
    | none => s
    | some d => match doneReach s d with
      | .phys s pa _ _ _ =>
        let s := dropDone id (homeWrite 0 pa (doneBytes d) (drainUpds (advanceClock 0 s)))
        if d.notify then send (.irq d.part) s else s
      | .ask b =>
        if d.asked.contains (b, none) then s
        else
          let s := { s with dones := s.dones.map fun x => if x.id == id then { x with asked := noteAsk b x.asked } else x }
          askPage d.part b 0 s
      | .bad c _ => send (.irq d.part)
          (dropDone id (mlRecord d.part (kind7 (BitVec.ofNat 8 c) d.status d.tag d.addr) (noteAt d.part d.addr s)))
      | _ => send (.irq d.part) (dropDone id (mlRecord d.part (kind7 0x08 d.status d.tag d.addr) s)))

/-! ### Page answers -/

/-- An answer to what was asked of a page. -/
def answered (b : Nat) (ok : Bool) (l : List (Nat × Option Bool)) : List (Nat × Option Bool) :=
  l.map fun q => if q = (b, none) then (b, some ok) else q
/-- The answer reaches everything of a partition that asked for the page (R337). -/
def tellAsked (p : BitVec 6) (b : Nat) (ok : Bool) (s : State) : State :=
  let mine (a : Agent) : Bool := match agentCtx s a with
    | some c => ctxPart s c == p
    | none => false
  let tell (t : Thread) : Thread :=
    if t.asked.contains (b, none) then
      { t with asked := answered b ok t.asked, wait := if t.wait = .pages then .none else t.wait, ready := s.tick }
    else t
  { s with
    parts := s.parts.map fun x => if mine (.part x.1) then (x.1, { x.2 with thr := tell x.2.thr }) else x
    seqs := s.seqs.map fun x =>
      if mine (.seq x.1) then
        (x.1, { x.2 with thr := tell x.2.thr, ops := x.2.ops.map fun o => { o with asked := answered b ok o.asked } })
      else x
    cmds := s.cmds.map fun m => if ctxPart s m.ctx = p then { m with asked := answered b ok m.asked } else m
    recs := s.recs.map fun r => if ctxPart s r.ctx = p then { r with asked := answered b ok r.asked } else r
    dones := s.dones.map fun d => if d.part = p then { d with asked := answered b ok d.asked } else d
    kills := s.kills.map fun k => if k.part = p then { k with asked := answered b ok k.asked } else k
    notes := s.notes.map fun n => if n.part = p then { n with asked := answered b ok n.asked } else n }
/-- A Host page with an entry becomes Device: its bytes, with their poison marks, are read from host memory into a fresh frame
(R337, R371); not while a RECLAIM of it is still writing them back (R337). -/
def admitHost (p : BitVec 6) (die b : Nat) (pg : Page) (s : State) : Option State :=
  match parOf? s p, allocFrame p die pg.size s with
  | some t, some (ph, s) =>
    if (Cells.get? b t.closing).isSome then none else
    let bytes := (memSlice t.hostMem b pg.size).map fun q : Nat × Byte => (ph + q.1, q.2)
    let marks := (t.hostPoison.filter fun q => decide (b ≤ q) && decide (q < b + pg.size)).map fun q => ph + (q - b)
    some (setPar p (fun t => { t with pages := Cells.insert b { pg with state := .device ph } t.pages })
      { s with mem := bytes.foldl (fun m q => Cells.put 0 q.1 q.2 m) s.mem, poison := s.poison ++ marks })
  | _, _ => none
/-- PRI_RESPONSE (R337): an answer to an outstanding request; success flips the page. -/
def execPriResponse (p : BitVec 6) (va : Nat) (ok : Bool) (s : State) : Host.Outcome State Fault Refusal :=
  .next (match s.pris.find? fun r => r.part == p && r.page == va with
    | none => s
    | some r =>
      let s := { s with pris := s.pris.erase r }
      match (parOf? s p).bind fun t => Cells.get? va t.pages with
      | some pg =>
        if ok ∧ pg.state = .host then
          (match admitHost p r.die va pg s with
           | some s => tellAsked p va true s
           | none => tellAsked p va false s)
        else tellAsked p va (decide (ok ∧ pg.state ≠ .host)) s
      | none => tellAsked p va false s)

/-! ### WEDGE -/

/-- An agent's wait that cannot end by itself and whose condition does not hold (R240, R306). -/
def stuck (s : State) (a : Agent) (t : Thread) : Bool :=
  t.stop == .running && (match t.wait with
    | .monitor m => !monitorReady s a m
    | .join _ _ => true
    | .staging => true
    | _ => false)
/-- An engine operation that can still make progress: a pass that is not eligible does not count, nor what waits behind it
(R306). -/
def opAlive (s : State) (sc : Nat) (q : SeqCtx) (o : EngOp) : Bool :=
  o.granted || eligible s sc q o || (o.plain && opReady q o)
/-- A part of a context watches memory. -/
def watching (s : State) (c : Nat) : Bool :=
  s.parts.any fun p => agentCtx s (.part p.1) == some c && (match p.2.thr.wait with
    | .monitor (.watch _ _ _) => true
    | _ => false)
/-- A barrier that parts of the context wait on can complete. -/
def barrierComing (s : State) (c : Nat) : Bool :=
  s.parts.any fun p => agentCtx s (.part p.1) == some c && (match p.2.thr.wait with
    | .monitor (.barrier b _) => barComplete s b
    | _ => false)
/-- An access that asked for a page has no answer yet. -/
def unanswered (l : List (Nat × Option Bool)) : Bool := l.any fun q => q.2.isNone
/-- An agent of the context waits for the answer to a page request (R306). -/
def asksPage (s : State) (c : Nat) : Bool :=
  (s.parts.any fun p => agentCtx s (.part p.1) == some c && unanswered p.2.thr.asked) ||
    (s.seqs.any fun q => q.2.ctx == c && unanswered q.2.thr.asked) || s.notes.any fun n => n.ctx == some c && unanswered n.asked
/-- Conditions 1 to 5 of R306; the completion of a barrier, too, is an action that releases waits. A sequencer context that a host
command is ending counts as a pending host operation (DEDUCED, log entry 51). -/
def ctxQuiet (s : State) (c : Nat) (k : Context) : Bool :=
  (s.parts.all fun p => agentCtx s (.part p.1) != some c || stuck s (.part p.1) p.2.thr) &&
    (s.seqs.all fun q => q.2.ctx != c || q.2.ended ||
      (!q.2.ending && q.2.thr.stop == .running && onMonitor q.2.thr && stuck s (.seq q.1) q.2.thr && !autoEnds s q.1 q.2)) &&
    (s.seqs.all fun q => q.2.ctx != c || !q.2.ops.any (opAlive s q.1 q.2)) &&
    (!s.cmds.any fun m => m.ctx == c) && !asksPage s c &&
    !barrierComing s c && !k.dbgStop && k.killed.isNone && (!s.recs.any fun r => r.ctx == c) && !(k.lr.extwake && watching s c) &&
    (!s.ctxs.any fun x => x.2.part == k.part && (tellerTeam s x.1).isSome) &&
    (!s.stores.any fun q => q.ctx == c)
/-- A context with a cluster resident. -/
def ctxResident (s : State) (c : Nat) : Bool := s.clus.any fun u => u.2.ctx == c && u.2.res == .resident
/-- The state that R306 calls blocked, apart from its 100 µs (DESIGN CHOICE, log entry 20). -/
def wedged (s : State) (c : Nat) (k : Context) : Bool :=
  ctxQuiet s c k &&
    (!watching s c || s.ctxs.all fun x => x.1 == c || x.2.part != k.part || !ctxResident s x.1 || ctxQuiet s x.1 x.2) &&
    decide (k.lr.teams ≤ k.unplaced * shapeSize k.lr.shape) &&
    (s.clus.all fun u => u.2.ctx != c || u.2.res == .resident)
/-- The order of R307: longest wait, then core, group slot, lowest lane. -/
def wedgeBefore (s : State) (x y : Nat × Part) : Bool :=
  let key (p : Nat × Part) : Nat × Nat × Nat × Nat :=
    (p.2.thr.since, agentCore s (.part p.1), ((Cells.get? p.2.gid s.groups).map Group.gslot).getD 0, lowLane p.2.own)
  let a := key x
  let b := key y
  decide (a.1 < b.1) || (a.1 == b.1 && (decide (a.2.1 < b.2.1) || (a.2.1 == b.2.1 &&
    (decide (a.2.2.1 < b.2.2.1) || (a.2.2.1 == b.2.2.1 && decide (a.2.2.2 < b.2.2.2))))))
/-- The first of a list of parts in the order of R307. -/
def wedgePart (s : State) : List (Nat × Part) → Option (Nat × Part)
  | [] => none
  | p :: r => match wedgePart s r with
    | none => some p
    | some q => if wedgeBefore s q p then some q else some p
/-- The sequencer context that has waited longest. -/
def wedgeSeq : List (Nat × SeqCtx) → Option (Nat × SeqCtx)
  | [] => none
  | p :: r => match wedgeSeq r with
    | none => some p
    | some q => if q.2.thr.since < p.2.thr.since then some q else some p
/-- The length of the instruction at which an agent waits, as its frame will hold it (R355). -/
def waitLen (s : State) (a : Agent) (t : Thread) : Nat :=
  match t.wait with
  | .join _ n => n
  | _ => match (fetchAt s (placeOf s a) t.pc).1 with
    | .instr n _ => n
    | .trap n _ => n
/-- WEDGE_DETECT (R306, R307): DETAIL 0x03 where a team's staging has stalled (R240), else 0x01. -/
def execWedgeDetect (ctx : Nat) (s : State) : Host.Outcome State Fault Refusal :=
  .next (match ctxOf? s ctx with
    | none => s
    | some k =>
      if wedged s ctx k then
        let ps := s.parts.filter fun p => agentCtx s (.part p.1) == some ctx
        let d : BitVec 8 := if ps.any fun p => p.2.thr.wait == .staging then 0x03 else 0x01
        match wedgePart s ps with
        | some (pid, p) => takeTrap (.part pid) (waitLen s (.part pid) p.thr) (Trap.plain cWEDGE d) (withdraw pid s)
        | none => match wedgeSeq (s.seqs.filter fun q => q.2.ctx == ctx && !q.2.ended) with
          | some (sc, q) => takeTrap (.seq sc) (waitLen s (.seq sc) q.thr) (Trap.plain cWEDGE 0x01) s
          | none => s
      else s)

end Sys2Proof.Machine
end

