-- ==== Sys2Proof/Machine/Pages.lean ====
section
/-!
DEFINITION. Memory commands (R331 to R333, R337, R341, R349, R409): each changes the device table in one step when it is
written, after the accesses accepted under the old translation. A frame that staged stores still go to stays until they have been
performed, and BUSY falls after that.
-/

namespace Sys2Proof.Machine

/-! ### Fields and checks -/

/-- Page size of a PGSZ code (R331). -/
def pgszBytes (v : DWord) : Nat :=
  match (v.extractLsb' 4 2).toNat with
  | 0 => 4096 | 1 => 65536 | _ => 2097152
/-- MCMD has a reserved bit set or PGSZ 3 (R332). -/
def mcmdMalformed (v : DWord) : Bool := v.extractLsb' 10 54 != 0 || v.extractLsb' 4 2 == 3
/-- The range of a memory command: address, length. -/
def mcmdRange (f : FnRegs) : Nat × Nat := (f.mva.toNat, f.mlen.toNat)
/-- The range is misaligned or empty (R331). -/
def mcmdMisaligned (f : FnRegs) (v : DWord) : Bool :=
  decide (f.mva.toNat % pgszBytes v ≠ 0) || decide (f.mlen.toNat = 0) || decide (f.mlen.toNat % pgszBytes v ≠ 0)
/-- The range lies within the ordinary region. -/
def inOrdinary (f : FnRegs) : Bool := decide (f.mva.toNat + f.mlen.toNat ≤ region 0x80)
/-- The range lies within the sequence region, below the table area (R329). -/
def inSequence (f : FnRegs) : Bool :=
  decide (region 0xC0 ≤ f.mva.toNat) && decide (f.mva.toNat + f.mlen.toNat ≤ region 0xD0)
/-- Pages of the device table that meet the range. -/
def rangePages (t : Partition) (f : FnRegs) : Cells Page :=
  t.pages.filter fun p : Nat × Page => decide (p.1 < f.mva.toNat + f.mlen.toNat) && decide (f.mva.toNat < p.1 + p.2.size)
/-- Pages that the range consists of. -/
def rangeCount (f : FnRegs) (v : DWord) : Nat := f.mlen.toNat / pgszBytes v
/-- Some page of the range is of another size (R332). -/
def otherSize (t : Partition) (f : FnRegs) (v : DWord) : Bool := (rangePages t f).any fun p => p.2.size != pgszBytes v
/-- Some page of the range has no entry (R332). -/
def someAbsent (t : Partition) (f : FnRegs) (v : DWord) : Bool := decide ((rangePages t f).length < rangeCount f v)
/-- Some page of the range is a SEQ page. -/
def someSeq (t : Partition) (f : FnRegs) : Bool := (rangePages t f).any fun p => p.2.kind == .seq
/-- Some page of the range is exported (R337). -/
def someExported (t : Partition) (f : FnRegs) : Bool :=
  t.exports.any fun e => decide (e.2.base < f.mva.toNat + f.mlen.toNat) && decide (f.mva.toNat < e.2.base + e.2.len)
/-- The first result code of a list of checks that applies; the codes are taken in their order (DEDUCED, log entry 27). -/
def firstResult : List (Bool × BitVec 8) → BitVec 8
  | [] => 0x00
  | (b, c) :: r => if b then c else firstResult r

/-! ### Common effects -/

/-- The accesses accepted under old translations are performed first (R333). -/
def drainPart (p : BitVec 6) (s : State) : State := drainStores (fun q => ctxPart s q.ctx == p) s
/-- Cached translations and lines of a range are dropped (R332, R333). -/
def invalidate (p : BitVec 6) (a n : Nat) (s : State) : State :=
  let mine (c : Nat) : Bool := ctxPart s c == p
  let line (ctx vline : Nat) : Bool := mine ctx && decide (vline * 128 < a + n) && decide (a < vline * 128 + 128)
  let entry (e : TlbEntry) : Bool := mine e.ctx && decide (e.page < a + n) && decide (a < e.page + e.size)
  { s with
    cores := (s.cores.map fun k => (k.1, { k.2 with
        l1 := k.2.l1.filter fun l => !line l.ctx l.vline, l1i := k.2.l1i.filter fun l => !line l.ctx l.vline })).filter fun k =>
      k.2 != Core.zero
    quads := (s.quads.map fun q => (q.1, { q.2 with tlb := q.2.tlb.filter fun e => !entry e })).filter fun q => q.2 != Quad.zero }
/-- Staged stores and atomics of the partition that have passed their checks and are not performed yet lie in a range (R237,
R333). -/
def stagedIn (s : State) (p : BitVec 6) (a n : Nat) : Bool :=
  s.teams.any fun t => ctxPart s t.2.ctx == p && !t.2.through && t.2.staged.any fun e =>
    decide (e.va < a + n) && decide (a < e.va + e.size)
/-- A frame's bytes, with their poison marks, go to the page's place in host memory (R337, R372). -/
def frameToHost (p : BitVec 6) (b ph n : Nat) (s : State) : State :=
  let out := (memSlice s.mem ph n).map fun q : Nat × Byte => (b + q.1, q.2)
  let marks := (s.poison.filter fun q => decide (ph ≤ q) && decide (q < ph + n)).map fun q => b + (q - ph)
  setPar p (fun t => { t with
    hostMem := out.foldl (fun m q => Cells.put 0 q.1 q.2 m) (memZero t.hostMem b n)
    hostPoison := (t.hostPoison.filter fun q => decide (q < b) || decide (b + n ≤ q)) ++ marks }) s
/-- The old frame of a page that is Device no more: where it is still to be written it stays until then, else it goes at once (R332,
R333, R337; DEDUCED, log entry 68). -/
def closeFrame (p : BitVec 6) (b ph n : Nat) (toHost : Bool) (s : State) : State :=
  if stagedIn s p b n then setPar p (fun t => { t with closing := Cells.insert b ⟨n, ph, toHost⟩ t.closing }) s
  else freeFrame ph (if toHost then frameToHost p b ph n s else s)
/-- The frames that commands have left behind go, once nothing is written to them any more. -/
def endClosing (p : BitVec 6) (s : State) : State :=
  match parOf? s p with
  | none => s
  | some t => t.closing.foldl (fun s c =>
      freeFrame c.2.phys (if c.2.toHost then frameToHost p c.1 c.2.phys c.2.size s else s))
      (setPar p (fun t => { t with closing := [] }) s)
/-- A page leaves the device table; its frame is zeroed and returned. -/
def dropPage (p : BitVec 6) (b : Nat) (pg : Page) (s : State) : State :=
  let s := setPar p (fun t => { t with pages := Cells.erase b t.pages }) s
  match pg.state with
  | .device ph => if pg.kind = .ordinary then closeFrame p b ph pg.size false s else s
  | _ => s
/-- A page takes another state or other rights. -/
def putPage (p : BitVec 6) (b : Nat) (pg : Page) (s : State) : State :=
  setPar p (fun t => { t with pages := Cells.insert b pg t.pages }) s

/-- A memory command (R331): ignored unless the VF takes it and BUSY is 0; its checks, then its effect; during a
checkpoint's copy it waits (R381). `ops` says which OP values the row is for. -/
def mcmd (ops : Nat → Bool) (p : BitVec 6) (val : BitVec 64) (checks : Partition → FnRegs → List (Bool × BitVec 8))
    (act : Partition → FnRegs → State → State) (s : State) : State :=
  if !ops (val.extractLsb' 0 4).toNat then s
  else if !vfOpen s p then unsupported p s
  else match parOf? s p with
    | none => s
    | some t =>
      if (fnOf s p).mbusy then s
      else if copying s p then
        setFn p (fun f => { f with mbusy := true }) { s with deferred := s.deferred ++ [.mcmd p val] }
      else
        let f := fnOf s p
        let r := firstResult (checks t f)
        let s := setFn p (fun f => { f with mcmd := lowField 10 val, mbusy := true, mresult := r }) s
        if r = 0x00 then act t f s else s
/-- The checks common to the commands on pages; SEQK counts for RESERVE alone (DESIGN CHOICE, log entry 105). -/
def pageChecks (f : FnRegs) (v : DWord) : List (Bool × BitVec 8) :=
  [(mcmdMalformed v, 0x01), (mcmdMisaligned f v, 0x02), (!inOrdinary f && !inSequence f, 0x03)]

/-! ### The commands -/

/-- RESERVE (R332). -/
def doReserve (p : BitVec 6) (val : DWord) (s : State) : State :=
  mcmd (fun o => o == 0) p val
    (fun t f => [(mcmdMalformed val, 0x01), (mcmdMisaligned f val, 0x02),
      (if val.getLsbD 9 then !inSequence f else !inOrdinary f, 0x03), (otherSize t f val, 0x04),
      (val.getLsbD 7 && val.getLsbD 8, 0x05), (!(rangePages t f).isEmpty, 0x08)])
    (fun _ f s =>
      let pg : Page := { size := pgszBytes val, rd := val.getLsbD 6, wr := val.getLsbD 7, ex := val.getLsbD 8,
                         kind := if val.getLsbD 9 then .seq else .ordinary, state := .touch }
      (List.range (rangeCount f val)).foldl (fun s i => putPage p (f.mva.toNat + i * pgszBytes val) pg s) s) s
/-- RESERVE as an operation (R331). -/
def execMcmdReserve (p : BitVec 6) (val : BitVec 64) (s : State) : Host.Outcome State Fault Refusal := .next (doReserve p val s)
/-- The range meets the window of a live sequence, whose pages only its SCU unmaps (R341). -/
def liveWindow (s : State) (p : BitVec 6) (f : FnRegs) : Bool :=
  s.sqs.any fun q => q.part == p && decide (q.win < f.mva.toNat + f.mlen.toNat) &&
    decide (f.mva.toNat < q.win + q.wmax * 2 ^ cfgEsz q.cfg)
/-- UNMAP (R332). Pages of a live sequence's window are refused with 0x05, as R341 refuses the other commands on SEQ pages (DEDUCED,
log entry 27). -/
def doUnmap (p : BitVec 6) (val : DWord) (s : State) : State :=
  mcmd (fun o => o == 1) p val
    (fun t f => pageChecks f val ++ [(otherSize t f val, 0x04), (liveWindow s p f, 0x05)])
    (fun t f s =>
      let s := invalidate p f.mva.toNat f.mlen.toNat (drainPart p s)
      (rangePages t f).foldl (fun s q => dropPage p q.1 q.2 s) s) s
/-- UNMAP as an operation (R331). -/
def execMcmdUnmap (p : BitVec 6) (val : BitVec 64) (s : State) : Host.Outcome State Fault Refusal := .next (doUnmap p val s)
/-- PROTECT (R332, R341). -/
def doProtect (p : BitVec 6) (val : DWord) (s : State) : State :=
  mcmd (fun o => o == 2) p val
    (fun t f => pageChecks f val ++
      [(otherSize t f val, 0x04), (someSeq t f || (val.getLsbD 7 && val.getLsbD 8), 0x05), (someAbsent t f val, 0x08)])
    (fun t f s =>
      let s := invalidate p f.mva.toNat f.mlen.toNat (drainPart p s)
      (rangePages t f).foldl (fun s q =>
        putPage p q.1 { q.2 with rd := val.getLsbD 6, wr := val.getLsbD 7, ex := val.getLsbD 8 } s) s) s
/-- PROTECT as an operation (R331). -/
def execMcmdProtect (p : BitVec 6) (val : BitVec 64) (s : State) : Host.Outcome State Fault Refusal := .next (doProtect p val s)
/-- Bytes of frames that ADMIT needs. -/
def admitBytes (t : Partition) (f : FnRegs) : Nat :=
  ((rangePages t f).map fun q => match q.2.state with
    | .device _ => 0
    | _ => q.2.size).sum
/-- One page of ADMIT (R332, R336, R337), beside die 0 (DESIGN CHOICE, log entry 92). -/
def admitPage (p : BitVec 6) (b : Nat) (pg : Page) (s : State) : State :=
  match pg.state with
  | .device _ => s
  | .host => (admitHost p 0 b pg s).getD s
  | .touch => match allocFrame p 0 pg.size s with
    | some (ph, s) => putPage p b { pg with state := .device ph } s
    | none => s
/-- ADMIT (R332, R341, R409). -/
def doAdmit (p : BitVec 6) (val : DWord) (s : State) : State :=
  mcmd (fun o => o == 3) p val
    (fun t f => pageChecks f val ++
      [(otherSize t f val, 0x04), (someSeq t f, 0x05), (decide (poolSize s p < poolUsed s p + admitBytes t f), 0x07),
       (someAbsent t f val, 0x08)])
    (fun t f s => (rangePages t f).foldl (fun s q => admitPage p q.1 q.2 s) s) s
/-- ADMIT as an operation (R331). -/
def execMcmdAdmit (p : BitVec 6) (val : BitVec 64) (s : State) : Host.Outcome State Fault Refusal := .next (doAdmit p val s)
/-- One page of RECLAIM (R337). -/
def reclaimPage (p : BitVec 6) (b : Nat) (pg : Page) (s : State) : State :=
  match pg.state with
  | .device ph => closeFrame p b ph pg.size true (putPage p b { pg with state := .host } s)
  | _ => s
/-- RECLAIM (R332, R337, R341). -/
def doReclaim (p : BitVec 6) (val : DWord) (s : State) : State :=
  mcmd (fun o => o == 4) p val
    (fun t f => pageChecks f val ++
      [(otherSize t f val, 0x04),
       (someSeq t f || someExported t f || (rangePages t f).any (fun q => q.2.state == .touch), 0x05),
       (someAbsent t f val, 0x08)])
    (fun t f s =>
      let s := invalidate p f.mva.toNat f.mlen.toNat (drainPart p s)
      (rangePages t f).foldl (fun s q => reclaimPage p q.1 q.2 s) s) s
/-- RECLAIM as an operation (R331). -/
def execMcmdReclaim (p : BitVec 6) (val : BitVec 64) (s : State) : Host.Outcome State Fault Refusal := .next (doReclaim p val s)
/-- INVAL (R332, R333). -/
def doInval (p : BitVec 6) (val : DWord) (s : State) : State :=
  mcmd (fun o => o == 5) p val (fun t f => pageChecks f val ++ [(otherSize t f val, 0x04)])
    (fun _ f s => invalidate p f.mva.toNat f.mlen.toNat (drainPart p s)) s
/-- INVAL as an operation (R331). -/
def execMcmdInval (p : BitVec 6) (val : BitVec 64) (s : State) : Host.Outcome State Fault Refusal := .next (doInval p val s)
/-- The peer that MPEER names, its partition and the export slot (R331). -/
def mpeerFields (f : FnRegs) : Nat × BitVec 6 × Nat :=
  ((f.mpeer.extractLsb' 0 9).toNat, f.mpeer.extractLsb' 9 6, (f.mpeer.extractLsb' 16 6).toNat)
/-- EXPORT (R332, R349). -/
def doExport (p : BitVec 6) (val : DWord) (s : State) : State :=
  mcmd (fun o => o == 6) p val
    (fun t f => pageChecks f val ++ [(otherSize t f val, 0x04), (!s.peers.contains (mpeerFields f).1, 0x06)])
    (fun _ f s =>
      let m := mpeerFields f
      let e : Export := { dev := m.1, part := m.2.1, base := f.mva.toNat, len := f.mlen.toNat, rd := val.getLsbD 6,
                          wr := val.getLsbD 7 }
      setPar p (fun t => { t with exports := Cells.insert m.2.2 e t.exports }) s) s
/-- EXPORT as an operation (R331). -/
def execMcmdExport (p : BitVec 6) (val : BitVec 64) (s : State) : Host.Outcome State Fault Refusal := .next (doExport p val s)
/-- IMPORT (R332, R349): it names no range. -/
def doImport (p : BitVec 6) (val : DWord) (s : State) : State :=
  mcmd (fun o => o == 7) p val
    (fun _ f => [(mcmdMalformed val, 0x01), (!s.peers.contains (mpeerFields f).1, 0x06)])
    (fun _ f s =>
      let m := mpeerFields f
      setPar p (fun t => { t with imports := Cells.insert m.1 m.2.1 t.imports }) s) s
/-- IMPORT as an operation (R331). -/
def execMcmdImport (p : BitVec 6) (val : BitVec 64) (s : State) : Host.Outcome State Fault Refusal := .next (doImport p val s)
/-- MCMD with OP 8 to 15 (R332). -/
def doRefusedOp (p : BitVec 6) (val : DWord) (s : State) : State :=
  mcmd (fun o => decide (8 ≤ o)) p val (fun _ _ => [(true, 0x01)]) (fun _ _ s => s) s
/-- A write of MCMD with a refused OP as an operation (R331). -/
def execMcmdRefusedOp (p : BitVec 6) (val : BitVec 64) (s : State) : Host.Outcome State Fault Refusal := .next (doRefusedOp p val s)
/-- A write of MCMD, by its OP (R332). -/
def doMcmd (p : BitVec 6) (val : DWord) (s : State) : State :=
  match (val.extractLsb' 0 4).toNat with
  | 0 => doReserve p val s
  | 1 => doUnmap p val s
  | 2 => doProtect p val s
  | 3 => doAdmit p val s
  | 4 => doReclaim p val s
  | 5 => doInval p val s
  | 6 => doExport p val s
  | 7 => doImport p val s
  | _ => doRefusedOp p val s
/-- Accesses that use an old translation of the range of the command in progress, or go to a frame that one has left behind, are not
performed yet (R333): staged stores. -/
def mcmdWaits (s : State) (p : BitVec 6) : Bool :=
  let f := fnOf s p
  let op := (f.mcmd.extractLsb' 0 4).toNat
  (f.mbusy && f.mresult == 0x00 && (op == 1 || op == 2 || op == 4 || op == 5) && stagedIn s p f.mva.toNat f.mlen.toNat) ||
    (match parOf? s p with
     | some t => t.closing.any fun c => stagedIn s p c.1 c.2.size
     | none => false)
/-- MCMD_COMPLETE (R333): nothing uses an old translation any more. -/
def execMcmdComplete (p : BitVec 6) (s : State) : Host.Outcome State Fault Refusal :=
  .next (if copying s p || mcmdWaits s p then s else setFn p (fun f => { f with mbusy := false }) (endClosing p s))

end Sys2Proof.Machine
end

