-- ==== Sys2Proof/Machine/Launch.lean ====
section
/-!
DEFINITION. Launches: the fetch of records (R280 to R282), admission and its checks (R283 to R285), placement (R286 to R289),
the state at entry (R31, R32, R60), and completion (R305).
-/

namespace Sys2Proof.Machine

/-! ### Reads made for a launch -/

/-- A byte of a partition as the VF reads it through ATS (R281): none where the translation is refused. Whether the host's table
has a page that the device table does not list is a free value (R334; DESIGN CHOICE, log entry 31). A poisoned byte is not used
(R372): its fetch counts as refused (DESIGN CHOICE, log entry 76). Nor does it come from a frame outside the pool (R339). -/
def hostByte (s : State) (p : BitVec 6) (t : Partition) (va : Nat) : Option Byte :=
  let own : Option Byte := if anyPoison va 1 t.hostPoison then none else some (memByte t.hostMem va)
  if region 0x80 ≤ va then none
  else match pageOf t va with
    | none => if Config.hostMaps s.tick va then own else none
    | some (b, pg) => match pg.state with
      | .device ph =>
        if !inPool s p ph pg.size || (poisonedAt s (ph + (va - b)) 1).isSome then none else some (memByte s.mem (ph + (va - b)))
      | .host => own
      | .touch => none
/-- n bytes of it. -/
def hostBytes (s : State) (p : BitVec 6) (t : Partition) (va n : Nat) : Option (List Byte) :=
  (List.range n).mapM fun i => hostByte s p t (va + i)
/-- Bytes that the device reads from global memory for a launch, piece by piece; none where a read faults (R283). -/
def launchGo (p : BitVec 6) : List (Nat × Nat) → State → Option (List Byte) × State
  | [], s => (some [], s)
  | (a, n) :: r, s =>
    let cons (d : List Byte) (s : State) : Option (List Byte) × State :=
      let x := launchGo p r s
      (x.1.map fun e => d ++ e, x.2)
    match reach s p 0 .read a n with
    | .phys s pa _ _ _ => if (poisonedAt s pa n).isSome then (none, s) else cons (memBytes s.mem pa n) s
    | .peer o => cons (memBytes s.peerMem o n) s
    | _ => (none, noteAt p a s)
/-- n bytes from an address. -/
def launchRead (p : BitVec 6) (va n : Nat) (s : State) : Option (List Byte) × State := launchGo p (pieces va n) s
/-- 64-bit words of bytes. -/
def bytesWords (n : Nat) (d : List Byte) : List DWord :=
  (List.range n).map fun i => BitVec.ofNat 64 (ofBytes ((d.drop (8 * i)).take 8))

/-! ### Fetch -/

/-- A partition takes part in launching: not leaving, and not held by a checkpoint or restore (R344, R378). -/
def launching (s : State) (p : BitVec 6) : Bool :=
  (match parOf? s p with
   | some t => t.leaving.isNone && t.tdi == .run
   | none => false) && !peerHeld s p
/-- The queue has a record to fetch (R281). -/
def fetchDue (s : State) (p : BitVec 6) (q : BitVec 2) : Bool :=
  let r := Cells.get LqRegs.zero q.toNat (fnOf s p).lq
  launching s p && r.en && r.cons != r.prod && (match parOf? s p with
    | some t => (Cells.get? q.toNat t.fetched).isNone
    | none => false)
/-- LAUNCH_FETCH (R281). -/
def execLaunchFetch (p : BitVec 6) (q : BitVec 2) (s : State) : Host.Outcome State Fault Refusal :=
  .next (match parOf? s p with
    | none => s
    | some t =>
      if fetchDue s p q then
        let r := Cells.get LqRegs.zero q.toNat (fnOf s p).lq
        let slot := r.base.toNat + 128 * (r.cons.toNat % 2 ^ r.log.toNat)
        let s := setFn p (fun f => { f with lq := Cells.put LqRegs.zero q.toNat { r with cons := r.cons + 1 } f.lq }) s
        match hostBytes s p t slot 128 with
        | some d =>
          let f : Fetched := { index := r.cons.toNat, words := bytesWords 16 d }
          setPar p (fun t => { t with fetched := Cells.insert q.toNat f t.fetched }) s
        | none =>
          send (.irq p) (mlRecord p (kind7 0x07 0x06 (BitVec.ofNat 64 (q.toNat + r.cons.toNat * 2 ^ 32)) slot) (noteAt p slot s))
      else s)

/-! ### The record -/

/-- A bit of the fifth word of a record (R282). -/
def flagAt (w : List DWord) (i : Nat) : Bool := (w.getD 4 0).getLsbD i
/-- A field of the fifth word. -/
def fieldAt (w : List DWord) (lo n : Nat) : Nat := (w.getD 4 0).toNat / 2 ^ lo % 2 ^ n
/-- The launch that a record describes (R282). Bit 0 of TVEC is written as 0 (R27). -/
def launchOf (w : List DWord) : Launch :=
  let a (i : Nat) : DWord := pc56 (w.getD i 0)
  { entry := a 0, dict := a 1, args := a 2, seqEntry := a 3
    w := 8 * 2 ^ fieldAt w 0 2, groups := fieldAt w 2 4 + 1, vregs := 64 + 32 * fieldAt w 6 3, shape := fieldAt w 9 3
    seqCtx := fieldAt w 12 4, tbars := fieldAt w 16 5, cbars := fieldAt w 21 4, gbars := fieldAt w 25 4, qos := fieldAt w 29 2
    det := flagAt w 31, coop := flagAt w 32, extwake := flagAt w 33, notify := flagAt w 34, after := flagAt w 35
    chits := fieldAt w 36 6 + 1, teams := (w.getD 5 0).toNat, boxq := (w.getD 6 0).toNat, tvec := a 7 &&& ~~~1#64
    place := a 8, order := a 9, nord := (w.getD 9 0).toNat / 2 ^ 56, done := a 10, fring := a 11
    frlog := (w.getD 11 0).toNat / 2 ^ 56, tag := w.getD 12 0 }
/-- The words of a record that offend, with their byte offsets (R282, R283). -/
def badWords (w : List DWord) : List (Bool × Nat) :=
  let l := launchOf w
  let n (i : Nat) : Nat := (w.getD i 0).toNat
  let high (i : Nat) : Bool := decide (2 ^ 56 ≤ n i)
  [(high 0 || decide (n 0 % 2 = 1), 0), (high 1 || decide (n 1 % 8 ≠ 0), 8), (high 2, 16), (high 3 || decide (n 3 % 2 = 1), 24),
   (decide (2 ^ 42 ≤ n 4) || decide (fieldAt w 6 3 = 7) || decide (4 < l.shape) || decide (8 < l.seqCtx) ||
      (decide (l.seqCtx = 0) != decide (l.seqEntry = 0)) || decide (16 < l.tbars) || decide (8 < l.cbars) || decide (8 < l.gbars), 32),
   (decide (l.teams = 0) || decide (2 ^ 32 < l.teams), 40), (decide (1024 < l.boxq), 48), (high 7, 56), (high 8, 64),
   (decide (16 < l.nord) || decide (0 < l.nord ∧ (l.det = false ∨ l.order = 0)), 72),
   (high 10 || decide (n 10 % 16 ≠ 0), 80), (decide (l.fring.toNat % 4096 ≠ 0) || decide (l.frlog < 6 ∨ 16 < l.frlog), 88),
   (decide (n 13 ≠ 0), 104), (decide (n 14 ≠ 0), 112), (decide (n 15 ≠ 0), 120)]

/-- Teams of a launch that a core holds at once, as R16 counts them. -/
def bankFits (l : Launch) (k : Nat) : Bool :=
  decide (k ≤ 4) && decide (k * l.groups ≤ 64) && decide (k * l.groups * l.vregs * l.w * 4 ≤ 524288)
/-- The geometry breaks R14 or R16 on every core, or the teams are no whole number of clusters (STATUS 0x02). -/
def geometryBad (l : Launch) : Bool :=
  decide (1024 < l.w * l.groups) || !bankFits l 1 || decide (l.teams % shapeSize l.shape ≠ 0)
/-- Clusters of a launch. -/
def clusterCount (l : Launch) : Nat := l.teams / shapeSize l.shape

/-! ### Room on cores -/

/-- The clusters that move together with one: all of a COOP launch, else itself (R300). -/
def unitOf (s : State) (uid : Nat) : List Nat :=
  match Cells.get? uid s.clus with
  | none => []
  | some u => match ctxOf? s u.ctx with
    | some k => if k.lr.coop then (s.clus.filter fun v => v.2.ctx == u.ctx).map Prod.fst else [uid]
    | none => [uid]
/-- The core on which a team of a resident cluster sits, or will sit once its cluster has been loaded. -/
def seatCore (s : State) (t : Team) : Option Nat :=
  match Cells.get? t.uid s.clus with
  | none => none
  | some u => match u.res with
    | .resident => some t.core
    | .loading => (ctxOf? s u.ctx).map fun k => rankCore k.lr.shape u.die u.qx u.qy t.rank
    | _ => none
/-- The teams that hold a core, but for those of clusters that leave. -/
def coreTeams (s : State) (out : List Nat) (core : Nat) : List (Nat × Team) :=
  s.teams.filter fun t => !t.2.exited && !out.contains t.2.uid && decide (seatCore s t.2 = some core)
/-- A core is being saved for another context (R286). -/
def savedElse (s : State) (c core : Nat) : Bool :=
  s.teams.any fun t => t.2.ctx != c && t.2.core == core && (match Cells.get? t.2.uid s.clus with
    | some u => u.res == .saving
    | none => false)
/-- What R286 asks of a core for one more team of a context: its partition's, no other context's, R16. -/
def coreOpen (s : State) (out : List Nat) (c : Nat) (k : Context) (core : Nat) : Bool :=
  let ts := coreTeams s out core
  (match parOf? s k.part with
   | some t => t.quads.contains (coreQuad core)
   | none => false) && (ts.all fun t => t.2.ctx == c) && !savedElse s c core && bankFits k.lr (ts.length + 1)
/-- A launch with sequencer contexts never stacks clusters on a quad (R286). -/
def quadOpen (s : State) (out : List Nat) (uid c : Nat) (k : Context) (quad : Nat) : Bool :=
  k.lr.seqCtx == 0 ||
    ((quadCores quad).all (fun core => (coreTeams s out core).all fun t => t.2.ctx != c || t.2.uid == uid) &&
     s.seqs.all fun q => q.1 / 8 != quad || q.2.ended || q.2.uid == uid || out.contains q.2.uid)
/-- Chits in use on a core. -/
def chitsUsed (ts : List (Nat × Team)) : DWord := ts.foldl (fun m t => m ||| chitRange t.2) 0
/-- The lowest run of n free chits (R286). -/
def chitRun (ts : List (Nat × Team)) (n : Nat) : Option Nat :=
  (List.range (65 - n)).find? fun lo => chitsUsed ts &&& BitVec.ofNat 64 ((2 ^ n - 1) * 2 ^ lo % 2 ^ 64) == 0
/-- A core takes a team that has not started. -/
def freshOk (s : State) (out : List Nat) (uid c : Nat) (k : Context) (core : Nat) : Bool :=
  coreOpen s out c k core && quadOpen s out uid c k (coreQuad core) && (chitRun (coreTeams s out core) k.lr.chits).isSome
/-- Group slots of teams. -/
def slotsOf (s : State) (ts : List (Nat × Team)) : List Nat :=
  (s.groups.filter fun g => ts.any fun t => t.1 == g.2.tid).map fun g => g.2.gslot
/-- The entries of a launch's image (R60). -/
def imageEntries (k : Context) : Cells DictEntry := k.image.map fun q : Nat × DWord => (q.1, (⟨q.2, false⟩ : DictEntry))
/-- The table that a core has, or will have, for the teams of a context that hold it: as it stands while one of them runs there,
else the one that the first of them brings (R59, R60). -/
def tableOf (s : State) (k : Context) (core : Nat) : List (Nat × Team) → Cells DictEntry
  | [] => imageEntries k
  | t :: r =>
    if (t :: r).any fun x => unitResident s x.2.uid then (coreOf s core).table.entries
    else match t.2.saved with
      | some d => d.entries
      | none => imageEntries k
/-- The table of a core for a context equals the one that a team was saved with (R59). -/
def tableMatches (s : State) (out : List Nat) (k : Context) (core : Nat) (t : Nat × Team) : Bool :=
  let ts := (coreTeams s out core).filter fun x => x.1 != t.1
  match t.2.saved with
  | some d => ts.isEmpty || tableOf s k core ts == d.entries
  | none => true
/-- Boxes in the vault of a core, with their slots, of the clusters that hold it and do not leave, but for one of them (R12). -/
def heldBoxes (s : State) (out : List Nat) (uid core : Nat) : List (Nat × Box) :=
  (s.clus.filter fun u => u.1 != uid && !out.contains u.1 && (u.2.res == .resident || u.2.res == .loading)).flatMap fun u =>
    match ctxOf? s u.2.ctx with
    | some c => (u.2.boxes.filter fun b => rankCore c.lr.shape u.2.die u.2.qx u.2.qy (b.1 / 1024) == core).map fun b => (b.1 % 1024, b.2)
    | none => []
/-- The vault of a core takes the boxes that a saved cluster holds under a rank: no two in one slot, 1,024 granules in all (R12;
DEDUCED, log entry 42). -/
def vaultOk (s : State) (out : List Nat) (uid r core : Nat) : Bool :=
  let held := heldBoxes s out uid core
  let mine : List (Nat × Box) := match Cells.get? uid s.clus with
    | some u => (u.boxes.filter fun b => b.1 / 1024 == r).map fun b => (b.1 % 1024, b.2)
    | none => []
  (mine.all fun b => held.all fun x => x.1 != b.1) &&
    decide (((held ++ mine).map fun b => b.2.charge).sum ≤ 1024)
/-- A core takes a saved team: its chits, group slots and box slots are free, and the table rule of R59 holds (DEDUCED,
log entry 42). -/
def againOk (s : State) (out : List Nat) (c : Nat) (k : Context) (core : Nat) (t : Nat × Team) : Bool :=
  let ts := coreTeams s out core
  coreOpen s out c k core && quadOpen s out t.2.uid c k (coreQuad core) && (chitsUsed ts &&& chitRange t.2 == 0) &&
    (!(slotsOf s [t]).any fun g => (slotsOf s ts).contains g) && (!ts.any fun x => x.2.tslot == t.2.tslot) && tableMatches s out k core t

/-! ### Where a cluster goes (R287, R288) -/

/-- Insert by rising count, keeping the order of equals. -/
def insertDie (d : Nat × Nat) : List (Nat × Nat) → List (Nat × Nat)
  | [] => [d]
  | e :: r => if d.2 < e.2 then d :: e :: r else e :: insertDie d r
/-- Cores of a die that hold a team. -/
def busyCores (s : State) (out : List Nat) (die : Nat) : Nat :=
  ((s.teams.filterMap fun t => if t.2.exited || out.contains t.2.uid then none else seatCore s t.2).eraseDups.filter
    fun k => k / 192 == die).length
/-- The order in which dies are tried (R288). -/
def dieOrder (s : State) (out : List Nat) (pref : Option Nat) : List Nat :=
  let rest := (List.range 4).filter fun d => decide (pref ≠ some d)
  pref.toList ++ ((rest.map fun d => (d, busyCores s out d)).foldl (fun l d => insertDie d l) []).map Prod.fst
/-- The first rectangle of a die, row by row, all of whose cores a cluster may use, rank by rank (R288). -/
def findRect (sh die : Nat) (ok : Nat → Nat → Bool) : Option (Nat × Nat × Nat) :=
  let w := (shapeDims sh).1 / 2
  let h := (shapeDims sh).2 / 2
  let spots := (List.range (7 - h)).flatMap fun qy => (List.range (9 - w)).map fun qx => (qx, qy)
  (spots.find? fun q => (List.range (shapeSize sh)).all fun r => ok r (rankCore sh die q.1 q.2 r)).map fun q => (die, q.1, q.2)
/-- Place a cluster (R288): die and upper-left quad. -/
def findPlace (s : State) (out : List Nat) (sh : Nat) (pref : Option Nat) (ok : Nat → Nat → Bool) : Option (Nat × Nat × Nat) :=
  if s.thermalStop then none else (dieOrder s out pref).findSome? fun d => findRect sh d ok
/-- The preferred die of a cluster by its first team index (R287). -/
def preferred (s : State) (k : Context) (first : Nat) : Option Nat :=
  if k.lr.place ≠ 0 then
    ((k.placeMap.filter fun e => decide (e.1 ≤ first)).getLast?.map Prod.snd).join
  else if 262144 ≤ first then none
  else ((parOf? s k.part).map fun t => Cells.get? (first / 64) t.touchMap).join
/-- The touch map records where a cluster without a preference was placed (R287). -/
def noteTouch (p : BitVec 6) (first die : Nat) (s : State) : State :=
  if 262144 ≤ first then s
  else setPar p (fun t =>
    if (Cells.get? (first / 64) t.touchMap).isSome then t else { t with touchMap := Cells.insert (first / 64) die t.touchMap }) s

/-! ### The state at entry -/

/-- Lane words of a group at entry (R31): v0 the lane, v1 the lane within the team. -/
def entryLanes (w grp : Nat) : Cells LaneWord :=
  let row (r base : Nat) : Cells LaneWord := (List.range w).filterMap fun l =>
    if base + l = 0 then none else some (r * 64 + l, ⟨BitVec.ofNat 32 (base + l), true, false⟩)
  row 0 0 ++ row 1 (grp * w)
/-- Four uniform registers at entry; 0 is not listed (R31, R32). -/
def entryRegs (v : List DWord) : Cells SReg :=
  (v.mapIdx fun i x => (i, (⟨x, true, false⟩ : SReg))).filter fun q => q.2 != SReg.zero
/-- A group enters (R31): with its one part, seated where the core has a seat. -/
def enterGroup (k : Context) (tid : Nat) (t : Team) (gslot grp : Nat) (s : State) : State :=
  let gid := s.nextId
  let pid := s.nextId + 1
  let g : Group :=
    { tid := tid, grp := grp, gslot := gslot, w := k.lr.w, vregs := k.lr.vregs, groups := k.lr.groups,
      lanes := entryLanes k.lr.w grp, masks := [], maskPoison := [], afl := 0, aen := 0, ovf := 0, takeq := [], gone := 0,
      exited := false }
  let regs := entryRegs [BitVec.ofNat 64 t.index, BitVec.ofNat 64 grp, k.lr.args, BitVec.ofNat 64 t.rank]
  let p : Part :=
    { gid := gid, thr := { Thread.fresh k.lr.entry regs with ready := s.tick }, own := lowMask k.lr.w, em := lowMask k.lr.w,
      wb := 0, wsp := 0, spc := 0, wstack := [], tstack := [], priv := false, unfenced := false, fenced := s.tick,
      pend := [], latch := none, seated := decide (seatedOn s t.core < 64), issued := 0, last := 0 }
  { s with groups := s.groups ++ [(gid, g)], parts := s.parts ++ [(pid, p)], nextId := s.nextId + 2 }
/-- The table of a core on which a team of a context starts: as it stands, or the launch's image (R59, R60). -/
def startTable (c : Nat) (k : Context) (core : Nat) (s : State) : State :=
  setCore core (fun r =>
    if r.tableCtx = some c then r
    else
      let es := imageEntries k
      { r with tableCtx := some c, table := { entries := es, ndef := dictNdef es, gen := 0 }, olds := [] }) s
/-- Counting starts anew when a unit is placed on a core (R391). -/
def clearProf (c core : Nat) (s : State) : State :=
  setCore core (fun r => { r with prof := r.prof.filter fun q => q.1 / 16 != c }) s
/-- A core prepared for a seated team. -/
def seatTable (c : Nat) (k : Context) (core : Nat) (s : State) : State := clearProf c core (startTable c k core s)
/-- What a new team of a context starts with in ordered ranges where it differs from memory: what bytes held before the team that
writes through changed them, since no team sees part of another's entries (R238, R240). -/
def startView (s : State) (c : Nat) : Cells (Option Byte) :=
  ((s.teams.find? fun t => t.2.ctx == c && t.2.through && !t.2.applied).map fun t => t.2.undo).getD []
/-- A team enters on a core: the lowest free run of chits (R286), a free team slot and free group slots (DESIGN CHOICE, log entry 32). -/
def enterTeam (c uid : Nat) (k : Context) (number rank core : Nat) (out : List Nat) (s : State) : State :=
  let ts := coreTeams s out core
  let used := slotsOf s ts
  let free := (List.range 64).filter fun g => !used.contains g
  let tslots := (List.range 4).filter fun i => !ts.any fun t => t.2.tslot == i
  let tid := s.nextId
  let t : Team :=
    { ctx := c, uid := uid, index := number * shapeSize k.lr.shape + rank, rank := rank, core := core, tslot := anyOf 2 tid tslots,
      chit0 := (chitRun ts k.lr.chits).getD 0, chitN := k.lr.chits, cls := [], tbars := [], chr := 0, cherr := 0, staged := [],
      view := startView s c, through := false, undo := [], saved := none, exited := false, applied := false }
  let s := { s with teams := s.teams ++ [(tid, t)], nextId := s.nextId + 1 }
  ((List.range k.lr.groups).foldl (fun (q : State × List Nat) i =>
    let g := anyOf 3 q.1.nextId q.2
    (enterGroup k tid t g i q.1, q.2.erase g)) (s, free)).1
/-- The key of a sequencer context while its unit is not resident: its quad's rank and its index. -/
def savedKey (uid qrank idx : Nat) : Nat := 4096 + uid * 32 + qrank * 8 + idx
/-- A sequencer context enters (R32) under a key; the queues and requests of its place are empty. -/
def enterSeq (c uid : Nat) (k : Context) (first qrank idx key : Nat) (s : State) : State :=
  let regs := entryRegs [BitVec.ofNat 64 idx, BitVec.ofNat 64 first, k.lr.args, BitVec.ofNat 64 qrank]
  let q : SeqCtx :=
    { ctx := c, uid := uid, thr := { Thread.fresh k.lr.seqEntry regs with ready := s.tick }, afl := 0, aen := 0, ovf := 0,
      acc := [], accPoison := [], ops := [], savedQueues := [], savedFifo := [], popped := [], ending := false, ended := false }
  { s with seqs := Cells.insert key q s.seqs }
/-- The places of a sequencer context on its quad hold nothing of an earlier one. -/
def clearSeqPlace (c quad idx : Nat) (s : State) : State :=
  setQuad quad (fun r =>
    { r with queues := r.queues.filter fun e => e.1 / 2 != idx
             fifo := r.fifo.filter fun e => !(e.ctx == c && e.target == idx) }) s
/-- A new cluster of a context at a rectangle: resident at once, or loading while the clusters `out` run on, so that it still waits
(R289, R300, R302). -/
def enterCluster (c : Nat) (k : Context) (at_ : Nat × Nat × Nat) (out : List Nat) (s : State) : State :=
  let uid := s.nextId
  let sh := k.lr.shape
  let now := out.isEmpty
  let u : Cluster :=
    { ctx := c, number := k.unplaced, die := at_.1, qx := at_.2.1, qy := at_.2.2, res := if now then .resident else .loading,
      waited := if now then 0 else k.waitedQ, held := 0, since := if now then s.tick else k.sinceQ, evicts := out, cbars := [], boxes := [], gens := [] }
  let first := k.unplaced * shapeSize sh
  let s := { s with clus := s.clus ++ [(uid, u)], nextId := s.nextId + 1 }
  let s := if (preferred s k first).isNone then noteTouch k.part first at_.1 s else s
  let s := (List.range (shapeSize sh)).foldl (fun s r =>
    let core := rankCore sh at_.1 at_.2.1 at_.2.2 r
    let s := enterTeam c uid k k.unplaced r core out s
    if now then seatTable c k core s else s) s
  let s := ((rectQuads sh at_.1 at_.2.1 at_.2.2).mapIdx fun i quad => (i, quad)).foldl (fun s q =>
    let firstIx := (s.teams.find? fun t => t.2.uid == uid && t.2.core == quadCore q.2).map fun t => t.2.index
    (List.range k.lr.seqCtx).foldl (fun s i =>
      if now then enterSeq c uid k (firstIx.getD 0) q.1 i (q.2 * 8 + i) (clearSeqPlace c q.2 i s)
      else enterSeq c uid k (firstIx.getD 0) q.1 i (savedKey uid q.1 i) s) s) s
  setCtx c (fun k => { k with unplaced := k.unplaced + 1, waitedQ := 0, sinceQ := s.tick }) s
/-- A cluster of a context has been placed and its teams have not started yet: the next one waits for it, so that teams are
dispatched in order (R289, R305). -/
def starting (s : State) (c : Nat) : Bool :=
  s.clus.any fun u => u.2.ctx == c && u.2.res != .resident && (unitTeams s u.1).any fun t => !t.2.exited && t.2.saved.isNone
/-- Where the next cluster of a context can go while some clusters leave. -/
def nextSpot (s : State) (out : List Nat) (c : Nat) (k : Context) : Option (Nat × Nat × Nat) :=
  if starting s c then none
  else findPlace s out k.lr.shape (preferred s k (k.unplaced * shapeSize k.lr.shape)) fun _ core => freshOk s out s.nextId c k core
/-- Place the next cluster of a context on free cores. -/
def placeNext (c : Nat) (s : State) : Option State :=
  match ctxOf? s c with
  | none => none
  | some k =>
    if k.unplaced < clusterCount k.lr then (nextSpot s [] c k).map fun at_ => enterCluster c k at_ [] s else none
/-- Place n clusters, or none of them (R289). -/
def placeAll (c : Nat) : Nat → State → Option State
  | 0, s => some s
  | n + 1, s => match placeNext c s with
    | none => none
    | some s => placeAll c n s
/-- The launch could be co-resident if no other context held a core (R285). -/
def couldFit (k : Context) (s : State) : Bool :=
  let bare := { s with
    thermalStop := false, clus := [], teams := [], groups := [], parts := [], seqs := [], ctxs := [(0, k)], mem := [] }
  decide (clusterCount k.lr ≤ 768) && (placeAll 0 (clusterCount k.lr) bare).isSome
/-- CLUSTER_PLACE (R288, R289): the next cluster of a launch that is not COOP. -/
def execClusterPlace (ctx : Nat) (s : State) : Host.Outcome State Fault Refusal :=
  .next (match ctxOf? s ctx with
    | none => s
    | some k =>
      if k.lr.coop || k.killed.isSome || peerHeld s k.part then s else (placeNext ctx s).getD s)

/-! ### Admission -/

/-- An entry of a placement map (R287): first team index, and a die or no preference. -/
def mapEntry (w : DWord) : Nat × Option Nat :=
  (w.toNat % 2 ^ 32, if w.getLsbD 34 then none else some (w.toNat / 2 ^ 32 % 4))
/-- A placement map is valid (R287). -/
def mapOk (ws : List DWord) : Bool :=
  let fs := ws.map fun w => w.toNat % 2 ^ 32
  (ws.all fun w => decide (w.toNat < 2 ^ 35)) && fs.headD 1 == 0 && (fs.zip (fs.drop 1)).all fun q => decide (q.1 < q.2)
/-- The outcome of a read made at admission: a value, or STATUS and DETAIL. -/
inductive AdmitRes (α : Type) where
  | ok (x : α) (s : State)
  | bad (status detail : BitVec 8) (s : State)
/-- The dictionary image of a launch (R55, R60, R283). -/
def readImage (p : BitVec 6) (l : Launch) (s : State) : AdmitRes (Cells DWord) :=
  if l.dict = 0 then .ok [] s
  else match launchRead p l.dict.toNat 1024 s with
    | (none, s) => .bad 0x06 0 s
    | (some d, s) =>
      let es := bytesWords 128 d
      match badEntry l 0 es with
      | some i => .bad 0x04 (BitVec.ofNat 8 i) s
      | none => .ok ((es.mapIdx fun i e => (i, storedEntry e)).filter fun q => q.2 != 0) s
/-- The placement map of a launch (R287); bits 63:16 of its header are ignored (DESIGN CHOICE, log entry 52). -/
def readMap (p : BitVec 6) (l : Launch) (s : State) : AdmitRes (List (Nat × Option Nat)) :=
  if l.place = 0 then .ok [] s
  else match launchRead p l.place.toNat 8 s with
    | (none, s) => .bad 0x06 0 s
    | (some h, s) =>
      let n := ofBytes (h.take 2)
      if n = 0 ∨ 4096 < n then .bad 0x01 64 s
      else match launchRead p (l.place.toNat + 8) (8 * n) s with
        | (none, s) => .bad 0x06 0 s
        | (some d, s) => if mapOk (bytesWords n d) then .ok ((bytesWords n d).map mapEntry) s else .bad 0x01 64 s
/-- The ordered ranges of a launch (R237, R282). -/
def readOrder (p : BitVec 6) (l : Launch) (s : State) : AdmitRes (List (Nat × Nat)) :=
  if l.nord = 0 then .ok [] s
  else match launchRead p l.order.toNat (16 * l.nord) s with
    | (none, s) => .bad 0x06 0 s
    | (some d, s) =>
      let w := bytesWords (2 * l.nord) d
      let rs := (List.range l.nord).map fun i => ((w.getD (2 * i) 0).toNat, (w.getD (2 * i + 1) 0).toNat)
      if rs.all fun r => decide (r.1 % 4096 = 0) && decide (r.1 < 2 ^ 56) && decide (0 < r.2) && decide (r.2 % 4096 = 0) then .ok rs s
      else .bad 0x01 72 s
/-- A context before any of its clusters is placed. -/
def newContext (p : BitVec 6) (q : BitVec 2) (index : Nat) (l : Launch) : Context :=
  { part := p, queue := q, index := index, lr := l, tvec := l.tvec, level := BitVec.ofNat 2 l.qos, serial := 0, unplaced := 0,
    exitedTeams := 0, tellerNext := 0, waitedQ := 0, sinceQ := 0, ordered := [], placeMap := [], image := [], gbars := [], killed := none,
    armed := false, dbgStop := false, steps := [] }
/-- The checks of a record and the reads of admission, in the order of R283. -/
def admission (p : BitVec 6) (q : BitVec 2) (f : Fetched) (s : State) : AdmitRes Context :=
  let l := launchOf f.words
  let k := newContext p q f.index l
  match (badWords f.words).find? Prod.fst with
  | some (_, off) => .bad 0x01 (BitVec.ofNat 8 off) s
  | none =>
    if 0 < l.gbars ∧ l.coop = false then .bad 0x05 0 s
    else if geometryBad l then .bad 0x02 0 s
    else if l.coop && !couldFit k s then .bad 0x03 0 s
    else match readImage p l s with
      | .bad a b s => .bad a b s
      | .ok im s => match readMap p l s with
        | .bad a b s => .bad a b s
        | .ok pm s => match readOrder p l s with
          | .bad a b s => .bad a b s
          | .ok ord s => .ok { k with image := im, placeMap := pm, ordered := ord } s
/-- The fetched record of a queue goes. -/
def dropFetched (p : BitVec 6) (q : BitVec 2) (s : State) : State :=
  setPar p (fun t => { t with fetched := Cells.erase q.toNat t.fetched }) s
/-- The previous launch of the queue has not completed (R282, R285). -/
def previousRuns (s : State) (p : BitVec 6) (q : BitVec 2) (index : Nat) : Bool :=
  s.ctxs.any fun k => k.2.part == p && k.2.queue == q && (k.2.index + 1) % 2 ^ 32 == index
/-- The context ids that are free. -/
def freeCtxIds (s : State) : List Nat := (List.range 256).filter fun c => (ctxOf? s c).isNone
/-- The context id of the next launch, if one is free: which one is left open (R285; DESIGN CHOICE, log entry 32). -/
def freeCtxId (s : State) : Option Nat := if freeCtxIds s = [] then none else some (anyOf 0 s.tick (freeCtxIds s))
/-- Bytes that a context reserves: its part area of 4 KiB for each part that is possible at once (R21), and its save area and
spilled-monitor area (R285; DESIGN CHOICE, log entry 18). -/
def areaOf (c : Nat) (l : Launch) : Nat := 4096 * (l.groups * l.w * min l.teams (Config.liveTeams l.teams)) + Config.areaBytes c
/-- A context exists from here on: its areas are reserved in the pool (R285). -/
def makeContext (c : Nat) (k : Context) (s : State) : State :=
  setPar k.part (fun t => { t with areaBytes := Cells.insert c (areaOf c k.lr) t.areaBytes })
    { s with ctxs := Cells.insert c { k with sinceQ := s.tick } s.ctxs }
/-- LAUNCH_ADMIT (R283, R285, R289). -/
def execLaunchAdmit (p : BitVec 6) (q : BitVec 2) (s : State) : Host.Outcome State Fault Refusal :=
  .next (match (parOf? s p).bind fun t => Cells.get? q.toNat t.fetched, freeCtxId s with
    | some f, some c =>
      if !launching s p || (flagAt f.words 35 && previousRuns s p q f.index) then s
      else match admission p q f s with
        | .bad st d s =>
          let r := recDone f.words
          startDone p r.1 st d r.2.2 r.2.1 (dropFetched p q s)
        | .ok k s' =>
          if poolSize s' p < poolUsed s' p + areaOf c k.lr then s
          else
            let s' := makeContext c k (dropFetched p q s')
            if k.lr.coop then (placeAll c (clusterCount k.lr) s').getD s else s'
    | _, _ => s)

/-! ### Completion -/

/-- Everything of a launch is done (R305). -/
def launchDone (s : State) (c : Nat) (k : Context) : Bool :=
  decide (k.unplaced = clusterCount k.lr) && decide (k.exitedTeams = k.lr.teams) && k.killed.isNone && !killWaits c s &&
    (s.seqs.all fun q => q.2.ctx != c || (q.2.ended && q.2.ops.isEmpty)) && (!s.cmds.any fun m => m.ctx == c) &&
    (!k.lr.det || decide (k.tellerNext = k.lr.teams))
/-- LAUNCH_COMPLETE (R305): a release of every write of the launch, then its resources go, and DONE is written. -/
def execLaunchComplete (ctx : Nat) (s : State) : Host.Outcome State Fault Refusal :=
  .next (match ctxOf? s ctx with
    | none => s
    | some k =>
      if launchDone s ctx k then
        let s := drainUpds (drainStores (fun q => q.ctx == ctx) s)
        startDone k.part k.lr.done.toNat 0x00 0 k.lr.tag k.lr.notify (freeCtx ctx s)
      else s)

end Sys2Proof.Machine
end

