-- ==== Sys2Proof/Machine/Units.lean ====
section
/-!
DEFINITION. Units of residence: the choice of victims at a quantum boundary (R300, R301), the swap and the save (R59, R135,
R235, R262, R279, R302, R303), and the thermal stop (R4, R376).
-/

namespace Sys2Proof.Machine

/-! ### Who waits, who may leave -/

/-- A unit that waits: the quanta it has waited and since which step, its context, its clusters (none of them for the next cluster of
a launch). -/
structure Waiter where
  waited : Nat
  since : Nat
  ctx : Nat
  uids : List Nat
  deriving DecidableEq, Repr
/-- A resident unit: its priority, the quanta it has been resident and since which step, its clusters. -/
structure Holder where
  prio : Nat
  held : Nat
  since : Nat
  uids : List Nat
  deriving DecidableEq, Repr

/-- The contexts of a partition that are not being killed. -/
def liveCtxs (s : State) (p : BitVec 6) : List (Nat × Context) := s.ctxs.filter fun k => k.2.part == p && k.2.killed.isNone
/-- The clusters of a context. -/
def ctxClusters (s : State) (c : Nat) : List (Nat × Cluster) := s.clus.filter fun u => u.2.ctx == c
/-- The first step at which a cluster of a unit began to wait or to be resident. -/
def unitSince (us : List (Nat × Cluster)) : Nat := ((us.map fun u => u.2.since).min?).getD 0
/-- The waiting units of a context (R300). -/
def ctxWaiters (s : State) (c : Nat) (k : Context) : List Waiter :=
  let us := ctxClusters s c
  if k.lr.coop then
    (if !us.isEmpty && us.all (fun u => u.2.res == .saved) then [⟨(us.map fun u => u.2.waited).foldl max 0, unitSince us, c, us.map Prod.fst⟩] else [])
  else
    ((us.filter fun u => u.2.res == .saved).map fun u => ⟨u.2.waited, u.2.since, c, [u.1]⟩) ++
      (if k.unplaced < clusterCount k.lr then [⟨k.waitedQ, k.sinceQ, c, []⟩] else [])
/-- One unit has waited longer than another (R300). -/
def waitsLonger (x y : Waiter) : Bool := decide (y.waited < x.waited) || (x.waited == y.waited && decide (x.since < y.since))
/-- Insert by falling length of the wait, keeping the order of equals. -/
def insertWaiter (w : Waiter) : List Waiter → List Waiter
  | [] => [w]
  | x :: r => if waitsLonger w x then w :: x :: r else x :: insertWaiter w r
/-- The waiting units of a partition, longest wait first (R300). -/
def waitingUnits (s : State) (p : BitVec 6) : List Waiter :=
  ((liveCtxs s p).flatMap fun k => ctxWaiters s k.1 k.2).foldl (fun l w => insertWaiter w l) []
/-- A cluster will leave at a swap that is under way. -/
def leavingSoon (s : State) (uid : Nat) : Bool := s.clus.any fun u => u.2.res == .loading && u.2.evicts.contains uid
/-- The resident units of a context that may be chosen as victims. -/
def ctxHolders (s : State) (c : Nat) (k : Context) : List Holder :=
  let us := ctxClusters s c
  let prio := min 3 k.lr.qos
  if k.lr.coop then
    (if !us.isEmpty && us.all (fun u => u.2.res == .resident && !leavingSoon s u.1) then
      [⟨prio, (us.map fun u => u.2.held).foldl max 0, unitSince us, us.map Prod.fst⟩] else [])
  else (us.filter fun u => u.2.res == .resident && !leavingSoon s u.1).map fun u => ⟨prio, u.2.held, u.2.since, [u.1]⟩
/-- One victim is chosen before another (R300): lower priority, then longer residence. -/
def holderBefore (x y : Holder) : Bool :=
  decide (x.prio < y.prio) || (x.prio == y.prio && (decide (y.held < x.held) || (x.held == y.held && decide (x.since < y.since))))
/-- Insert in the order of choice. -/
def insertHolder (h : Holder) : List Holder → List Holder
  | [] => [h]
  | x :: r => if holderBefore h x then h :: x :: r else x :: insertHolder h r
/-- The units that a waiting one with priority e may displace (R300): resident for at least a quantum, of no higher priority. -/
def victims (s : State) (p : BitVec 6) (e : Nat) : List Holder :=
  (((liveCtxs s p).flatMap fun k => ctxHolders s k.1 k.2).filter fun h => decide (1 ≤ h.held) && decide (h.prio ≤ e)).foldl
    (fun l h => insertHolder h l) []

/-! ### Making room -/

/-- A rank's core takes a saved cluster (R286). -/
def rankOk (s : State) (out : List Nat) (uid c : Nat) (k : Context) (r core : Nat) : Bool :=
  match s.teams.find? fun t => t.2.uid == uid && t.2.rank == r && !t.2.exited with
  | some t => againOk s out c k core t && vaultOk s out uid r core
  | none => coreOpen s out c k core && quadOpen s out uid c k (coreQuad core) && vaultOk s out uid r core
/-- Load a saved cluster at a rectangle while the clusters `out` run on (R302). -/
def loadAt (uid : Nat) (at_ : Nat × Nat × Nat) (out : List Nat) (s : State) : State :=
  setCluster uid (fun u => { u with die := at_.1, qx := at_.2.1, qy := at_.2.2, res := .loading, evicts := out }) s
/-- Load saved clusters, all or none. -/
def loadAll (c : Nat) (out : List Nat) : List Nat → State → Option State
  | [], s => some s
  | uid :: r, s => match ctxOf? s c, Cells.get? uid s.clus with
    | some k, some u =>
      (match findPlace s out k.lr.shape (preferred s k (u.number * shapeSize k.lr.shape)) (rankOk s out uid c k) with
       | some at_ => loadAll c out r (loadAt uid at_ out s)
       | none => none)
    | _, _ => none
/-- A waiting unit begins to come in where `out` gives it room. -/
def bringIn (w : Waiter) (out : List Nat) (s : State) : Option State :=
  match ctxOf? s w.ctx with
  | none => none
  | some k =>
    if w.uids.isEmpty then (nextSpot s out w.ctx k).map fun at_ => enterCluster w.ctx k at_ out s
    else loadAll w.ctx out w.uids s
/-- The victims of a list, taken together until they give room (DEDUCED, log entry 28). -/
def bringOver (w : Waiter) (out : List Nat) : List Holder → State → Option State
  | [], _ => none
  | h :: r, s => match bringIn w (out ++ h.uids) s with
    | some s => some s
    | none => bringOver w (out ++ h.uids) r s
/-- Serve a waiting unit at a quantum boundary (R300): free room, else one victim that gives room, else several. -/
def serve (p : BitVec 6) (w : Waiter) (s : State) : State :=
  match bringIn w [] s with
  | some s => s
  | none =>
    let ceil := ((ctxOf? s w.ctx).map fun k => k.lr.qos).getD 0
    let vs := victims s p (min 3 (ceil + w.waited / 4))
    match vs.findSome? fun h => bringIn w h.uids s with
    | some s => s
    | none => (bringOver w [] vs s).getD s
/-- Another quantum has passed: every unit that is not resident has waited it, also while it is being saved or loaded (R300). -/
def passQuantum (p : BitVec 6) (s : State) : State :=
  let mine (c : Nat) : Bool := ctxPart s c == p
  { s with
    clus := s.clus.map fun u =>
      if mine u.2.ctx then (u.1, { u.2 with waited := if u.2.res = .resident then u.2.waited else u.2.waited + 1
                                            held := if u.2.res = .resident then u.2.held + 1 else u.2.held }) else u
    ctxs := s.ctxs.map fun k =>
      if k.2.part = p ∧ k.2.unplaced < clusterCount k.2.lr then (k.1, { k.2 with waitedQ := k.2.waitedQ + 1 }) else k }
/-- QUANTUM_BOUNDARY (R300): no unit is placed during a thermal stop or a checkpoint, but units wait on (R376, R378). -/
def execQuantumBoundary (p : BitVec 6) (s : State) : Host.Outcome State Fault Refusal :=
  .next (passQuantum p (if s.thermalStop || !launching s p then s else (waitingUnits s p).foldl (fun s w => serve p w s) s))

/-! ### Going out -/

/-- An agent is called by another name in everything that names it. -/
def renameAgent (a b : Agent) (s : State) : State :=
  let n (x : Agent) : Agent := if x = a then b else x
  { s with
    agent := n s.agent
    lands := s.lands.map fun l =>
      { l with who := n l.who
               dest := match l.dest with
                 | .sreg x r v => .sreg (n x) r v
                 | .fromLane x r g k => .fromLane (n x) r g k
                 | d => d }
    stores := s.stores.map fun q => { q with who := n q.who }
    recs := s.recs.map fun r => { r with who := n r.who }
    ctxs := s.ctxs.map fun k => (k.1, { k.2 with steps := k.2.steps.map n }) }
/-- The core under which an agent's pending record stands. -/
def moveRecs (a : Agent) (core : Nat) (s : State) : State :=
  { s with recs := s.recs.map fun r => if r.who = a then { r with core := core } else r }
/-- The quads of a cluster's rectangle, by quad rank. -/
def clusterQuads (s : State) (u : Cluster) : List Nat :=
  match ctxOf? s u.ctx with
  | some k => rectQuads k.lr.shape u.die u.qx u.qy
  | none => []
/-- A granted pass takes some of its steps before its context leaves its quad: how many is left open (R135; DESIGN CHOICE, log entry
32). One whose last step is applied is done. -/
def stepPass (sc n : Nat) (s : State) : State :=
  if (quadOf s (sc / 8)).busy = some sc then
    let s := runSteps sc n s
    match grantedOp s sc with
    | some (_, o) => (match o.kind with
      | .pass dense shape _ _ => if passSteps dense shape ≤ o.pos then passDone sc s else s
      | _ => s)
    | none => settleOps sc s
  else s
/-- A granted pass stops at its step boundary and leaves the engine (R135). -/
def cutPass (sc : Nat) (s : State) : State :=
  if (quadOf s (sc / 8)).busy = some sc then
    match grantedOp s sc with
    | some (_, o) => setOp sc o.id (fun e => { e with cut := true }) (setQuad (sc / 8) (fun k => { k with busy := none }) s)
    | none => s
  else s
/-- The operations of a leaving sequencer context that are no passes and need wait for nothing complete before the save (R207). -/
def completeOps (sc : Nat) (s : State) : State :=
  (((Cells.get? sc s.seqs).map fun q => q.ops.map EngOp.id).getD []).foldl (fun s id => match Cells.get? sc s.seqs with
    | none => s
    | some q => match q.ops.find? fun o => o.id == id && opDue q o with
      | some o => driveOp sc q o s
      | none => s) s
/-- A sequencer context leaves its quad (R135, R196, R207): a granted pass stops at its step boundary, an ungranted one will be posted
again, its queues and requests go with it. -/
def outSeq (uid qrank quad idx : Nat) (s : State) : State :=
  let sc := quad * 8 + idx
  match Cells.get? sc s.seqs with
  | none => s
  | some q =>
    if q.uid ≠ uid then s
    else
      let s := cutPass sc s
      let key := savedKey uid qrank idx
      let k := quadOf s quad
      let mine (e : FifoEntry) : Bool := e.ctx == q.ctx && e.target == idx
      let keep : SeqCtx → SeqCtx := fun x =>
        { x with
          savedQueues := (k.queues.filter fun e => e.1 / 2 == idx).map fun e : Nat × List OQEntry => (e.1 % 2, e.2)
          savedFifo := k.fifo.filter mine
          ops := x.ops.map fun o => { o with age := 0, elig := none, asked := [] } }
      let s := setSeq sc keep s
      let s := match Cells.get? sc s.seqs with
        | some x => { s with seqs := Cells.insert key x (Cells.erase sc s.seqs) }
        | none => s
      let s := setQuad quad (fun k =>
        { k with queues := k.queues.filter (fun e => e.1 / 2 != idx), fifo := k.fifo.filter fun e => !mine e }) s
      moveRecs (.seq key) (768 + key / 8) (renameAgent (.seq sc) (.seq key) s)
/-- A wait whose request is withdrawn, or that names a quad: its instruction runs again after the restore (R196, R279). -/
def reissues : Wait → Bool
  | .monitor (.seqLen _ _) => true
  | .monitor (.seqGrant _) => true
  | .monitor (.seqSegment _) => true
  | .monitor (.fifoRoom _ _) => true
  | _ => false
/-- Withdraw the queued requests of parts (R279, R303). -/
def withdrawAll (pids : List Nat) (s : State) : State :=
  let mine (r : SqReq) : Bool := match r with
    | .res q _ => pids.contains q
    | .waitFor q _ => pids.contains q
    | .fork q => pids.contains q
  { s with
    sqs := s.sqs.map fun q => { q with queue := q.queue.filter fun r => !mine r }
    parts := s.parts.map fun p =>
      if pids.contains p.1 && reissues p.2.thr.wait then (p.1, { p.2 with thr := { p.2.thr with wait := .none, ready := s.tick } })
      else p }
/-- The parts of a cluster. -/
def unitParts (s : State) (uid : Nat) : List Nat :=
  (s.parts.filter fun p => (partTeam s p.2).map Team.uid == some uid).map Prod.fst
/-- Every command of a cluster that can run takes its next step (R262). -/
def driveUnit (uid : Nat) (s : State) : State :=
  let mine (m : Cmd) : Bool := match Cells.get? m.tid s.teams with
    | some t => t.uid == uid
    | none => false
  ((s.cmds.filter mine).map Cmd.ticket).foldl (fun s k => match s.cmds.find? fun m => m.ticket == k with
    | some m => if cmdRuns s m then markEligible (coreQuad m.core) (driveCmd m s) else s
    | none => s) s
/-- The sequencer contexts of a cluster on its quads. -/
def unitSeqs (s : State) (uid : Nat) : List Nat := (s.seqs.filter fun q => q.2.uid == uid && decide (q.1 < 4096)).map Prod.fst
/-- The queued `msig` and `mrel` of a cluster whose turn has come are performed, in order (R205, R206). -/
def signalUnit (uid : Nat) (s : State) : State := (unitSeqs s uid).foldl (fun s sc => settleOps sc s) s
/-- A cluster's residence changes. -/
def setRes (uid : Nat) (r : Residence) (s : State) : State := setCluster uid (fun u => { u with res := r }) s
/-- What must be done before a cluster leaves its cores goes on: its commands, some steps of its granted passes, and the engine
operations whose turn has come. Its queued `msig` and `mrel` are saved (R135, R207, R262). -/
def settleUnit (uid : Nat) (s : State) : State :=
  if unitResident s uid then
    setRes uid .resident ((unitSeqs s uid).foldl
      (fun s sc => completeOps sc (stepPass sc (Config.choice 6 (s.tick + sc) % 3) s)) (setRes uid .saving (driveUnit uid s)))
  else s
/-- The commands of a cluster that wait for no page. -/
def pageless (s : State) (uid : Nat) : List Cmd :=
  s.cmds.filter fun m => !unanswered m.asked && (match Cells.get? m.tid s.teams with
    | some t => t.uid == uid
    | none => false)
/-- A cluster does not leave its cores yet: a `mstore` waits for a page, or a `cpyq` for room in a queue of the engine, and each
completes before the save (R207, R262; DEDUCED, log entry 43). -/
def unitHeld (s : State) (uid : Nat) : Bool :=
  (s.seqs.any fun q => q.2.uid == uid && q.2.ops.any fun o => o.failed.isNone && unanswered o.asked) ||
    (pageless s uid).any fun m => pushes m && m.failed.isNone
/-- A cluster that nothing holds leaves its cores at instruction boundaries (R302, step 2): its state is in the shadow banks, and each team keeps
its core's table (R59). -/
def swapOut (uid : Nat) (s : State) : State :=
  match Cells.get? uid s.clus with
  | none => s
  | some u =>
    if u.res ≠ .resident then s
    else
      let s := ((clusterQuads s u).mapIdx fun i quad => (i, quad)).foldl (fun s q =>
        (List.range 8).foldl (fun s i => outSeq uid q.1 q.2 i s) s) s
      let s := withdrawAll (unitParts s uid) s
      let s := { s with teams := s.teams.map fun t =>
        if t.2.uid = uid then (t.1, { t.2 with saved := if t.2.exited then none else some (coreOf s t.2.core).table }) else t }
      let s := setCluster uid (fun u => { u with res := .saving, waited := 0, held := 0, since := s.tick, evicts := [] }) s
      (unitTeams s uid).foldl (fun s t => dropTable t.2.core u.ctx s) s
/-- A cluster leaves its cores, once nothing holds it there; until then it runs on. -/
def leaveUnit (uid : Nat) (s : State) : State :=
  let s := settleUnit uid s
  if unitHeld s uid then signalUnit uid s else swapOut uid s

/-! ### Coming in -/

/-- The table of a core on which a saved team is seated again (R59). The context's counters there start at 0 with the unit, also on the
core of a team that has exited (R391). -/
def againTable (c : Nat) (k : Context) (core : Nat) (t : Team) (s : State) : State :=
  match t.saved with
  | some d => clearProf c core (setCore core (fun r => if r.tableCtx = some c then r else { r with tableCtx := some c, table := d, olds := [] }) s)
  | none => if t.exited then clearProf c core s else seatTable c k core s
/-- A team that a swap starts, rather than starts again, begins with the view of that moment (R238, R302). -/
def startTeam (c tid : Nat) (t : Team) (s : State) : State :=
  if t.saved.isNone && !t.exited then setTeam tid (fun t => { t with view := startView s c }) s else s
/-- A team is seated on its new core, where its parts see what was performed before (R235); its GID.TSLOT is kept (R381). -/
def seatTeam (c : Nat) (k : Context) (u : Cluster) (tid : Nat) (s : State) : State :=
  match Cells.get? tid s.teams with
  | none => s
  | some t =>
    let core := rankCore k.lr.shape u.die u.qx u.qy t.rank
    let s := startTeam c tid t (againTable c k core t s)
    let s := setTeam tid (fun t => { t with core := core, saved := none }) s
    let moved (m : Cmd) : Cmd := if m.tid = tid then { m with core := core } else m
    let s := { s with cmds := s.cmds.map moved }
    let pids := (s.parts.filter fun p : Nat × Part => (partTeam s p.2).map Team.uid == some t.uid).map Prod.fst
    let s := pids.foldl (fun s pid =>
      if agentCore s (.part pid) = core then moveRecs (.part pid) core s else s) s
    discardL1 core c (joinAll (coreDie core) s)
/-- A sequencer context returns to its quad: its requests stand ahead of new ones (R135, R196). -/
def inSeq (uid qrank quad idx : Nat) (s : State) : State :=
  let key := savedKey uid qrank idx
  let sc := quad * 8 + idx
  match Cells.get? key s.seqs with
  | none => s
  | some q =>
    let back := q.savedQueues.map fun e : Nat × List OQEntry => (idx * 2 + e.1, e.2)
    let s := clearSeqPlace q.ctx quad idx s
    let s := setQuad quad (fun k =>
      { k with queues := back.foldl (fun m e => Cells.put [] e.1 e.2 m) k.queues, fifo := q.savedFifo ++ k.fifo
               busy := if k.busy = none ∧ q.ops.any (fun o => o.granted) = true then some sc else k.busy }) s
    let s := { s with seqs := Cells.insert sc { q with savedQueues := [], savedFifo := [] } (Cells.erase key s.seqs) }
    moveRecs (.seq sc) (768 + quad) (renameAgent (.seq key) (.seq sc) s)
/-- Lends of the cluster's boxes follow their quads. -/
def moveLends (uid : Nat) (pairs : List (Nat × Nat)) (s : State) : State :=
  let moved (q : Nat) : Nat := ((pairs.find? fun p => p.1 == q).map Prod.snd).getD q
  setCluster uid (fun u =>
    { u with boxes := u.boxes.map fun b : Nat × Box => (b.1, { b.2 with lends := b.2.lends.map fun l => { l with quad := moved l.quad } }) }) s
/-- The bound CLs of a team take the home's current CL before its first part is seated (R303); one whose sequence was dropped keeps
its value (R274). -/
def rebindCls (p : BitVec 6) (tid : Nat) (s : State) : State :=
  setTeam tid (fun t =>
    { t with cls := t.cls.map fun b : Nat × ClBind => match liveSq s p b.2.handle with
        | some q => if b.2.bound then (b.1, { b.2 with val := BitVec.ofNat 64 (max b.2.val.toNat q.cl), clock := q.clock }) else b
        | none => b }) s
/-- A part comes back from the save: its stream is fetched afresh (R58), an instruction that waited to be executed again is ready to
be, and one that held a seat becomes ready anew (R290, R292). -/
def freshPart (tick : Nat) (p : Part) : Part :=
  let again := decodesAgain p.thr.wait && p.thr.wait != .ring && p.thr.wait != .pages && (match p.thr.wait with
    | .monitor _ => false
    | _ => true)
  { p with
    seated := false, issued := 0, fenced := tick
    thr := { p.thr with
      ref := .free, wait := if again then .none else p.thr.wait
      ready := if again || (p.seated && p.thr.wait == .none) then tick else p.thr.ready } }
/-- Seat the parts of a cluster, in the order of their identifiers, while there are seats (R21, R292; DESIGN CHOICE, log entry 50). -/
def seatParts (pids : List Nat) (s : State) : State :=
  let s := { s with parts := s.parts.map fun p => if pids.contains p.1 then (p.1, freshPart s.tick p.2) else p }
  pids.foldl (fun s pid =>
    if seatedOn s (agentCore s (.part pid)) < 64 then setPart pid (sitPart s.tick) s else s) s
/-- A loaded cluster takes its cores (R302, steps 2 and 4), and its saved `msig` and `mrel` are performed (R207). -/
def swapIn (uid : Nat) (s : State) : State :=
  match Cells.get? uid s.clus with
  | none => s
  | some u => match ctxOf? s u.ctx with
    | none => s
    | some k =>
      let teams := unitTeams s uid
      let newCore (r : Nat) : Option Nat := match teams.find? fun t => t.2.rank == r with
        | some t =>
          let c := rankCore k.lr.shape u.die u.qx u.qy r
          if t.2.core = c then none else some c
        | none => none
      let pairs := teams.map fun t =>
        (coreQuad t.2.core, coreQuad (rankCore k.lr.shape u.die u.qx u.qy t.2.rank))
      let s := moveLends uid pairs s
      let s := teams.foldl (fun s t => rebindCls k.part t.1 (seatTeam u.ctx k u t.1 s)) s
      let s := setCluster uid (fun u => { u with res := .resident, waited := 0, held := 0, since := s.tick, evicts := [] }) s
      let s := mergeGens u newCore s
      let s := ((clusterQuads s u).mapIdx fun i quad => (i, quad)).foldl (fun s q =>
        markEligible q.2 ((List.range 8).foldl (fun s i => inSeq uid q.1 q.2 i s) s)) s
      wakeStaging (seatParts (unitParts s uid) (signalUnit uid s))
/-- A loaded cluster still finds its cores' tables as R59 asks: a `dload` there may have changed one since. -/
def stillMatches (s : State) (out : List Nat) (uid : Nat) : Bool :=
  match Cells.get? uid s.clus with
  | none => false
  | some u => match ctxOf? s u.ctx with
    | none => false
    | some k => (unitTeams s uid).all fun t =>
        t.2.exited || tableMatches s out k (rankCore k.lr.shape u.die u.qx u.qy t.2.rank) t
/-- BANK_SWAP (R302): the units that leave go out, and those loaded for the same swap come in; first what holds the leaving ones
completes (R207, R262). Where a table has changed meanwhile, they wait for another place instead (R59). -/
def execBankSwap (unit : Nat) (s : State) : Host.Outcome State Fault Refusal :=
  .next (match Cells.get? unit s.clus with
    | none => s
    | some u =>
      if u.res ≠ .loading then s
      else
        let coming := (unitOf s unit).filter fun v => match Cells.get? v s.clus with
          | some x => x.res == .loading
          | none => false
        if coming.all (stillMatches s u.evicts) then
          let s := u.evicts.foldl (fun s v => settleUnit v s) s
          if u.evicts.any (unitHeld s) then u.evicts.foldl (fun s v => signalUnit v s) s
          else coming.foldl (fun s v => swapIn v s) (u.evicts.foldl (fun s v => swapOut v s) s)
        else coming.foldl (fun s v => setCluster v (fun x => { x with res := .saved, evicts := [] }) s) s)

/-! ### Saving -/

/-- The cores, sequencer cores and copy engines of a cluster. -/
def unitCores (s : State) (uid : Nat) : List Nat :=
  (unitTeams s uid).flatMap fun t => [t.2.core, 768 + coreQuad t.2.core]
/-- A landing belongs to a cluster. -/
def landsIn (s : State) (uid : Nat) (l : Landing) : Bool :=
  agentUnit s l.who == some uid || (match l.dest with
    | .lanes gid _ => (match (Cells.get? gid s.groups).bind (groupTeam s) with
      | some t => t.uid == uid
      | none => false)
    | _ => false)
/-- A pending kill takes effect once nothing of the context is being saved or copied (R375). -/
def settleKill (c : Nat) (s : State) : State :=
  match ctxOf? s c with
  | some k => (match k.killed with
    | some r => if killWaits c s then s else killNow c r s
    | none => s)
  | none => s
/-- A command of a cluster must complete before its save does: one that waits for no page, a failed one whose record has not been
written among them, but not an unmatched collective that a checkpoint abandons, nor any that a kill abandons (R262, R375, R378). -/
def saveWaits (s : State) (uid ctx : Nat) : Bool :=
  ((ctxOf? s ctx).map fun k => k.killed.isNone).getD false &&
    (pageless s uid).any fun m => m.failed.isSome || (!pushes m && !copying s (ctxPart s ctx))
/-- A command that waits for a page is abandoned, to be issued again in full after the restore: a `cpyq` then begins again with its first
tile (R262; DEDUCED, log entry 43). -/
def abandonCmd (m : Cmd) : Cmd :=
  if pushes m ∧ unanswered m.asked then { m with asked := [], pushed := 0, pos := 0 } else { m with asked := [] }
/-- A cluster's state is written to its save area once its commands have completed, but for those that wait for a page (R235, R262,
R302, step 3): its accesses are performed, its loads land, and the context's L1 lines on its cores go. -/
def saveUnit (uid : Nat) (s : State) : State :=
  match Cells.get? uid s.clus with
  | none => s
  | some u =>
    if u.res ≠ .saving then s
    else
      let mine (s : State) (m : Cmd) : Bool := match Cells.get? m.tid s.teams with
        | some t => t.uid == uid
        | none => false
      let s := driveUnit uid s
      if saveWaits s uid u.ctx then s
      else
        let s := { s with cmds := s.cmds.map fun m => if mine s m then abandonCmd m else m }
        let cores := unitCores s uid
        let s := drainUpds (drainStores (fun q => q.ctx == u.ctx && cores.contains q.core) s)
        let s := (s.lands.filter (landsIn s uid)).foldl (fun s l => land l s) s
        let s := cores.foldl (fun s core => setCore core (fun k =>
          { k with l1 := k.l1.filter fun l => l.ctx != u.ctx, l1i := k.l1i.filter fun l => l.ctx != u.ctx }) s) s
        wakeIf (fun a w => w == .issueLimit && cores.contains (agentCore s a))
          (settleKill u.ctx (setCluster uid (fun u => { u with res := .saved }) s))
/-- A resident unit of a context is to be saved: during a thermal stop, and while its partition is copied (R376, R378). -/
def stopping (s : State) (ctx : Nat) : Bool := s.thermalStop || copying s (ctxPart s ctx)
/-- UNIT_SAVED (R302): a unit that could not leave its cores at once when all were stopped leaves them first. -/
def execUnitSaved (unit : Nat) (s : State) : Host.Outcome State Fault Refusal :=
  .next (match Cells.get? unit s.clus with
    | some u => if u.res == .resident && stopping s u.ctx then leaveUnit unit s else saveUnit unit s
    | none => s)

/-! ### Thermal stop -/

/-- Every resident unit of the contexts that meet a condition goes out, or will once nothing holds it, and what was being loaded waits
again. -/
def stopUnits (f : Nat → Bool) (s : State) : State :=
  let s := (s.clus.filter fun u => f u.2.ctx && u.2.res == .resident).foldl (fun s u => leaveUnit u.1 s) s
  let back (u : Cluster) : Cluster :=
    if f u.ctx && u.res == .loading then { u with res := .saved, evicts := [] } else u
  { s with clus := s.clus.map fun u => (u.1, back u.2) }
/-- A note in the management log of every partition (R376). -/
def noteAll (s : State) : State := s.pars.foldl (fun s p => mlNote (BitVec.ofNat 6 p.1) s) s
/-- THERMAL_LIMIT (R4, R376): the clock falls by 100 MHz; at 1.8 GHz every unit is saved, none is placed, and the trip is reported to
the host. -/
def execThermalLimit (s : State) : Host.Outcome State Fault Refusal :=
  .next (if 1800 < s.clockMhz then { s with clockMhz := max 1800 (s.clockMhz - 100) }
    else if s.thermalStop then s
    else send .thermalTrip (noteAll (stopUnits (fun _ => true) { s with thermalStop := true })))
/-- THERMAL_RESUME (R376). -/
def execThermalResume (s : State) : Host.Outcome State Fault Refusal :=
  .next (if s.thermalStop then noteAll { s with thermalStop := false } else s)
/-- THERMAL_SAVE_TIMEOUT (R376): the context of a unit whose save has not completed is killed with reason 0x03, after a copy of its
partition that is under way (R375, R381). -/
def execThermalSaveTimeout (unit : Nat) (s : State) : Host.Outcome State Fault Refusal :=
  .next (match Cells.get? unit s.clus with
    | some u =>
      if s.thermalStop && (u.res == .saving || u.res == .resident) then
        (if copying s (ctxPart s u.ctx) then { s with deferred := s.deferred ++ [.kill (ctxPart s u.ctx) u.ctx 0x03] }
         else killNow u.ctx 0x03 s)
      else s
    | none => s)

end Sys2Proof.Machine
end

