-- ==== Sys2Proof/Machine/Recovery.lean ====
section
/-!
DEFINITION. Host commands on contexts (R368, R369): kill, resume of a stopped part, resume or end of a stopped sequencer
context.
-/

namespace Sys2Proof.Machine

/-! ### Fields -/

/-- OP of CCMD (R368). -/
def ccmdOp (v : DWord) : Nat := (v.extractLsb' 0 4).toNat
/-- MODE of CCMD. -/
def ccmdMode (v : DWord) : Nat := (v.extractLsb' 4 2).toNat
/-- CTX of CCMD. -/
def ccmdCtx (v : DWord) : Nat := (v.extractLsb' 8 8).toNat
/-- CORE of CCMD. -/
def ccmdCore (v : DWord) : Nat := (v.extractLsb' 16 10).toNat
/-- GSLOT of CCMD. -/
def ccmdSlot (v : DWord) : Nat := (v.extractLsb' 26 6).toNat
/-- LANE of CCMD. -/
def ccmdLane (v : DWord) : Nat := (v.extractLsb' 32 6).toNat
/-- A reserved bit is set, or OP is 4 to 15 (R368). -/
def ccmdRefused (v : DWord) : Bool := v.extractLsb' 6 2 != 0 || v.extractLsb' 38 26 != 0 || decide (4 ≤ ccmdOp v)

/-! ### What a command names -/

/-- The part of a context on a core, by its group slot and a lane that it owns. -/
def findPart (s : State) (ctx core gslot lane : Nat) : Option (Nat × Part) :=
  s.parts.find? fun p => p.2.own.getLsbD lane && (match Cells.get? p.2.gid s.groups with
    | some g => g.gslot == gslot && (match Cells.get? g.tid s.teams with
      | some t => t.ctx == ctx && t.core == core
      | none => false)
    | none => false)
/-- Quad and index of a sequencer context, resident or saved. -/
def seqHome (s : State) (key : Nat) : Nat × Nat :=
  (seqQuad s key, key % 8)
/-- The sequencer context of a context by its quad's first core and its index. -/
def findSeq (s : State) (ctx core idx : Nat) : Option (Nat × SeqCtx) :=
  s.seqs.find? fun q => q.2.ctx == ctx && !q.2.ended && decide (quadCore (seqHome s q.1).1 = core) && (seqHome s q.1).2 == idx
/-- The length of what stands at an agent's PC. -/
def lengthAt (s : State) (a : Agent) (t : Thread) : Nat :=
  match (fetchAt s (placeOf s a) t.pc).1 with
  | .instr n _ => n
  | .trap n _ => n
/-- NEXT of a stopped agent, as R355 sets it when it stops; for a sequencer context that an engine operation stopped, the length of
its first unexecuted instruction (R359, R367, R369). -/
def nextLen (s : State) (a : Agent) (t : Thread) : Nat := if t.next = 0 then lengthAt s a t else t.next
/-- A stopped agent runs on, at its instruction or past it; a pending record still holds it (R366, R369). A retry decodes a
dictionary reference against the table as it stands (R54). -/
def runOn (a : Agent) (skip : Bool) (s : State) : State :=
  match thread? s a with
  | none => s
  | some t =>
    let pc := if skip then pc56 (t.pc + BitVec.ofNat 64 (nextLen s a t)) else t.pc
    setThread a (fun t => { t with stop := .running, pc := pc, ready := s.tick, ref := if skip then .free else .now pc }) s

/-! ### The commands -/

/-- A part is stopped under R357 or R358. -/
def hostStopped (t : Thread) : Bool := t.stop == .noHandler || t.stop == .escalated
/-- Resume of a part: the effect of a `tret` mode without the pop of a frame (R369). -/
def resumePartAs (mode pid : Nat) (p : Part) (s : State) : State :=
  match mode with
  | 0 => runOn (.part pid) false s
  | 1 => runOn (.part pid) true s
  | 2 => endPart pid s
  | _ => endGroup p.gid s
/-- Resume or end of a sequencer context (R369): it ends once its operations have completed. -/
def resumeSeqAs (mode sc : Nat) (q : SeqCtx) (s : State) : State :=
  match mode with
  | 0 => runOn (.seq sc) false s
  | 1 => runOn (.seq sc) true s
  | _ => if q.ops.isEmpty then endSeq sc s else setSeq sc (fun q => { q with ending := true }) s
/-- The context that a command names, of this partition. -/
def ccmdTarget (s : State) (p : BitVec 6) (v : DWord) : Option Context :=
  (ctxOf? s (ccmdCtx v)).filter fun k => k.part == p
/-- What a command does, with RESULT (R368, R369). -/
def ccmdAct (p : BitVec 6) (v : DWord) (s : State) : BitVec 8 × State :=
  if ccmdRefused v then (0x01, s)
  else match ccmdTarget s p v with
  | none => (0x02, s)
  | some _ =>
    match ccmdOp v with
    | 1 => (0x00, killCtx (ccmdCtx v) 0x01 s)
    | 2 => (match findPart s (ccmdCtx v) (ccmdCore v) (ccmdSlot v) (ccmdLane v) with
      | some (pid, q) => if hostStopped q.thr then (0x00, resumePartAs (ccmdMode v) pid q s) else (0x03, s)
      | none => (0x03, s))
    | _ => (match findSeq s (ccmdCtx v) (ccmdCore v) (ccmdSlot v) with
      | some (sc, q) => if q.thr.stop = .seqStopped ∧ !q.ending then (0x00, resumeSeqAs (ccmdMode v) sc q s) else (0x03, s)
      | none => (0x03, s))
/-- A write of CCMD: ignored unless the VF takes it and BUSY is 0; during a checkpoint's copy it waits with BUSY 1 (R368,
R381). -/
def doCcmd (p : BitVec 6) (v : DWord) (s : State) : State :=
  if !vfOpen s p then unsupported p s
  else if (fnOf s p).cbusy then s
  else
    let s := setFn p (fun f => { f with ccmd := lowField 38 v }) s
    if copying s p then
      setFn p (fun f => { f with cbusy := true }) { s with deferred := s.deferred ++ [.ccmd p v] }
    else
      let r := ccmdAct p v s
      setFn p (fun f => { f with cresult := r.1 }) r.2
/-- A row of CCMD runs where the value has its OP. -/
def ccmdRow (ok : Bool) (p : BitVec 6) (v : DWord) (s : State) : Host.Outcome State Fault Refusal :=
  .next (if ok then doCcmd p v s else s)
/-- KILL_CONTEXT (R369, R375). -/
def execKillContext (p : BitVec 6) (val : BitVec 64) (s : State) : Host.Outcome State Fault Refusal :=
  ccmdRow (ccmdOp val == 1) p val s
/-- RESUME_PART (R369). -/
def execResumePart (p : BitVec 6) (val : BitVec 64) (s : State) : Host.Outcome State Fault Refusal :=
  ccmdRow (ccmdOp val == 2) p val s
/-- RESUME_SEQUENCER_CONTEXT (R369). -/
def execResumeSequencerContext (p : BitVec 6) (val : BitVec 64) (s : State) : Host.Outcome State Fault Refusal :=
  ccmdRow (ccmdOp val == 3) p val s
/-- CCMD_REFUSED_OP (R368). -/
def execCcmdRefusedOp (p : BitVec 6) (val : BitVec 64) (s : State) : Host.Outcome State Fault Refusal :=
  ccmdRow (decide (4 ≤ ccmdOp val)) p val s

end Sys2Proof.Machine
end

