-- ==== Sys2Proof/Machine/Checkpoint.lean ====
section
/-!
DEFINITION. Checkpoint and restore (R377 to R381): the commands of CKCMD, the image of a partition, its relocation, and what
ends a copy.
-/

namespace Sys2Proof.Machine

/-! ### Starting and ending -/

/-- The partitions that CKPART names, in ascending order (R377). -/
def ckParts (s : State) : List (BitVec 6) := ((List.range 64).filter fun i => s.pf.ckpart.getLsbD i).map (BitVec.ofNat 6)
/-- A field that is refused (R377): a reserved bit, a misaligned base, or a partition that does not exist or leaves. -/
def ckRefused (s : State) (v : DWord) : Bool :=
  v.extractLsb' 3 61 != 0 || decide (s.pf.ckbase.toNat % 4096 ≠ 0) || (ckParts s).isEmpty ||
    (ckParts s).any fun p => match parOf? s p with
      | some t => t.leaving.isSome
      | none => true
/-- CKSTAT.RESULT of a command that does not run. -/
def ckResult (c : BitVec 8) (s : State) : State := { s with pf := { s.pf with ckresult := c, ckbusy := false } }
/-- Page requests that are not answered are withdrawn, to be made again (R262, R378). -/
def withdrawPages (ps : List (BitVec 6)) (s : State) : State :=
  let mine (c : Nat) : Bool := ps.contains (ctxPart s c)
  let drop (l : List (Nat × Option Bool)) : List (Nat × Option Bool) := l.filter fun q => q.2.isSome
  let calm (t : Thread) : Thread := { t with asked := drop t.asked, wait := if t.wait = .pages then .none else t.wait }
  let part (x : Nat × Part) : Nat × Part :=
    if (match agentCtx s (.part x.1) with
        | some c => mine c
        | none => false) then (x.1, { x.2 with thr := calm x.2.thr }) else x
  let seq (x : Nat × SeqCtx) : Nat × SeqCtx :=
    if mine x.2.ctx then (x.1, { x.2 with thr := calm x.2.thr, ops := x.2.ops.map fun o => { o with asked := drop o.asked } }) else x
  let cmd (m : Cmd) : Cmd := if mine m.ctx then { m with asked := drop m.asked } else m
  let rec_ (r : PendRec) : PendRec := if mine r.ctx then { r with asked := drop r.asked } else r
  let done_ (d : DonePend) : DonePend := if ps.contains d.part then { d with asked := drop d.asked } else d
  let kill (k : KillPend) : KillPend := if ps.contains k.part then { k with asked := drop k.asked } else k
  let note (n : NotePend) : NotePend := if ps.contains n.part then { n with asked := drop n.asked } else n
  { s with
    pris := s.pris.filter fun r => !ps.contains r.part
    parts := s.parts.map part, seqs := s.seqs.map seq, cmds := s.cmds.map cmd, recs := s.recs.map rec_
    dones := s.dones.map done_, kills := s.kills.map kill, notes := s.notes.map note }
/-- A copy begins (R378): fetching stops, every resident unit goes out, page requests are withdrawn. -/
def ckBegin (restore cont : Bool) (s : State) : State :=
  let ps := ckParts s
  let s := stopUnits (fun c => ps.contains (ctxPart s c))
    { s with ck := some { restore := restore, cont := cont, parts := ps }, pf := { s.pf with ckbusy := true, ckresult := 0 } }
  withdrawPages ps s
/-- A write of CKCMD is taken (R377). -/
def ckTaken (v : DWord) (s : State) : State := { s with pf := { s.pf with ckcmd := v &&& 7 } }
/-- CKTIER.DEV: the safe-tier device (R377). -/
def tierDev (s : State) : BitVec 9 := s.pf.cktier.extractLsb' 0 9
/-- The safe tier is attested. -/
def tierOk (s : State) : Bool := Config.tierAttested (tierDev s)
/-- CHECKPOINT (R377, R378, R380): ignored while a command runs. -/
def execCheckpoint (val : BitVec 64) (s : State) : Host.Outcome State Fault Refusal :=
  .next (if val.extractLsb' 0 2 ≠ 1 || s.pf.ckbusy then s
    else
      let s := ckTaken val s
      if ckRefused s val then ckResult 0x01 s
      else if !((ckParts s).all fun p => match parOf? s p with
          | some t => t.ckPermit
          | none => false) then ckResult 0x02 s
      else if !tierOk s then ckResult 0x03 s
      else if portCount s < 3 then ckResult 0x04 s
      else ckBegin false (val.getLsbD 2) s)
/-- RESTORE (R377, R379). -/
def execRestore (val : BitVec 64) (s : State) : Host.Outcome State Fault Refusal :=
  .next (if val.extractLsb' 0 2 ≠ 2 || s.pf.ckbusy then s
    else
      let s := ckTaken val s
      if ckRefused s val then ckResult 0x01 s
      else if !tierOk s then ckResult 0x03 s
      else if portCount s < 3 then ckResult 0x04 s
      else ckBegin true true s)

/-- What waited for the end of the copy now happens, in order (R378, R381). -/
def runDeferred (l : List Deferred) (s : State) : State :=
  l.foldl (fun s d => match d with
    | .kill p c r => if ctxPart s c = p then killCtx c r s else s
    | .leave p why => startLeave p why s
    | .peer a => if peerHeld s a.target then { s with deferred := s.deferred ++ [d] } else peerThrough a s
    | .mcmd p v => doMcmd p v (setFn p (fun f => { f with mbusy := false }) s)
    | .ccmd p v => doCcmd p v (setFn p (fun f => { f with cbusy := false }) s)) s
/-- A command of CKCMD ends: the partitions resume as after pre-emption, or stay stopped; one that has not done its work leaves them as
they were before it (R378, R380). A partition that an earlier command left stopped so stays stopped, and CKLEN is 0 after RESULT 0x05 to
0x07 (DESIGN CHOICE, log entry 99). -/
def ckEnd (result : BitVec 8) (len : DWord) (stay : Option Bool) (s : State) : State :=
  match s.ck with
  | none => s
  | some r =>
    let s := r.parts.foldl (fun s p => setPar p (fun t => { t with stopped := stay.getD t.stopped }) s)
      { s with ck := none, pf := { s.pf with ckbusy := false, ckresult := result, cklen := len } }
    runDeferred s.deferred { s with deferred := [] }
/-- Every unit of the partitions is saved. -/
def allSaved (s : State) (ps : List (BitVec 6)) : Bool :=
  s.clus.all fun u => !ps.contains (ctxPart s u.2.ctx) || u.2.res == .saved

/-! ### The image -/

/-- The image of a partition whose units are saved (R378). -/
def imageFor (p : BitVec 6) (t : Partition) (base size : Nat) (s : State) : Image :=
  let mine (c : Nat) : Bool := ctxPart s c == p
  let teams := s.teams.filter fun q => mine q.2.ctx
  let groups := s.groups.filter fun g => teams.any fun q => q.1 == g.2.tid
  let parts := s.parts.filter fun q => groups.any fun g => g.1 == q.2.gid
  let frames := s.frames.filter fun f => f.2.part == p
  let inFrames (a : Nat) : Bool := frames.any fun f => decide (f.1 ≤ a) && decide (a < f.1 + f.2.size)
  { src := p, dev := tierDev s, base := base, size := size, key := t.ckKey.getD 0, manifest := true, measures := deviceBlocks s, report := t.report, top := s.nextId, part := t, lq := (fnOf s p).lq
    ctxs := s.ctxs.filter fun k => k.2.part == p
    clus := s.clus.filter fun u => mine u.2.ctx
    teams := teams, groups := groups, parts := parts
    seqs := s.seqs.filter fun q => mine q.2.ctx
    cmds := s.cmds.filter fun m => mine m.ctx
    lands := s.lands.filter fun l => mine l.ctx
    recs := s.recs.filter fun r => mine r.ctx
    dones := s.dones.filter fun d => d.part == p
    kills := s.kills.filter fun k => k.part == p
    notes := s.notes.filter fun n => n.part == p
    dropped := s.dropped.filter fun d => parts.any fun q => q.1 == d.pid
    sqs := s.sqs.filter fun q => q.part == p
    frames := frames, mem := s.mem.filter fun c => inFrames c.1, poison := s.poison.filter inFrames
    tablePoison := (s.tablePoison.filter fun r => decide (r.1 = p)).map Prod.snd }
/-- The end of an image, rounded up to 4 KiB (R377). -/
def imageEnd (i : Image) : Nat := (i.base + i.size + 4095) / 4096 * 4096
/-- The images of partitions one after another (R377; DESIGN CHOICE, log entry 23). -/
def makeImages (s : State) : List (BitVec 6) → Nat → List Image
  | [], _ => []
  | p :: r, base => match parOf? s p with
    | none => makeImages s r base
    | some t =>
      let i := imageFor p t base (Config.imageBytes (s.tick * 64 + p.toNat)) s
      i :: makeImages s r (imageEnd i)
/-- Images written to a device of the tier replace what they overlap there. -/
def writeTier (new : List Image) (s : State) : State :=
  let hit (i : Image) : Bool := new.any fun n => n.dev == i.dev && decide (i.base < imageEnd n) && decide (n.base < imageEnd i)
  { s with tier := s.tier.filter (fun i => !hit i) ++ new }
/-- What a collective waits for from its peers has arrived (R378). -/
def matchedXfer (s : State) (c : Cmd) : Bool :=
  xferTurn s c && (match c.kind with
    | .xsend _ w => (arrivalOf s (w.extractLsb' 0 9) 1 (w.extractLsb' 9 6)).isSome
    | .xrecv _ w => (arrivalOf s (w.extractLsb' 0 9) 0 (w.extractLsb' 9 6)).isSome
    | .xred _ w => (redDevs w).all fun d => d == Config.deviceId || (arrivalOf s d 2 (w.extractLsb' 19 6)).isSome
    | _ => false)
/-- Both ends of a transfer are this device. -/
def selfXfer (c : Cmd) : Bool :=
  match c.kind with
  | .xsend _ w => decide (w.extractLsb' 0 9 = Config.deviceId)
  | .xrecv _ w => decide (w.extractLsb' 0 9 = Config.deviceId)
  | _ => false
/-- The collectives of some partitions. -/
def xfersOf (s : State) (ps : List (BitVec 6)) : List Cmd := s.cmds.filter fun c => ps.contains (ctxPart s c.ctx) && (xferKey c).isSome
/-- Matched collectives go on, in n rounds. -/
def driveXfers (ps : List (BitVec 6)) : Nat → State → State
  | 0, s => s
  | n + 1, s => driveXfers ps n (((xfersOf s ps).map Cmd.ticket).foldl (fun s k => match s.cmds.find? fun c => c.ticket == k with
      | some c => if matchedXfer s c || selfXfer c then driveCmd c s else s
      | none => s) s)
/-- An unmatched collective is abandoned: it will be announced again (R378). -/
def abandonXfer (c : Cmd) (s : State) : State :=
  let s := setCmd c.ticket (fun m => { m with pushed := 0, sent := [] }) s
  match c.kind with
  | .xrecv _ w => if selfXfer c && !fresh c then
      { s with arrivals := s.arrivals.erase ⟨w.extractLsb' 0 9, 1, w.extractLsb' 9 6, w, []⟩ } else s
  | _ => s
/-- Matched collectives complete before the copy, unmatched ones are abandoned, and page requests are withdrawn (R378). -/
def settleXfers (ps : List (BitVec 6)) (s : State) : State :=
  let s := driveXfers ps ((xfersOf s ps).length + 1) s
  withdrawPages ps (((xfersOf s ps).filter fun c => !matchedXfer s c).foldl (fun s c => abandonXfer c s) s)
/-- CHECKPOINT_COMPLETE (R378): once every unit is saved, the images with their manifests, one record per partition, and the
partitions go on or stay stopped. The images go to where CKTIER and CKBASE then point, so that a write of these while BUSY counts for the
command that runs (DESIGN CHOICE, log entry 100). -/
def execCheckpointComplete (s : State) : Host.Outcome State Fault Refusal :=
  .next (match s.ck with
    | none => s
    | some r =>
      if r.restore || !allSaved s r.parts then s
      else
        let s := settleXfers r.parts s
        let new := makeImages s r.parts s.pf.ckbase.toNat
        let len := (new.map fun i => i.size).sum
        let s := r.parts.foldl (fun s p => mlNote p s) (writeTier new s)
        ckEnd 0x00 (BitVec.ofNat 64 len) (some (!r.cont)) s)
/-- ABORT (R377, R380): a running command ends with RESULT 0x05, and the partitions resume whatever CONT says; with none, the write only
changes the register. With a reserved bit set it is refused, and a command that runs goes on (DESIGN CHOICE, log entry 100). -/
def execCheckpointAbort (val : BitVec 64) (s : State) : Host.Outcome State Fault Refusal :=
  .next (if val.extractLsb' 0 2 ≠ 3 then s
    else
      let s := ckTaken val s
      if val.extractLsb' 3 61 ≠ 0 then { s with pf := { s.pf with ckresult := 0x01 } } else ckEnd 0x05 0 none s)
/-- LINK_FAILURE (R380): a copy ends with RESULT 0x05 when fewer than 3 ports remain. -/
def execLinkFailure (port : BitVec 3) (s : State) : Host.Outcome State Fault Refusal :=
  let s := { s with ports := s.ports &&& ~~~(1#8 <<< port.toNat) }
  .next (if s.ck.isSome && decide (portCount s < 3) then ckEnd 0x05 0 none s else s)

/-! ### Relocation -/

/-- An identifier of an image in the state it is restored into. -/
def shiftAgent (d : Nat) : Agent → Agent
  | .none => .none
  | .part pid => .part (pid + d)
  | .seq sc => .seq (sc + 32 * d)
/-- A barrier of an image. -/
def shiftBarrier (d : Nat) : Barrier → Barrier
  | .team t n => .team (t + d) n
  | .cluster u n => .cluster (u + d) n
  | .grid c n => .grid c n
/-- Keys of a table move by d. -/
def shiftKeys {α : Type} (d : Nat) (m : Cells α) : Cells α := m.map fun q => (q.1 + d, q.2)
/-- A barrier's marks move with their groups. -/
def shiftBar (d : Nat) (b : BarState) : BarState := { b with marks := shiftKeys d b.marks }
/-- A wait of an image: it names a group or a barrier by identifier. -/
def shiftWait (d : Nat) : Wait → Wait
  | .monitor (.giveQueue g) => .monitor (.giveQueue (g + d))
  | .monitor (.barrier b n) => .monitor (.barrier (shiftBarrier d b) n)
  | .command k n => .command (k + d) n
  | w => w
/-- A thread of an image. -/
def shiftThread (d : Nat) (t : Thread) : Thread := { t with wait := shiftWait d t.wait, woken := shiftWait d t.woken }
/-- A landing of an image. -/
def shiftLanding (d : Nat) (l : Landing) : Landing :=
  { l with
    ticket := l.ticket + d, who := shiftAgent d l.who
    dest := match l.dest with
      | .lanes g ws => .lanes (g + d) ws
      | .sreg a r v => .sreg (shiftAgent d a) r v
      | .fromLane a r g k => .fromLane (shiftAgent d a) r (g + d) k }
/-- A box of an image. -/
def shiftBox (d : Nat) (b : Box) : Box :=
  { b with holder := b.holder.map (· + d), tid := b.tid + d, lends := b.lends.map fun l => { l with tid := l.tid + d } }
/-- A collective is announced anew on another module (R378). -/
def reissueCmd (c : Cmd) : Cmd := if (xferKey c).isSome then { c with pushed := 0, sent := [] } else c
/-- Every identifier of an image moves by d; context numbers stay (R381). -/
def shiftImage (d : Nat) (i : Image) : Image :=
  let team (t : Team) : Team :=
    { t with uid := t.uid + d, tbars := t.tbars.map fun b : Nat × BarState => (b.1, shiftBar d b.2)
             staged := t.staged.map fun e => { e with gid := e.gid + d } }
  let clu (u : Cluster) : Cluster :=
    { u with cbars := u.cbars.map (fun b : Nat × BarState => (b.1, shiftBar d b.2))
             boxes := u.boxes.map fun b : Nat × Box => (b.1, shiftBox d b.2) }
  let part (p : Part) : Part :=
    { p with gid := p.gid + d, thr := shiftThread d p.thr
             pend := p.pend.map (fun b => (shiftBarrier d b.1, b.2)), latch := p.latch.map fun b => (shiftBarrier d b.1, b.2) }
  let seq (q : SeqCtx) : SeqCtx := { q with uid := q.uid + d, thr := shiftThread d q.thr, ops := q.ops.map fun o => { o with id := o.id + d } }
  let cmd (c : Cmd) : Cmd :=
    reissueCmd { c with ticket := c.ticket + d, tid := c.tid + d, gid := c.gid + d, who := shiftAgent d c.who }
  { i with
    ctxs := i.ctxs.map fun k => (k.1, { k.2 with
      gbars := k.2.gbars.map (fun b : Nat × BarState => (b.1, shiftBar d b.2)), steps := k.2.steps.map (shiftAgent d) })
    clus := (shiftKeys d i.clus).map fun u => (u.1, clu u.2)
    teams := (shiftKeys d i.teams).map fun t => (t.1, team t.2)
    groups := (shiftKeys d i.groups).map fun g => (g.1, { g.2 with tid := g.2.tid + d })
    parts := (shiftKeys d i.parts).map fun p => (p.1, part p.2)
    seqs := (shiftKeys (32 * d) i.seqs).map fun q => (q.1, seq q.2)
    cmds := i.cmds.map cmd
    lands := i.lands.map (shiftLanding d)
    recs := i.recs.map fun r => { r with id := r.id + d, who := shiftAgent d r.who }
    dones := i.dones.map fun x => { x with id := x.id + d }
    kills := i.kills.map fun x => { x with id := x.id + d }
    notes := i.notes.map fun x => { x with id := x.id + d }
    dropped := i.dropped.map fun x => { x with pid := x.pid + d } }

/-- A physical address of an image, by the frames' old and new places. -/
def movePhys (m : List (Nat × Nat × Nat)) (a : Nat) : Nat :=
  match m.find? fun f => decide (f.1 ≤ a) && decide (a < f.1 + f.2.1) with
  | some f => f.2.2 + (a - f.1)
  | none => a
/-- Frames for an image beside their former dies, where the pool allows (R336, R379): old place, size, new place. -/
def placeFrames (p : BitVec 6) : List (Nat × Frame) → State → Option (List (Nat × Nat × Nat) × State)
  | [], s => some ([], s)
  | (a, f) :: r, s => match allocFrame p (physDie a) f.size s with
    | none => none
    | some (b, s) => (placeFrames p r s).map fun x => ((a, f.size, b) :: x.1, x.2)
/-- Bytes of an image at their new places, over those of a memory. -/
def moveBytes (m : List (Nat × Nat × Nat)) (src dst : Cells Byte) : Cells Byte :=
  src.foldl (fun d c => Cells.put 0 (movePhys m c.1) c.2 d) dst
/-- The pages and sequences of an image at their new frames; staged writes and views name virtual addresses. -/
def moveImage (m : List (Nat × Nat × Nat)) (p : BitVec 6) (i : Image) : Image :=
  let page (pg : Page) : Page := match pg.state with
    | .device ph => { pg with state := .device (movePhys m ph) }
    | _ => pg
  { i with
    part := { i.part with pages := i.part.pages.map fun q => (q.1, page q.2)
                          closing := i.part.closing.map fun q => (q.1, { q.2 with phys := movePhys m q.2.phys }) }
    ctxs := i.ctxs.map fun k => (k.1, { k.2 with part := p })
    dones := i.dones.map fun x => { x with part := p }
    kills := i.kills.map fun x => { x with part := p }
    notes := i.notes.map fun x => { x with part := p }
    sqs := i.sqs.map fun q =>
      { q with part := p, segs := q.segs.map fun g : Nat × List Nat => (g.1, g.2.map (movePhys m)) } }

/-! ### Restoring -/

/-- Verify the images of partitions, in order (R377, R379): each lies at its place in the tier's device, has its manifest, its key is held, and the tags of
its chunks and manifest verify (a free predicate: DESIGN CHOICE, log entry 29). -/
def findImages (s : State) : List (BitVec 6) → Nat → Option (List (BitVec 6 × Image))
  | [], _ => some []
  | p :: r, base => match s.tier.find? fun i => i.dev == tierDev s && i.base == base && i.manifest, parOf? s p with
    | some i, some t =>
      if t.ckKey = some i.key ∧ Config.imageTags s.tick p then (findImages s r (imageEnd i)).map fun l => (p, i) :: l else none
    | _, _ => none
/-- What a partition held before a restore over it goes. -/
def clearPart (p : BitVec 6) (s : State) : State :=
  let s := (parCtxs s p).foldl (fun s c => freeCtx c s) s
  let s := (s.frames.filter fun f : Nat × Frame => f.2.part == p).foldl (fun s f => freeFrame f.1 s) s
  setPar p (fun t => { t with pages := [], closing := [], exports := [], imports := [], touchMap := [], fetched := [], areaBytes := [] })
    { s with sqs := s.sqs.filter fun q => q.part != p
             dones := s.dones.filter fun d => d.part != p
             kills := s.kills.filter fun k => k.part != p
             notes := s.notes.filter fun n => n.part != p
             tablePoison := s.tablePoison.filter fun r => decide (r.1 ≠ p) }
/-- A context of an image cannot be placed on the partition's quads, its number is taken, or its saved state fails its checks (R379;
DEDUCED, log entry 29). -/
def cannotPlace (s : State) (c : Nat) (k : Context) : Bool :=
  let bare := { s with
    thermalStop := false, clus := [], teams := [], groups := [], parts := [], seqs := [], ctxs := [(0, { k with unplaced := 0 })], mem := [] }
  let n := if k.lr.coop then clusterCount k.lr else 1
  (ctxOf? s c).isSome || !Config.stateSound s.tick c || decide (768 < n) || (placeAll 0 n bare).isNone
/-- Insert the entries of one table into another. -/
def insertAll {α : Type} (src dst : Cells α) : Cells α := src.foldl (fun d q => Cells.insert q.1 q.2 d) dst
/-- A peer of a window attests again (R349, R379). -/
def repairs (s : State) (dev : Nat) : Bool := s.peers.contains dev && Config.peerRepairs (BitVec.ofNat 9 dev)
/-- The tables of a partition come back, under fresh keys (R379). -/
def restoreTables (p : BitVec 6) (i : Image) (s : State) : State :=
  let s := setPar p (fun t =>
    { t with
      pages := i.part.pages, closing := i.part.closing, touchMap := i.part.touchMap, fetched := i.part.fetched, areaBytes := i.part.areaBytes
      exports := i.part.exports.filter fun e => repairs s e.2.dev
      imports := i.part.imports.filter fun e => repairs s e.1
      keyCur := some s.nextId, keyNext := none }) s
  setFn p (fun f => { f with lq := i.lq }) { s with nextId := s.nextId + 1 }
/-- The slots that the clusters of an image have used on cores of the partition's quads go on there (R258; DEDUCED, log entry 80). On
other cores `swapIn` sees to it. -/
def restoreGens (p : BitVec 6) (i : Image) (s : State) : State :=
  let mine (c : Nat) : Bool := match parOf? s p with
    | some t => t.quads.contains (coreQuad c)
    | none => false
  i.clus.foldl (fun s u => mergeGens u.2 (fun r =>
    ((i.teams.find? fun t => t.2.uid == u.1 && t.2.rank == r && mine t.2.core).map fun t => t.2.core)) s) s
/-- Restore an image into a partition (R379): `none` where the pool cannot hold its frames. -/
def restoreImage (p : BitVec 6) (i : Image) (s : State) : Option State :=
  let s := clearPart p s
  match placeFrames p i.frames s with
  | none => none
  | some (m, s) =>
    let d := s.nextId
    let i := moveImage m p (shiftImage d i)
    let bad := (i.ctxs.filter fun k => cannotPlace s k.1 k.2).map fun k => (k.1, k.2.lr)
    let keep (c : Nat) : Bool := !bad.any fun b => b.1 == c
    let tids := (i.teams.filter fun t => keep t.2.ctx).map Prod.fst
    let groups := i.groups.filter fun g => tids.contains g.2.tid
    let parts := i.parts.filter fun q => groups.any fun g => g.1 == q.2.gid
    let s := restoreGens p i (restoreTables p i { s with nextId := d + i.top })
    let s := { s with
      mem := moveBytes m i.mem s.mem
      poison := s.poison ++ i.poison.map (movePhys m)
      tablePoison := s.tablePoison ++ i.tablePoison.map fun b => (p, b)
      ctxs := insertAll (i.ctxs.filter fun k => keep k.1) s.ctxs
      clus := insertAll (i.clus.filter fun u => keep u.2.ctx) s.clus
      teams := insertAll (i.teams.filter fun t => keep t.2.ctx) s.teams
      groups := insertAll groups s.groups
      parts := insertAll parts s.parts
      seqs := insertAll (i.seqs.filter fun q => keep q.2.ctx) s.seqs
      cmds := s.cmds ++ i.cmds.filter fun c => keep c.ctx
      lands := s.lands ++ i.lands.filter fun l => keep l.ctx
      recs := s.recs ++ i.recs.filter fun r => keep r.ctx
      dones := s.dones ++ i.dones
      kills := s.kills ++ i.kills
      notes := s.notes ++ i.notes.filter fun n => (n.ctx.map keep).getD true
      dropped := s.dropped ++ i.dropped
      sqs := s.sqs ++ i.sqs }
    some (bad.foldl (fun s b =>
      killEnd p b.1 b.2 0x05 (setPar p (fun t => { t with areaBytes := Cells.erase b.1 t.areaBytes }) s)) s)
/-- Restore images, all or none. -/
def restoreAll : List (BitVec 6 × Image) → State → Option State
  | [], s => some s
  | (p, i) :: r, s => match restoreImage p i s with
    | none => none
    | some s => restoreAll r s
/-- The target has fewer quads than the image's partition had (R377; DEDUCED, log entry 29). -/
def fewQuads (s : State) (l : List (BitVec 6 × Image)) : Bool :=
  l.any fun x => match parOf? s x.1 with
    | some t => decide (t.quads.length < x.2.part.quads.length)
    | none => true
/-- RESTORE_COMPLETE (R379), from the images to which CKTIER and CKBASE then point (DESIGN CHOICE, log entry 100): everything is verified before anything runs; the contexts then wait as saved units. -/
def execRestoreComplete (s : State) : Host.Outcome State Fault Refusal :=
  .next (match s.ck with
    | none => s
    | some r =>
      if !r.restore || !allSaved s r.parts then s
      else match findImages s r.parts s.pf.ckbase.toNat with
        | none => ckEnd 0x06 0 none s
        | some l =>
          if fewQuads s l then ckEnd 0x07 0 none s
          else match restoreAll l s with
            | none => ckEnd 0x07 0 none s
            | some s =>
              let len := (l.map fun x => x.2.size).sum
              ckEnd 0x00 (BitVec.ofNat 64 len) (some false) (r.parts.foldl (fun s p => mlNote p s) s))

end Sys2Proof.Machine
end

