-- ==== Sys2Proof/Machine/Debug.lean ====
section
/-!
DEFINITION. The debug window (R351, R393, R394): actions on a context, register accesses and memory accesses.
-/

namespace Sys2Proof.Machine

/-! ### Selection -/

/-- CTX of DBGSEL (R393). -/
def selCtx (v : DWord) : Nat := (v.extractLsb' 0 8).toNat
/-- CORE of DBGSEL. -/
def selCore (v : DWord) : Nat := (v.extractLsb' 8 10).toNat
/-- The context that DBGSEL names, of this partition. -/
def selContext (s : State) (p : BitVec 6) : Option Context :=
  (ctxOf? s (selCtx (fnOf s p).dsel)).filter fun k => k.part == p
/-- The part or sequencer context that DBGSEL names (R393). -/
def selAgent (s : State) (p : BitVec 6) : Option (Agent × Thread) :=
  let v := (fnOf s p).dsel
  match selContext s p with
  | none => none
  | some _ =>
    if v.getLsbD 30 then
      (findSeq s (selCtx v) (selCore v) (v.extractLsb' 18 3).toNat).map fun q => (.seq q.1, q.2.thr)
    else
      (findPart s (selCtx v) (selCore v) (v.extractLsb' 18 6).toNat (v.extractLsb' 24 6).toNat).map fun q => (.part q.1, q.2.thr)
/-- An agent is stopped: at a stop of its own, or by the debugger and in no wait (R394). -/
def debugStopped (k : Context) (a : Agent) (t : Thread) : Bool :=
  t.stop != .running || (k.dbgStop && t.wait == .none && !k.steps.contains a)
/-- Report the outcome of an action or access (R393). -/
def setStat (p : BitVec 6) (c : BitVec 8) (s : State) : State := setFn p (fun f => { f with dstat := c }) s

/-- ACT of DBGCTL takes what is written (R393). -/
def setAct (p : BitVec 6) (v : DWord) (s : State) : State := setFn p (fun f => { f with dact := v.extractLsb' 0 4 }) s

/-! ### Actions -/

/-- A write of DBGCTL: closed without BRK (R351); the row runs where the value has its ACT. -/
def dbgAction (act : Nat) (p : BitVec 6) (val : DWord) (f : Nat → Context → State → BitVec 8 × State) (s : State) :
    Host.Outcome State Fault Refusal :=
  .next (if (val.extractLsb' 0 4).toNat != act then s
    else if !vfOpen s p then unsupported p s
    else if !lockOpen s p 1 then s
    else match selContext s p with
      | none => setStat p 0x02 (setAct p val s)
      | some k =>
        let r := f (selCtx (fnOf s p).dsel) k (setAct p val s)
        setStat p r.1 r.2)
/-- DEBUG_STOP (R394). -/
def execDebugStop (p : BitVec 6) (val : BitVec 64) (s : State) : Host.Outcome State Fault Refusal :=
  dbgAction 1 p val (fun c _ s => (0x00, setCtx c (fun k => { k with dbgStop := true }) s)) s
/-- The parts of a context that are stopped at `brkp`. -/
def brkpParts (s : State) (c : Nat) : List Nat :=
  (s.parts.filter fun p => p.2.thr.stop == .brkp && agentCtx s (.part p.1) == some c).map Prod.fst
/-- A part stopped at `brkp`, or after a step, runs on (R323, R394). -/
def resumePart (pid : Nat) (s : State) : State :=
  setThread (.part pid) (fun t => { t with stop := .running, ready := s.tick }) s
/-- DEBUG_RESUME (R320, R323, R394): also of a part whose step has not ended yet. -/
def execDebugResume (p : BitVec 6) (val : BitVec 64) (s : State) : Host.Outcome State Fault Refusal :=
  dbgAction 2 p val (fun c k s =>
    if !k.dbgStop && (brkpParts s c).isEmpty && k.steps.isEmpty then (0x03, s)
    else
      (0x00, (brkpParts s c).foldl (fun s pid => resumePart pid s) (setCtx c (fun k => { k with dbgStop := false, steps := [] }) s))) s
/-- DEBUG_STEP (R394): one instruction of the selected agent, or one trap entry. -/
def execDebugStep (p : BitVec 6) (val : BitVec 64) (s : State) : Host.Outcome State Fault Refusal :=
  dbgAction 3 p val (fun c k s =>
    match selAgent s p with
    | none => (0x02, s)
    | some (a, t) =>
      if !debugStopped k a t || hostStopped t || t.stop == .seqStopped then (0x03, s)
      else (0x00, setCtx c (fun k => { k with steps := k.steps ++ [a] }) (setThread a (fun t => { t with stop := .running, ready := s.tick }) s))) s
/-- ARM_BREAKPOINTS (R323, R393). -/
def execArmBreakpoints (p : BitVec 6) (val : BitVec 64) (s : State) : Host.Outcome State Fault Refusal :=
  dbgAction 4 p val (fun c _ s => (0x00, setCtx c (fun k => { k with armed := true }) s)) s
/-- DISARM_BREAKPOINTS (R393). -/
def execDisarmBreakpoints (p : BitVec 6) (val : BitVec 64) (s : State) : Host.Outcome State Fault Refusal :=
  dbgAction 5 p val (fun c _ s => (0x00, setCtx c (fun k => { k with armed := false }) s)) s

/-! ### Registers -/

/-- The outcome of a register access: STAT, the value read, the state. -/
abbrev DbgRes := BitVec 8 × Option DWord × State
/-- A refused access. -/
def dbgNo (c : BitVec 8) (s : State) : DbgRes := (c, none, s)
/-- A uniform register (R394). -/
def dbgUniform (a : Agent) (t : Thread) (n : Nat) (wr : Bool) (v : DWord) (s : State) : DbgRes :=
  let r := sregOf t n
  if 32 ≤ n then dbgNo 0x01 s
  else if !r.full then dbgNo 0x04 s
  else if wr then (0x00, none, writeS a (BitVec.ofNat 5 n) v s)
  else if r.poison then dbgNo 0x01 s
  else (0x00, some r.val, s)
/-- A lane of a lane register that the part owns (R394). -/
def dbgLane (p : Part) (g : Group) (n l : Nat) (wr : Bool) (v : DWord) (s : State) : DbgRes :=
  let x := laneWord g p.wb n l
  if 64 ≤ n ∨ g.w ≤ l ∨ !p.own.getLsbD l then dbgNo 0x01 s
  else if !x.full then dbgNo 0x04 s
  else if wr then (0x00, none, setGroup p.gid (putLane p.wb n l (v.setWidth 32)) s)
  else if x.poison then dbgNo 0x01 s
  else (0x00, some (x.val.setWidth 64), s)
/-- A mask register: the bits of the part's lanes are written (R22, R394). -/
def dbgMask (p : Part) (g : Group) (n : Nat) (wr : Bool) (v : DWord) (s : State) : DbgRes :=
  if 8 ≤ n then dbgNo 0x01 s
  else if wr then (0x00, none, setGroup p.gid (fun g =>
    { putMask n p.own v g with maskPoison := g.maskPoison.filter fun k => k != n }) s)
  else if g.maskPoison.contains n then dbgNo 0x01 s
  else (0x00, some (maskVal g n), s)
/-- A special register, as `sget` and `sset` at T1 give it (R27, R394). -/
def dbgSpecial (a : Agent) (n : Nat) (wr : Bool) (v : DWord) (s : State) : DbgRes :=
  if 25 ≤ n then dbgNo 0x01 s
  else if wr then
    (match a with
     | .part pid => (match Cells.get? pid s.parts with
       | some p => (0x00, none, partSet pid p ((agentCtx s a).getD 0) n v s)
       | none => dbgNo 0x02 s)
     | .seq sc => (0x00, none, seqSet sc ((agentCtx s a).getD 0) n v s)
     | .none => dbgNo 0x02 s)
  else if n = 24 then
    let r := readCyc (agentCore s a) s
    (0x00, some r.1, r.2)
  else (0x00, some (specialOf s a n), s)
/-- The table that a part decodes with, or will once its team is seated again (R59). -/
def partTable (s : State) (pid : Nat) : DictTable :=
  match (Cells.get? pid s.parts).bind (partTeam s) with
  | some t => (match t.saved with
    | some d => d
    | none => ctxTable s t.core t.ctx)
  | none => .empty
/-- A dictionary entry, as `dget` reads it (R390, R394). -/
def dbgEntry (a : Agent) (n : Nat) (wr : Bool) (s : State) : DbgRes :=
  match a with
  | .part pid =>
    let e := Cells.get ⟨0, false⟩ n (partTable s pid).entries
    if wr ∨ 128 ≤ n ∨ e.poison then dbgNo 0x01 s else (0x00, some e.val, s)
  | _ => dbgNo 0x01 s
/-- The words of a frame, in the order of R356 (DEDUCED, log entry 30). -/
def frameWord (f : TFrame) (i : Nat) : DWord :=
  match i with
  | 0 => f.pc
  | 1 => BitVec.ofNat 64 f.next
  | 2 => f.em
  | 3 => BitVec.ofNat 64 f.wb
  | 4 => if f.priv then 1 else 0
  | 5 => f.rep.info
  | 6 => f.rep.va
  | _ => f.rep.mask
/-- A frame with a word written. NEXT keeps its bits 2:1, so that a PC stays even (R35), WB stays below VREGS, and the reserved bits of
FLTINFO stay 0 (R27; DEDUCED, log entry 30). -/
def frameWith (vregs : Nat) (f : TFrame) (i : Nat) (v : DWord) : TFrame :=
  match i with
  | 0 => { f with pc := v &&& 0xFFFFFFFFFFFFFE }
  | 1 => { f with next := v.toNat % 8 / 2 * 2 }
  | 2 => { f with em := v }
  | 3 => { f with wb := v.toNat % 256 % vregs }
  | 4 => { f with priv := v.getLsbD 0 }
  | 5 => { f with rep := { f.rep with info := v &&& ~~~0xFF800000#64 } }
  | 6 => { f with rep := { f.rep with va := pc56 v } }
  | _ => { f with rep := { f.rep with mask := v } }
/-- A word of a trap frame of a stopped part; the report registers show the top frame's report (R356). -/
def dbgFrame (pid : Nat) (p : Part) (vregs n : Nat) (wr : Bool) (v : DWord) (s : State) : DbgRes :=
  match p.tstack[n / 8]? with
  | none => dbgNo 0x01 s
  | some f =>
    if wr then
      let x := frameWith vregs f (n % 8) v
      (0x00, none, setPart pid (fun p =>
        { p with tstack := p.tstack.set (n / 8) x, thr := if n / 8 = 0 then { p.thr with report := x.rep } else p.thr }) s)
    else (0x00, some (frameWord f (n % 8)), s)
/-- An element of an accumulator (R394). -/
def dbgAcc (sc : Nat) (q : SeqCtx) (n : Nat) (wr : Bool) (v : DWord) (s : State) : DbgRes :=
  if 16384 ≤ n then dbgNo 0x01 s
  else if wr then
    (0x00, none, setSeq sc (fun q =>
      { q with acc := Cells.put 0 n (v.setWidth 32) q.acc, accPoison := q.accPoison.filter fun k => k != n }) s)
  else if q.accPoison.contains n then dbgNo 0x01 s
  else (0x00, some ((Cells.get (0 : Word) n q.acc).setWidth 64), s)
/-- A register access to a stopped agent by its class (R393). -/
def dbgRegister (a : Agent) (t : Thread) (v data : DWord) (s : State) : DbgRes :=
  let cls := (v.extractLsb' 0 4).toNat
  let n := (v.extractLsb' 4 8).toNat
  let sub := (v.extractLsb' 12 16).toNat
  let wr := v.getLsbD 62
  match a with
  | .none => dbgNo 0x02 s
  | .part pid => (match Cells.get? pid s.parts with
    | none => dbgNo 0x02 s
    | some p => match Cells.get? p.gid s.groups with
      | none => dbgNo 0x02 s
      | some g => match cls with
        | 0 => dbgLane p g n sub wr data s
        | 1 => dbgUniform a t n wr data s
        | 2 => dbgMask p g n wr data s
        | 3 => dbgSpecial a n wr data s
        | 4 => dbgEntry a n wr s
        | 5 => dbgFrame pid p g.vregs n wr data s
        | _ => dbgNo 0x01 s)
  | .seq sc => (match Cells.get? sc s.seqs with
    | none => dbgNo 0x02 s
    | some q => match cls with
      | 1 => dbgUniform a t n wr data s
      | 3 => dbgSpecial a n wr data s
      | 6 => dbgAcc sc q sub wr data s
      | _ => dbgNo 0x01 s)
/-- The outcome of an access: STAT, and DBGDATA where a value was read. -/
def dbgEnd (p : BitVec 6) (r : DbgRes) : State :=
  setFn p (fun f => { f with dstat := r.1, ddata := r.2.1.getD f.ddata }) r.2.2
/-- DBGREG_ACCESS (R351, R393, R394): classes but 4 need REGS, class 4 needs DGET. -/
def execDbgregAccess (p : BitVec 6) (val : BitVec 64) (s : State) : Host.Outcome State Fault Refusal :=
  .next (
    let isEntry := (val.extractLsb' 0 4).toNat == 4
    if !vfOpen s p then unsupported p s
    else if !(lockOpen s p 2 || (isEntry && lockOpen s p 0)) then s
    else
      let s := setFn p (fun f => { f with dreg := val &&& 0x400000000FFFFFFF }) s
      if !val.getLsbD 63 then s
      else if isEntry && !lockOpen s p 0 then dbgEnd p (0x01, some 0, s)
      else match selContext s p, selAgent s p with
        | some k, some (a, t) =>
          if debugStopped k a t then dbgEnd p (dbgRegister a t val (fnOf s p).ddata s) else setStat p 0x03 s
        | _, _ => setStat p 0x02 s)

/-! ### Memory -/

/-- A memory access by the debugger (R394): 8 bytes at their home, without a page request or a first touch. -/
def dbgMemory (p : BitVec 6) (k : Context) (c va : Nat) (wr : Bool) (v : DWord) (s : State) : DbgRes :=
  let s := if k.dbgStop then drainStores (fun q => q.ctx == c) s else s
  let touch : Bool := match (parOf? s p).bind fun t => pageOf t va with
    | some (_, pg) => pg.state == .touch && pg.kind == .ordinary
    | none => false
  if va % 8 ≠ 0 ∨ touch then dbgNo 0x05 s
  else match reach s p 0 (if wr then .write else .read) va 8 with
    | .phys s pa _ _ _ =>
      if wr then (0x00, none, homeWrite (physDie pa) pa (toBytes 8 v.toNat) s)
      else if (poisonedAt s pa 8).isSome then dbgNo 0x05 s
      else (0x00, some (BitVec.ofNat 64 (memNat s.mem pa 8)), s)
    | .peer o =>
      if wr then (0x00, none, peerWrite o (toBytes 8 v.toNat) s)
      else (0x00, some (BitVec.ofNat 64 (memNat s.peerMem o 8)), s)
    | .beyond => (0x00, some 0, s)
    | _ => dbgNo 0x05 (noteAt p va s)
/-- The cluster of the selected agent. -/
def selUnit (s : State) (a : Agent) : Option (Nat × Cluster) :=
  match agentUnit s a with
  | some uid => (Cells.get? uid s.clus).map fun u => (uid, u)
  | none => none
/-- A box access by the debugger (R394): the named copy, whoever holds the box. -/
def dbgBox (a : Agent) (d : DWord) (esc wr : Bool) (v : DWord) (s : State) : DbgRes :=
  let off := descOff d
  match selUnit s a with
  | none => dbgNo 0x02 s
  | some (uid, u) => match boxAt u (descHandle d) with
    | none => dbgNo 0x05 s
    | some b =>
      if off % 8 ≠ 0 ∨ b.bytes < off + 8 ∨ (esc ∧ !b.escrow) then dbgNo 0x05 s
      else if wr then
        let f (b : Box) : Box :=
          if esc then { b with back := memWrite b.back off (toBytes 8 v.toNat), backPoison := b.backPoison.filter fun q => q != off }
          else { b with front := memWrite b.front off (toBytes 8 v.toNat), frontPoison := b.frontPoison.filter fun q => q != off }
        (0x00, none, setBox uid (boxKey (descHandle d)) f s)
      else if (if esc then b.backPoison else b.frontPoison).contains off then dbgNo 0x05 s
      else (0x00, some (BitVec.ofNat 64 (memNat (if esc then b.back else b.front) off 8)), s)
/-- DBGMEM_ACCESS (R351, R393, R394). -/
def execDbgmemAccess (p : BitVec 6) (val : BitVec 64) (s : State) : Host.Outcome State Fault Refusal :=
  .next (if !vfOpen s p then unsupported p s
    else if !lockOpen s p 3 then s
    else
      let s := setFn p (fun f => { f with dmem := val &&& 0x43FFFFFFFFFFFFFF }) s
      let data := (fnOf s p).ddata
      if !val.getLsbD 63 then s
      else match selContext s p with
        | none => setStat p 0x02 s
        | some k =>
          if val.getLsbD 56 then
            (match selAgent s p with
             | some (a, _) => dbgEnd p (dbgBox a (val &&& 0xFFFFFFFFFFFFF) (val.getLsbD 57) (val.getLsbD 62) data s)
             | none => setStat p 0x02 s)
          else dbgEnd p (dbgMemory p k (selCtx (fnOf s p).dsel) (pc56 val).toNat (val.getLsbD 62) data s))

end Sys2Proof.Machine
end

