-- ==== Sys2Proof/Machine/Lanes.lean ====
section
/-!
DEFINITION. Lane arithmetic, majors 0x01 to 0x16, and the sixteen compact forms (05_lane_arith_instr.md). Each meaning is
one of the shapes below over a value of Machine/Flags.lean.
-/

namespace Sys2Proof.Machine

open Sys2Proof.Num (Flags fNone)

/-! ### Shapes -/

/-- Results of the active lanes. -/
def laneResults (g : Group) (act : DWord) (f : Nat → Word × Flags) : List (Nat × Word) :=
  (lanesOf g.w act).map fun l => (l, (f l).1)
/-- The OR of the flags of the active lanes (R103). -/
def laneFlags (g : Group) (act : DWord) (f : Nat → Word × Flags) : Flags :=
  (lanesOf g.w act).foldl (fun x l => x ||| (f l).2) fNone
/-- Write a lane result to a named register in every active lane, and merge the flags (R137). -/
def laneWrite (p : Part) (g : Group) (act : DWord) (vd : Nat) (f : Nat → Word × Flags) (s : State) : State :=
  setGroup p.gid (fun h => mergeAfl (laneFlags g act f) (putLanes p.wb vd (laneResults g act f) h)) s

/-- Format R with two sources (R137). -/
def laneR (o : OpR) (f : Word → Word → Word × Flags) (s : State) : Host.Outcome State Fault Refusal :=
  onLanes s o.pk fun _ p g act =>
    (gateL p g act [src1 o.va o.wa, src1 o.vb o.wb] [] [o.pk.toNat] [o.vd.toNat] []).run s
      (.done (laneWrite p g act o.vd.toNat
        (fun l => f (laneVal g p.wb o.va.toNat l) (laneVal g p.wb o.vb.toNat l)) s))
/-- Format R with one source. -/
def laneR1 (o : OpR1) (f : Word → Word × Flags) (s : State) : Host.Outcome State Fault Refusal :=
  onLanes s o.pk fun _ p g act =>
    (gateL p g act [src1 o.va o.wa] [] [o.pk.toNat] [o.vd.toNat] []).run s
      (.done (laneWrite p g act o.vd.toNat (fun l => f (laneVal g p.wb o.va.toNat l)) s))
/-- Format R that also reads vd, with no wait bit for it (R137). -/
def laneRd (o : OpR) (f : Word → Word → Word → Word × Flags) (s : State) : Host.Outcome State Fault Refusal :=
  onLanes s o.pk fun _ p g act =>
    (gateL p g act [src1 o.va o.wa, src1 o.vb o.wb, src1 o.vd false] [] [o.pk.toNat] [o.vd.toNat] []).run s
      (.done (laneWrite p g act o.vd.toNat
        (fun l => f (laneVal g p.wb o.vd.toNat l) (laneVal g p.wb o.va.toNat l) (laneVal g p.wb o.vb.toNat l)) s))
/-- Format F: vd is the third source under wc (R44). -/
def laneF (o : OpF) (f : Word → Word → Word → Word × Flags) (s : State) : Host.Outcome State Fault Refusal :=
  onLanes s o.pk fun _ p g act =>
    (gateL p g act [src1 o.va o.wa, src1 o.vb o.wb, src1 o.vd o.wc] [] [o.pk.toNat] [o.vd.toNat] []).run s
      (.done (laneWrite p g act o.vd.toNat
        (fun l => f (laneVal g p.wb o.vd.toNat l) (laneVal g p.wb o.va.toNat l) (laneVal g p.wb o.vb.toNat l)) s))
/-- Formats with one source and an immediate, or none. -/
def laneImm (pk : BitVec 2) (vd : BitVec 6) (srcs : List LaneSrc) (f : Group → Part → Nat → Word × Flags) (s : State) :
    Host.Outcome State Fault Refusal :=
  onLanes s pk fun _ p g act =>
    (gateL p g act srcs [] [pk.toNat] [vd.toNat] []).run s (.done (laneWrite p g act vd.toNat (f g p) s))
/-- Format R-cmp (R148): the active lanes' bits of kd are written in one step. -/
def laneCmp (o : OpCmp) (f : Word → Word → Bool × Flags) (s : State) : Host.Outcome State Fault Refusal :=
  onLanes s o.pk fun _ p g act =>
    (gateL p g act [src1 o.va o.wa, src1 o.vb o.wb] [] [o.pk.toNat] [] []).run s
      (let r := fun l => f (laneVal g p.wb o.va.toNat l) (laneVal g p.wb o.vb.toNat l)
       .done (setGroup p.gid (fun h =>
         mergeAfl ((lanesOf g.w act).foldl (fun x l => x ||| (r l).2) fNone)
           (putMask o.kd.toNat (act &&& lowMask g.w) (maskOf ((lanesOf g.w act).filter fun l => (r l).1)) h)) s))

/-- The lane operation that a compact form stands for: vd and va are VD, vb is VS (R38). -/
def compactOp (o : OpC) : OpR :=
  { pk := 0, vd := o.vd.setWidth 6, va := o.vd.setWidth 6, vb := o.vs.setWidth 6, wa := false, wb := false }

/-- A quad of lane registers as one FB128 value (R75, R163). -/
def quadVal (g : Group) (wb : Nat) (n : BitVec 6) (l : Nat) : BitVec 128 :=
  BitVec.ofNat 128 ((regsFrom n 4).foldr (fun r x => (laneVal g wb r l).toNat + x * 2 ^ 32) 0)
/-- Write an FB128 value to a quad in every active lane, and merge flags (R163). -/
def quadWrite (p : Part) (g : Group) (act : DWord) (n : BitVec 6) (f : Nat → BitVec 128 × Flags) (s : State) : State :=
  setGroup p.gid (fun h =>
    mergeAfl ((lanesOf g.w act).foldl (fun x l => x ||| (f l).2) fNone)
      ((List.range 4).foldl (fun h i =>
        putLanes p.wb ((n.toNat + i) % 64)
          ((lanesOf g.w act).map fun l => (l, BitVec.ofNat 32 ((f l).1.toNat / 2 ^ (32 * i)))) h) h)) s


/-! ### Compact forms -/

/-- compact mov (R38): va is VS. -/
def execCompactMov (o : OpC) (s : State) : Host.Outcome State Fault Refusal :=
  laneR1 ⟨0, o.vd.setWidth 6, o.vs.setWidth 6, false⟩ quiet s

/-- compact iadd (R38). -/
def execCompactIadd (o : OpC) (s : State) : Host.Outcome State Fault Refusal :=
  laneR (compactOp o) (fun a b => quiet (a + b)) s

/-- compact isub (R38). -/
def execCompactIsub (o : OpC) (s : State) : Host.Outcome State Fault Refusal :=
  laneR (compactOp o) (fun a b => quiet (a - b)) s

/-- compact imul (R38). -/
def execCompactImul (o : OpC) (s : State) : Host.Outcome State Fault Refusal :=
  laneR (compactOp o) (fun a b => quiet (a * b)) s

/-- compact and (R38). -/
def execCompactAnd (o : OpC) (s : State) : Host.Outcome State Fault Refusal :=
  laneR (compactOp o) (fun a b => quiet (a &&& b)) s

/-- compact or (R38). -/
def execCompactOr (o : OpC) (s : State) : Host.Outcome State Fault Refusal :=
  laneR (compactOp o) (fun a b => quiet (a ||| b)) s

/-- compact xor (R38). -/
def execCompactXor (o : OpC) (s : State) : Host.Outcome State Fault Refusal :=
  laneR (compactOp o) (fun a b => quiet (a ^^^ b)) s

/-- compact shl (R38). -/
def execCompactShl (o : OpC) (s : State) : Host.Outcome State Fault Refusal :=
  laneR (compactOp o) (fun a b => quiet (shlW a b.toNat)) s

/-- compact shr (R38). -/
def execCompactShr (o : OpC) (s : State) : Host.Outcome State Fault Refusal :=
  laneR (compactOp o) (fun a b => quiet (shrW a b.toNat)) s

/-- compact sar (R38). -/
def execCompactSar (o : OpC) (s : State) : Host.Outcome State Fault Refusal :=
  laneR (compactOp o) (fun a b => quiet (sarW a b.toNat)) s

/-- compact imin.i32 (R38). -/
def execCompactIminI32 (o : OpC) (s : State) : Host.Outcome State Fault Refusal :=
  laneR (compactOp o) (fun a b => quiet (minI a b)) s

/-- compact imax.i32 (R38). -/
def execCompactImaxI32 (o : OpC) (s : State) : Host.Outcome State Fault Refusal :=
  laneR (compactOp o) (fun a b => quiet (maxI a b)) s

/-- compact fadd (R38). -/
def execCompactFadd (o : OpC) (s : State) : Host.Outcome State Fault Refusal :=
  laneR (compactOp o) (faddW) s

/-- compact fsub (R38). -/
def execCompactFsub (o : OpC) (s : State) : Host.Outcome State Fault Refusal :=
  laneR (compactOp o) (fsubW) s

/-- compact fmul (R38). -/
def execCompactFmul (o : OpC) (s : State) : Host.Outcome State Fault Refusal :=
  laneR (compactOp o) (fmulW) s

/-- compact fmax (R38). -/
def execCompactFmax (o : OpC) (s : State) : Host.Outcome State Fault Refusal :=
  laneR (compactOp o) (fminmaxW true false) s

/-! ### Majors 0x01 to 0x04 -/

/-- iadd (R141). -/
def execIadd (o : OpR) (s : State) : Host.Outcome State Fault Refusal :=
  laneR o (fun a b => quiet (a + b)) s

/-- isub (R141). -/
def execIsub (o : OpR) (s : State) : Host.Outcome State Fault Refusal :=
  laneR o (fun a b => quiet (a - b)) s

/-- iaddsat.i32 (R141). -/
def execIaddsatI32 (o : OpR) (s : State) : Host.Outcome State Fault Refusal :=
  laneR o addSatI s

/-- iaddsat.n32 (R141). -/
def execIaddsatN32 (o : OpR) (s : State) : Host.Outcome State Fault Refusal :=
  laneR o addSatN s

/-- imul (R141). -/
def execImul (o : OpR) (s : State) : Host.Outcome State Fault Refusal :=
  laneR o (fun a b => quiet (a * b)) s

/-- imulh.i32 (R141). -/
def execImulhI32 (o : OpR) (s : State) : Host.Outcome State Fault Refusal :=
  laneR o (fun a b => quiet (mulHiI a b)) s

/-- imulh.n32 (R141). -/
def execImulhN32 (o : OpR) (s : State) : Host.Outcome State Fault Refusal :=
  laneR o (fun a b => quiet (mulHiN a b)) s

/-- ineg (R141). -/
def execIneg (o : OpR1) (s : State) : Host.Outcome State Fault Refusal :=
  laneR1 o (fun a => quiet (0 - a)) s

/-- imin.i32 (R142). -/
def execIminI32 (o : OpR) (s : State) : Host.Outcome State Fault Refusal :=
  laneR o (fun a b => quiet (minI a b)) s

/-- imin.n32 (R142). -/
def execIminN32 (o : OpR) (s : State) : Host.Outcome State Fault Refusal :=
  laneR o (fun a b => quiet (minN a b)) s

/-- imax.i32 (R142). -/
def execImaxI32 (o : OpR) (s : State) : Host.Outcome State Fault Refusal :=
  laneR o (fun a b => quiet (maxI a b)) s

/-- imax.n32 (R142). -/
def execImaxN32 (o : OpR) (s : State) : Host.Outcome State Fault Refusal :=
  laneR o (fun a b => quiet (maxN a b)) s

/-- and (R142). -/
def execAnd (o : OpR) (s : State) : Host.Outcome State Fault Refusal :=
  laneR o (fun a b => quiet (a &&& b)) s

/-- or (R142). -/
def execOr (o : OpR) (s : State) : Host.Outcome State Fault Refusal :=
  laneR o (fun a b => quiet (a ||| b)) s

/-- xor (R142). -/
def execXor (o : OpR) (s : State) : Host.Outcome State Fault Refusal :=
  laneR o (fun a b => quiet (a ^^^ b)) s

/-- andn (R142). -/
def execAndn (o : OpR) (s : State) : Host.Outcome State Fault Refusal :=
  laneR o (fun a b => quiet (a &&& ~~~b)) s

/-- shl (R143). -/
def execShl (o : OpR) (s : State) : Host.Outcome State Fault Refusal :=
  laneR o (fun a b => quiet (shlW a b.toNat)) s

/-- shr (R143). -/
def execShr (o : OpR) (s : State) : Host.Outcome State Fault Refusal :=
  laneR o (fun a b => quiet (shrW a b.toNat)) s

/-- sar (R143). -/
def execSar (o : OpR) (s : State) : Host.Outcome State Fault Refusal :=
  laneR o (fun a b => quiet (sarW a b.toNat)) s

/-- rotl (R143). -/
def execRotl (o : OpR) (s : State) : Host.Outcome State Fault Refusal :=
  laneR o (fun a b => quiet (rotlW a b.toNat)) s

/-- clz (R143). -/
def execClz (o : OpR1) (s : State) : Host.Outcome State Fault Refusal :=
  laneR1 o (fun a => quiet (clzW a)) s

/-- popc (R143). -/
def execPopc (o : OpR1) (s : State) : Host.Outcome State Fault Refusal :=
  laneR1 o (fun a => quiet (popcW a)) s

/-- brev (R143). -/
def execBrev (o : OpR1) (s : State) : Host.Outcome State Fault Refusal :=
  laneR1 o (fun a => quiet (brevW a)) s

/-- not (R143). -/
def execNot (o : OpR1) (s : State) : Host.Outcome State Fault Refusal :=
  laneR1 o (fun a => quiet (~~~a)) s

/-- bfx.n32 (R144). -/
def execBfxN32 (o : OpR) (s : State) : Host.Outcome State Fault Refusal :=
  laneR o (fun a b => quiet (bfxN a b)) s

/-- bfx.i32 (R144). -/
def execBfxI32 (o : OpR) (s : State) : Host.Outcome State Fault Refusal :=
  laneR o (fun a b => quiet (bfxI a b)) s

/-- bfi (R144). -/
def execBfi (o : OpR) (s : State) : Host.Outcome State Fault Refusal :=
  laneRd o (fun d a b => quiet (bfiW d a b)) s

/-- sel (R145): every lane of EM; the bit of the mask that pk names chooses va, else vb. -/
def execSel (o : OpR) (s : State) : Host.Outcome State Fault Refusal :=
  onLanes s 0 fun _ p g act =>
    (gateL p g act [src1 o.va o.wa, src1 o.vb o.wb] [] [o.pk.toNat] [o.vd.toNat] []).run s
      (.done (laneWrite p g act o.vd.toNat
        (fun l => quiet (if (maskVal g o.pk.toNat).getLsbD l then laneVal g p.wb o.va.toNat l else laneVal g p.wb o.vb.toNat l))
        s))

/-- mov (R146). -/
def execMov (o : OpR1) (s : State) : Host.Outcome State Fault Refusal :=
  laneR1 o quiet s

/-- lea.1 (R146). -/
def execLea1 (o : OpR) (s : State) : Host.Outcome State Fault Refusal :=
  laneR o (fun a b => quiet (a + (b <<< 1))) s

/-- lea.2 (R146). -/
def execLea2 (o : OpR) (s : State) : Host.Outcome State Fault Refusal :=
  laneR o (fun a b => quiet (a + (b <<< 2))) s

/-- lea.3 (R146). -/
def execLea3 (o : OpR) (s : State) : Host.Outcome State Fault Refusal :=
  laneR o (fun a b => quiet (a + (b <<< 3))) s

/-! ### Majors 0x05 to 0x0D -/

/-- imad (R147). -/
def execImad (o : OpF) (s : State) : Host.Outcome State Fault Refusal :=
  laneF o (fun d a b => quiet (a * b + d)) s

/-- icmp.i32 (R148). -/
def execIcmpI32 (o : OpCmp) (s : State) : Host.Outcome State Fault Refusal :=
  laneCmp o (fun a b => (condHolds o.cond (a == b) (a.slt b), fNone)) s

/-- icmp.n32 (R148). -/
def execIcmpN32 (o : OpCmp) (s : State) : Host.Outcome State Fault Refusal :=
  laneCmp o (fun a b => (condHolds o.cond (a == b) (a.ult b), fNone)) s

/-- iaddi (R149). -/
def execIaddi (o : OpI) (s : State) : Host.Outcome State Fault Refusal :=
  laneR1 ⟨o.pk, o.vd, o.va, o.wa⟩ (fun a => quiet (a + o.imm.signExtend 32)) s

/-- andi (R149). -/
def execAndi (o : OpI) (s : State) : Host.Outcome State Fault Refusal :=
  laneR1 ⟨o.pk, o.vd, o.va, o.wa⟩ (fun a => quiet (a &&& o.imm.signExtend 32)) s

/-- ori (R149). -/
def execOri (o : OpI) (s : State) : Host.Outcome State Fault Refusal :=
  laneR1 ⟨o.pk, o.vd, o.va, o.wa⟩ (fun a => quiet (a ||| o.imm.signExtend 32)) s

/-- xori (R149). -/
def execXori (o : OpI) (s : State) : Host.Outcome State Fault Refusal :=
  laneR1 ⟨o.pk, o.vd, o.va, o.wa⟩ (fun a => quiet (a ^^^ o.imm.signExtend 32)) s

/-- shfi (R150). -/
def execShfi (o : OpShfi) (s : State) : Host.Outcome State Fault Refusal :=
  laneR1 ⟨o.pk, o.vd, o.va, o.wa⟩ (fun a => quiet (shiftKind o.kind a o.count.toNat)) s

/-- movi (R149). -/
def execMovi (o : OpMovi) (s : State) : Host.Outcome State Fault Refusal :=
  laneImm o.pk o.vd [] (fun _ _ _ => quiet (o.imm.signExtend 32)) s

/-- movw (R151). -/
def execMovw (o : OpW) (s : State) : Host.Outcome State Fault Refusal :=
  laneImm o.pk o.vd [] (fun _ _ _ => quiet (o.imm.setWidth 32)) s

/-- movw.hi (R151): it reads vd, which has no wait bit. -/
def execMovwHi (o : OpW) (s : State) : Host.Outcome State Fault Refusal :=
  laneImm o.pk o.vd [src1 o.vd false]
    (fun g p l => quiet ((o.imm.setWidth 32 <<< 16) ||| (laneVal g p.wb o.vd.toNat l &&& 0xFFFF))) s

/-! ### Majors 0x10 to 0x16 -/

/-- fadd (R152). -/
def execFadd (o : OpR) (s : State) : Host.Outcome State Fault Refusal :=
  laneR o faddW s

/-- fsub (R152). -/
def execFsub (o : OpR) (s : State) : Host.Outcome State Fault Refusal :=
  laneR o fsubW s

/-- fmul (R152). -/
def execFmul (o : OpR) (s : State) : Host.Outcome State Fault Refusal :=
  laneR o fmulW s

/-- fdiv (R152). -/
def execFdiv (o : OpR) (s : State) : Host.Outcome State Fault Refusal :=
  laneR o fdivW s

/-- fmin (R152). -/
def execFmin (o : OpR) (s : State) : Host.Outcome State Fault Refusal :=
  laneR o (fminmaxW false false) s

/-- fmax (R152). -/
def execFmax (o : OpR) (s : State) : Host.Outcome State Fault Refusal :=
  laneR o (fminmaxW true false) s

/-- fminn (R152). -/
def execFminn (o : OpR) (s : State) : Host.Outcome State Fault Refusal :=
  laneR o (fminmaxW false true) s

/-- fmaxn (R152). -/
def execFmaxn (o : OpR) (s : State) : Host.Outcome State Fault Refusal :=
  laneR o (fminmaxW true true) s

/-- ffma (R153). -/
def execFfma (o : OpF) (s : State) : Host.Outcome State Fault Refusal :=
  laneF o ffmaW s

/-- fnma (R153). -/
def execFnma (o : OpF) (s : State) : Host.Outcome State Fault Refusal :=
  laneF o fnmaW s

/-- pfma.bf16x2 (R153). -/
def execPfmaBf16x2 (o : OpF) (s : State) : Host.Outcome State Fault Refusal :=
  laneF o (pfmaW .bf16) s

/-- pfma.f16x2 (R153). -/
def execPfmaF16x2 (o : OpF) (s : State) : Host.Outcome State Fault Refusal :=
  laneF o (pfmaW .f16) s

/-- fsqrt (R154). -/
def execFsqrt (o : OpR1) (s : State) : Host.Outcome State Fault Refusal :=
  laneR1 o fsqrtW s

/-- frcp (R154). -/
def execFrcp (o : OpR1) (s : State) : Host.Outcome State Fault Refusal :=
  laneR1 o frcpW s

/-- frsq (R154). -/
def execFrsq (o : OpR1) (s : State) : Host.Outcome State Fault Refusal :=
  laneR1 o frsqW s

/-- exp2 (R154). -/
def execExp2 (o : OpR1) (s : State) : Host.Outcome State Fault Refusal :=
  laneR1 o Num.exp2Arch s

/-- fneg (R154). -/
def execFneg (o : OpR1) (s : State) : Host.Outcome State Fault Refusal :=
  laneR1 o (fun a => quiet (fnegW a)) s

/-- fabs (R154). -/
def execFabs (o : OpR1) (s : State) : Host.Outcome State Fault Refusal :=
  laneR1 o (fun a => quiet (fabsW a)) s

/-- fclass (R154). -/
def execFclass (o : OpR1) (s : State) : Host.Outcome State Fault Refusal :=
  laneR1 o (fun a => quiet (fclassW a)) s

/-- fround (R156). -/
def execFround (o : OpFround) (s : State) : Host.Outcome State Fault Refusal :=
  laneR1 ⟨o.pk, o.vd, o.va, o.wa⟩ (Num.fround (froundMode o.mode)) s

/-- fcmp.f32 (R157). -/
def execFcmpF32 (o : OpCmp) (s : State) : Host.Outcome State Fault Refusal :=
  laneCmp o (fun a b => Num.fcmpHolds .f32 o.cond a.toNat b.toNat) s

/-- fcmp.f16 (R157). -/
def execFcmpF16 (o : OpCmp) (s : State) : Host.Outcome State Fault Refusal :=
  laneCmp o (fun a b => Num.fcmpHolds .f16 o.cond a.toNat b.toNat) s

/-- fcmp.bf16 (R157). -/
def execFcmpBf16 (o : OpCmp) (s : State) : Host.Outcome State Fault Refusal :=
  laneCmp o (fun a b => Num.fcmpHolds .bf16 o.cond a.toNat b.toNat) s

/-- fcvt (R158, R159). -/
def execFcvt (o : OpFcvt) (s : State) : Host.Outcome State Fault Refusal :=
  laneR1 ⟨o.pk, o.vd, o.va, o.wa⟩
    (Num.fcvt (Num.cvtFmt o.src) (Num.cvtFmt o.dst) (Num.cvtMode o.mode)) s

/-- padd.bf16x2 (R160). -/
def execPaddBf16x2 (o : OpR) (s : State) : Host.Outcome State Fault Refusal :=
  laneR o (paddW .bf16) s

/-- padd.f16x2 (R160). -/
def execPaddF16x2 (o : OpR) (s : State) : Host.Outcome State Fault Refusal :=
  laneR o (paddW .f16) s

/-- pmul.bf16x2 (R160). -/
def execPmulBf16x2 (o : OpR) (s : State) : Host.Outcome State Fault Refusal :=
  laneR o (pmulW .bf16) s

/-- pmul.f16x2 (R160). -/
def execPmulF16x2 (o : OpR) (s : State) : Host.Outcome State Fault Refusal :=
  laneR o (pmulW .f16) s

/-- pk2h (R161). -/
def execPk2h (o : OpR) (s : State) : Host.Outcome State Fault Refusal :=
  laneR o (fun a b => quiet (pk2hW a b)) s

/-- fscale (R162). -/
def execFscale (o : OpR) (s : State) : Host.Outcome State Fault Refusal :=
  laneR o fscaleW s

/-- bexp (R163): the block exponent over the active lanes, to every active lane. -/
def execBexp (o : OpR1) (s : State) : Host.Outcome State Fault Refusal :=
  onLanes s o.pk fun _ p g act =>
    (gateL p g act [src1 o.va o.wa] [] [o.pk.toNat] [o.vd.toNat] []).run s
      (let v := fun l => laneVal g p.wb o.va.toNat l
       .done (laneWrite p g act o.vd.toNat
         (fun l => (BitVec.ofInt 32 (blockExp v (lanesOf g.w act)), Num.snanFlag (f32 (v l)))) s))
/-- bcvt (R163). -/
def execBcvt (o : OpR) (s : State) : Host.Outcome State Fault Refusal :=
  onLanes s o.pk fun _ p g act =>
    (gateL p g act [src1 o.va o.wa, src1 o.vb o.wb] [] [o.pk.toNat] (regsFrom o.vd 4) []).run s
      (.done (quadWrite p g act o.vd
        (fun l => Num.binnedConvert (laneVal g p.wb o.va.toNat l) (laneVal g p.wb o.vb.toNat l).toInt) s))
/-- badd (R163). -/
def execBadd (o : OpR) (s : State) : Host.Outcome State Fault Refusal :=
  onLanes s o.pk fun _ p g act =>
    (gateL p g act [⟨regsFrom o.va 4, o.wa⟩, ⟨regsFrom o.vb 4, o.wb⟩] [] [o.pk.toNat] (regsFrom o.vd 4) []).run s
      (.done (quadWrite p g act o.vd (fun l => Num.binnedAdd (quadVal g p.wb o.va l) (quadVal g p.wb o.vb l)) s))
/-- bfin (R163). -/
def execBfin (o : OpR) (s : State) : Host.Outcome State Fault Refusal :=
  onLanes s o.pk fun _ p g act =>
    (gateL p g act [⟨regsFrom o.va 4, o.wa⟩, src1 o.vb o.wb] [] [o.pk.toNat] [o.vd.toNat] []).run s
      (.done (laneWrite p g act o.vd.toNat
        (fun l => Num.binnedFinal (quadVal g p.wb o.va l) (laneVal g p.wb o.vb.toNat l).toInt) s))

end Sys2Proof.Machine
end

