-- ==== Sys2Proof/Machine/GroupOps.lean ====
section
/-!
DEFINITION. Group and mask instructions, majors 0x18 to 0x1B (06_group_scalar_instr.md). They read and write only lanes of
the active set (R165).
-/

namespace Sys2Proof.Machine

open Sys2Proof.Num (Flags fNone)

/-! ### Shuffles, ballot and ranking -/

/-- A shuffle (R170): lane l takes va of its source lane where that is active, else keeps its own va. -/
def laneShuffle (o : OpR) (src : Nat → Nat → Option Nat) (s : State) : Host.Outcome State Fault Refusal :=
  onLanes s o.pk fun _ p g act =>
    (gateL p g act [src1 o.va o.wa, src1 o.vb o.wb] [] [o.pk.toNat] [o.vd.toNat] []).run s
      (let v := fun l => laneVal g p.wb o.va.toNat l
       .done (laneWrite p g act o.vd.toNat
         (fun l => quiet (match src l (laneVal g p.wb o.vb.toNat l).toNat with
           | some j => if j < g.w ∧ act.getLsbD j = true then v j else v l
           | none => v l)) s))

/-- shfl.idx (R170). -/
def execShflIdx (o : OpR) (s : State) : Host.Outcome State Fault Refusal :=
  laneShuffle o (fun _ c => some c) s
/-- shfl.xor (R170). -/
def execShflXor (o : OpR) (s : State) : Host.Outcome State Fault Refusal :=
  laneShuffle o (fun l c => some (l ^^^ (c % 64))) s
/-- shfl.up (R170). -/
def execShflUp (o : OpR) (s : State) : Host.Outcome State Fault Refusal :=
  laneShuffle o (fun l c => if c ≤ l then some (l - c) else none) s
/-- shfl.down (R170). -/
def execShflDown (o : OpR) (s : State) : Host.Outcome State Fault Refusal :=
  laneShuffle o (fun l c => some (l + c)) s

/-- Write a lane value and the word above it to a pair of registers (R23). -/
def pairWrite (p : Part) (g : Group) (act : DWord) (vd : BitVec 6) (fl : Flags) (lo hi : Nat → Word) (s : State) : State :=
  setGroup p.gid (fun h => mergeAfl fl
    (putLanes p.wb ((vd.toNat + 1) % 64) ((lanesOf g.w act).map fun l => (l, hi l))
      (putLanes p.wb vd.toNat ((lanesOf g.w act).map fun l => (l, lo l)) h))) s

/-- ballot (R171). -/
def execBallot (o : OpR1) (s : State) : Host.Outcome State Fault Refusal :=
  onLanes s o.pk fun _ p g act =>
    (gateL p g act [src1 o.va o.wa] [] [o.pk.toNat] (regsFrom o.vd 2) []).run s
      (let b := maskOf ((lanesOf g.w act).filter fun l => laneVal g p.wb o.va.toNat l != 0)
       .done (pairWrite p g act o.vd fNone (fun _ => b.extractLsb' 0 32) (fun _ => b.extractLsb' 32 32) s))

/-- The ranking of the active lanes by va as F32, cut at each lane's own count (R172). -/
def laneTopk (o : OpR) (max : Bool) (s : State) : Host.Outcome State Fault Refusal :=
  onLanes s o.pk fun _ p g act =>
    (gateL p g act [src1 o.va o.wa, src1 o.vb o.wb] [] [o.pk.toNat] [o.vd.toNat] []).run s
      (let v := fun l => (laneVal g p.wb o.va.toNat l).toNat
       let ls := lanesOf g.w act
       let order := ranked .f32 max v ls
       .done (laneWrite p g act o.vd.toNat
         (fun l => (if l < (laneVal g p.wb o.vb.toNat l).toNat ∧ l < ls.length then BitVec.ofNat 32 (order.getD l 0)
                    else 0xFFFFFFFF, snanLanes .f32 v ls)) s))
/-- topk.max (R172). -/
def execTopkMax (o : OpR) (s : State) : Host.Outcome State Fault Refusal := laneTopk o true s
/-- topk.min (R172). -/
def execTopkMin (o : OpR) (s : State) : Host.Outcome State Fault Refusal := laneTopk o false s

/-! ### Reductions, scans, extremes -/

/-- A reduction or scan (R174): `keep l j` says whether leaf j counts for lane l. -/
def laneReduce (o : OpRedux) (keep : Nat → Nat → Bool) (s : State) : Host.Outcome State Fault Refusal :=
  onLanes s o.pk fun _ p g act =>
    (gateL p g act [src1 o.va o.wa] [] [o.pk.toNat] [o.vd.toNat] []).run s
      (.done (laneWrite p g act o.vd.toNat
        (fun l => reduceLanes o.op.toNat g.w (fun j => laneVal g p.wb o.va.toNat j)
          (fun j => act.getLsbD j && keep l j)) s))
/-- redux (R174). -/
def execRedux (o : OpRedux) (s : State) : Host.Outcome State Fault Refusal := laneReduce o (fun _ _ => true) s
/-- scan.inc (R174). -/
def execScanInc (o : OpRedux) (s : State) : Host.Outcome State Fault Refusal := laneReduce o (fun l j => decide (j ≤ l)) s
/-- scan.exc (R174). -/
def execScanExc (o : OpRedux) (s : State) : Host.Outcome State Fault Refusal := laneReduce o (fun l j => decide (j < l)) s

/-- maxidx and minidx of a format (R173): the winner's value, canonical for a NaN, and its lane, to every active lane. -/
def laneIdx (o : OpR1) (t : Num.Fmt) (max : Bool) (s : State) : Host.Outcome State Fault Refusal :=
  onLanes s o.pk fun _ p g act =>
    (gateL p g act [src1 o.va o.wa] [] [o.pk.toNat] (regsFrom o.vd 2) []).run s
      (let v := fun l => (laneVal g p.wb o.va.toNat l).toNat % 2 ^ t.width
       let ls := lanesOf g.w act
       let win := (ls.find? fun l => ls.all fun m => l == m || ranksBefore t max v l m).getD 0
       let val := if (Num.decodeF t (v win)).isNaN then t.nan else v win
       .done (pairWrite p g act o.vd (snanLanes t v ls) (fun _ => BitVec.ofNat 32 val) (fun _ => BitVec.ofNat 32 win) s))
/-- maxidx.f32 (R173). -/
def execMaxidxF32 (o : OpR1) (s : State) : Host.Outcome State Fault Refusal := laneIdx o .f32 true s
/-- maxidx.f16 (R173). -/
def execMaxidxF16 (o : OpR1) (s : State) : Host.Outcome State Fault Refusal := laneIdx o .f16 true s
/-- maxidx.bf16 (R173). -/
def execMaxidxBf16 (o : OpR1) (s : State) : Host.Outcome State Fault Refusal := laneIdx o .bf16 true s
/-- minidx.f32 (R173). -/
def execMinidxF32 (o : OpR1) (s : State) : Host.Outcome State Fault Refusal := laneIdx o .f32 false s
/-- minidx.f16 (R173). -/
def execMinidxF16 (o : OpR1) (s : State) : Host.Outcome State Fault Refusal := laneIdx o .f16 false s
/-- minidx.bf16 (R173). -/
def execMinidxBf16 (o : OpR1) (s : State) : Host.Outcome State Fault Refusal := laneIdx o .bf16 false s

/-! ### Mask operations -/

/-- A bitwise mask operation (R175): the active lanes' bits of kd. -/
def maskOp (pk : BitVec 2) (kd : BitVec 3) (ks : List Nat) (f : Group → DWord) (s : State) : Host.Outcome State Fault Refusal :=
  onLanes s pk fun _ p g act =>
    (gateL p g act [] [] (pk.toNat :: ks) [] []).run s
      (.done (setGroup p.gid (putMask kd.toNat (act &&& lowMask g.w) (f g)) s))
/-- kand (R175). -/
def execKand (o : OpK2) (s : State) : Host.Outcome State Fault Refusal :=
  maskOp o.pk o.kd [o.ka.toNat, o.kb.toNat] (fun g => maskVal g o.ka.toNat &&& maskVal g o.kb.toNat) s
/-- kor (R175). -/
def execKor (o : OpK2) (s : State) : Host.Outcome State Fault Refusal :=
  maskOp o.pk o.kd [o.ka.toNat, o.kb.toNat] (fun g => maskVal g o.ka.toNat ||| maskVal g o.kb.toNat) s
/-- kxor (R175). -/
def execKxor (o : OpK2) (s : State) : Host.Outcome State Fault Refusal :=
  maskOp o.pk o.kd [o.ka.toNat, o.kb.toNat] (fun g => maskVal g o.ka.toNat ^^^ maskVal g o.kb.toNat) s
/-- kandn (R175). -/
def execKandn (o : OpK2) (s : State) : Host.Outcome State Fault Refusal :=
  maskOp o.pk o.kd [o.ka.toNat, o.kb.toNat] (fun g => maskVal g o.ka.toNat &&& ~~~maskVal g o.kb.toNat) s
/-- knot (R175). -/
def execKnot (o : OpK1) (s : State) : Host.Outcome State Fault Refusal :=
  maskOp o.pk o.kd [o.ka.toNat] (fun g => ~~~maskVal g o.ka.toNat) s
/-- kmov (R175). -/
def execKmov (o : OpK1) (s : State) : Host.Outcome State Fault Refusal :=
  maskOp o.pk o.kd [o.ka.toNat] (fun g => maskVal g o.ka.toNat) s

/-- A count or search over the active lanes whose bit of ka is 1 (R176). -/
def maskCount (o : OpKv) (f : List Nat → Word) (s : State) : Host.Outcome State Fault Refusal :=
  onLanes s o.pk fun _ p g act =>
    (gateL p g act [] [] [o.pk.toNat, o.ka.toNat] [o.vd.toNat] []).run s
      (.done (laneWrite p g act o.vd.toNat
        (fun _ => quiet (f ((lanesOf g.w act).filter fun l => (maskVal g o.ka.toNat).getLsbD l))) s))
/-- kpop (R176). -/
def execKpop (o : OpKv) (s : State) : Host.Outcome State Fault Refusal := maskCount o (fun ls => BitVec.ofNat 32 ls.length) s
/-- kffs (R176). -/
def execKffs (o : OpKv) (s : State) : Host.Outcome State Fault Refusal :=
  maskCount o (fun ls => match ls with
    | [] => 0xFFFFFFFF
    | l :: _ => BitVec.ofNat 32 l) s

end Sys2Proof.Machine
end

