-- ==== Sys2Proof/Machine/Uniform.lean ====
section
/-!
DEFINITION. Bridges between lanes, masks and uniform registers, major 0x1C, and uniform arithmetic, majors 0x1E and 0x1F
(06_group_scalar_instr.md).
-/

namespace Sys2Proof.Machine

/-! ### Bridges -/

/-- vbcast.lo and vbcast.hi (R178). -/
def execVbcast (o : OpVbcast) (s : State) : Host.Outcome State Fault Refusal :=
  onLanes s o.pk fun _ p g act =>
    (gateL p g act [] [⟨o.sa, o.wa⟩] [o.pk.toNat] [o.vd.toNat] []).run s
      (.done (laneWrite p g act o.vd.toNat
        (fun _ => quiet (if o.hi then (sVal p.thr o.sa).extractLsb' 32 32 else (sVal p.thr o.sa).extractLsb' 0 32)) s))

/-- vread (R178, R179): an empty source lane makes it a long-latency producer of sd. -/
def execVread (o : OpVread) (s : State) : Host.Outcome State Fault Refusal :=
  onPart s fun pid p g =>
    let one : DWord := 1#64 <<< o.lane.toNat
    let here := decide (o.lane.toNat < g.w) && p.em.getLsbD o.lane.toNat
    let w := laneWord g p.wb o.va.toNat o.lane.toNat
    if here && !w.full && o.wa then
      .trap s { Trap.plain cEMPTY (BitVec.ofNat 8 o.va.toNat) with mask := one }
    else if here && w.full && w.poison then .trap s (poisonTrap one)
    else if !(sregOf p.thr o.sd.toNat).full then .wait s .reg
    else if here && !w.full then
      .done { setThread (.part pid) (emptyS o.sd) s with
              lands := s.lands ++ [{ ticket := s.nextId, who := .part pid, ctx := (agentCtx s (.part pid)).getD 0,
                                     dest := .fromLane (.part pid) o.sd.toNat p.gid (laneKey g p.wb o.va.toNat o.lane.toNat),
                                     load := false, store := false }]
              nextId := s.nextId + 1 }
    else .done (writeS (.part pid) o.sd (if here then w.val.setWidth 64 else 0) s)

/-- kget (R178). -/
def execKget (o : OpKget) (s : State) : Host.Outcome State Fault Refusal :=
  onPart s fun pid p g =>
    (gateP p g 0 [] [] [o.ka.toNat] [] [o.sd]).run s
      (.done (writeS (.part pid) o.sd (maskVal g o.ka.toNat &&& p.own) s))
/-- kset (R178). -/
def execKset (o : OpKset) (s : State) : Host.Outcome State Fault Refusal :=
  onLanes s o.pk fun _ p g act =>
    (gateL p g act [] [⟨o.sa, o.wa⟩] [o.pk.toNat] [] []).run s
      (.done (setGroup p.gid (putMask o.kd.toNat (act &&& lowMask g.w) (sVal p.thr o.sa)) s))
/-- emget (R178). -/
def execEmget (o : OpEmget) (s : State) : Host.Outcome State Fault Refusal :=
  onPart s fun pid p g =>
    (gateP p g 0 [] [] [] [] [o.sd]).run s (.done (writeS (.part pid) o.sd p.em s))
/-- emset (R178). -/
def execEmset (o : OpEmset) (s : State) : Host.Outcome State Fault Refusal :=
  onPart s fun pid p g =>
    (gateP p g 0 [] [⟨o.sa, o.wa⟩] [] [] []).run s
      (.done (setPart pid (fun q => { q with em := sVal p.thr o.sa &&& q.own }) s))
/-- emand (R178). -/
def execEmand (o : OpEmand) (s : State) : Host.Outcome State Fault Refusal :=
  onPart s fun pid p g =>
    (gateP p g 0 [] [] [o.ka.toNat] [] []).run s
      (.done (setPart pid (fun q => { q with em := q.em &&& maskVal g o.ka.toNat }) s))

/-! ### Uniform arithmetic -/

/-- Major 0x1E: two uniform sources (R180). -/
def uniformU (o : OpU) (f : DWord → DWord → DWord) (s : State) : Host.Outcome State Fault Refusal :=
  onAgent s fun a t =>
    (gateS t [⟨o.sa, o.wsa⟩, ⟨o.sb, o.wsb⟩] [o.sd]).run s (.done (writeS a o.sd (f (sVal t o.sa) (sVal t o.sb)) s))
/-- Major 0x1F: a uniform source and an immediate (R181). -/
def uniformV (o : OpV) (f : DWord → DWord) (s : State) : Host.Outcome State Fault Refusal :=
  onAgent s fun a t =>
    (gateS t [⟨o.sa, o.wsa⟩] [o.sd]).run s (.done (writeS a o.sd (f (sVal t o.sa)) s))

/-- sadd (R180). -/
def execSadd (o : OpU) (s : State) : Host.Outcome State Fault Refusal := uniformU o (fun a b => a + b) s
/-- ssub (R180). -/
def execSsub (o : OpU) (s : State) : Host.Outcome State Fault Refusal := uniformU o (fun a b => a - b) s
/-- smul (R180). -/
def execSmul (o : OpU) (s : State) : Host.Outcome State Fault Refusal := uniformU o (fun a b => a * b) s
/-- sand (R180). -/
def execSand (o : OpU) (s : State) : Host.Outcome State Fault Refusal := uniformU o (fun a b => a &&& b) s
/-- sor (R180). -/
def execSor (o : OpU) (s : State) : Host.Outcome State Fault Refusal := uniformU o (fun a b => a ||| b) s
/-- sxor (R180). -/
def execSxor (o : OpU) (s : State) : Host.Outcome State Fault Refusal := uniformU o (fun a b => a ^^^ b) s
/-- sshl (R180). -/
def execSshl (o : OpU) (s : State) : Host.Outcome State Fault Refusal := uniformU o (fun a b => a <<< (b.toNat % 64)) s
/-- sshr (R180). -/
def execSshr (o : OpU) (s : State) : Host.Outcome State Fault Refusal := uniformU o (fun a b => a >>> (b.toNat % 64)) s
/-- saddi (R181). -/
def execSaddi (o : OpV) (s : State) : Host.Outcome State Fault Refusal := uniformV o (fun a => a + o.imm.signExtend 64) s
/-- sandi (R181). -/
def execSandi (o : OpV) (s : State) : Host.Outcome State Fault Refusal := uniformV o (fun a => a &&& o.imm.signExtend 64) s
/-- sori (R181). -/
def execSori (o : OpV) (s : State) : Host.Outcome State Fault Refusal := uniformV o (fun a => a ||| o.imm.signExtend 64) s
/-- smovi (R181). -/
def execSmovi (o : OpSmovi) (s : State) : Host.Outcome State Fault Refusal :=
  onAgent s fun a t => (gateS t [] [o.sd]).run s (.done (writeS a o.sd (o.imm.signExtend 64) s))
/-- sshli (R181). -/
def execSshli (o : OpV) (s : State) : Host.Outcome State Fault Refusal := uniformV o (fun a => a <<< (o.imm.toNat % 64)) s
/-- sshri (R181). -/
def execSshri (o : OpV) (s : State) : Host.Outcome State Fault Refusal := uniformV o (fun a => a >>> (o.imm.toNat % 64)) s
/-- ssari (R181). -/
def execSsari (o : OpV) (s : State) : Host.Outcome State Fault Refusal :=
  uniformV o (fun a => a.sshiftRight (o.imm.toNat % 64)) s

end Sys2Proof.Machine
end

