-- ==== Sys2Proof/Machine/Reference.lean ====
section
/-!
DEFINITION. Dictionary references (R40, R53, R54): the filled instruction is executed with its own meaning.
-/

namespace Sys2Proof.Machine

/-- The meaning of a 32-bit form by its own name. No other row is ever decoded from a filled word. -/
def perform (i : Instr) (s : State) : Host.Outcome State Fault Refusal :=
  match i with
  | .iadd o => execIadd o s
  | .isub o => execIsub o s
  | .iaddsatI32 o => execIaddsatI32 o s
  | .iaddsatN32 o => execIaddsatN32 o s
  | .imul o => execImul o s
  | .imulhI32 o => execImulhI32 o s
  | .imulhN32 o => execImulhN32 o s
  | .ineg o => execIneg o s
  | .iminI32 o => execIminI32 o s
  | .iminN32 o => execIminN32 o s
  | .imaxI32 o => execImaxI32 o s
  | .imaxN32 o => execImaxN32 o s
  | .and o => execAnd o s
  | .or o => execOr o s
  | .xor o => execXor o s
  | .andn o => execAndn o s
  | .shl o => execShl o s
  | .shr o => execShr o s
  | .sar o => execSar o s
  | .rotl o => execRotl o s
  | .clz o => execClz o s
  | .popc o => execPopc o s
  | .brev o => execBrev o s
  | .not o => execNot o s
  | .bfxN32 o => execBfxN32 o s
  | .bfxI32 o => execBfxI32 o s
  | .bfi o => execBfi o s
  | .sel o => execSel o s
  | .mov o => execMov o s
  | .lea1 o => execLea1 o s
  | .lea2 o => execLea2 o s
  | .lea3 o => execLea3 o s
  | .imad o => execImad o s
  | .icmpI32 o => execIcmpI32 o s
  | .icmpN32 o => execIcmpN32 o s
  | .iaddi o => execIaddi o s
  | .andi o => execAndi o s
  | .ori o => execOri o s
  | .xori o => execXori o s
  | .shfi o => execShfi o s
  | .movi o => execMovi o s
  | .movw o => execMovw o s
  | .movwHi o => execMovwHi o s
  | .fadd o => execFadd o s
  | .fsub o => execFsub o s
  | .fmul o => execFmul o s
  | .fdiv o => execFdiv o s
  | .fmin o => execFmin o s
  | .fmax o => execFmax o s
  | .fminn o => execFminn o s
  | .fmaxn o => execFmaxn o s
  | .ffma o => execFfma o s
  | .fnma o => execFnma o s
  | .pfmaBf16x2 o => execPfmaBf16x2 o s
  | .pfmaF16x2 o => execPfmaF16x2 o s
  | .fsqrt o => execFsqrt o s
  | .frcp o => execFrcp o s
  | .frsq o => execFrsq o s
  | .exp2 o => execExp2 o s
  | .fneg o => execFneg o s
  | .fabs o => execFabs o s
  | .fclass o => execFclass o s
  | .fround o => execFround o s
  | .fcmpF32 o => execFcmpF32 o s
  | .fcmpF16 o => execFcmpF16 o s
  | .fcmpBf16 o => execFcmpBf16 o s
  | .fcvt o => execFcvt o s
  | .paddBf16x2 o => execPaddBf16x2 o s
  | .paddF16x2 o => execPaddF16x2 o s
  | .pmulBf16x2 o => execPmulBf16x2 o s
  | .pmulF16x2 o => execPmulF16x2 o s
  | .pk2h o => execPk2h o s
  | .fscale o => execFscale o s
  | .bexp o => execBexp o s
  | .bcvt o => execBcvt o s
  | .badd o => execBadd o s
  | .bfin o => execBfin o s
  | .shflIdx o => execShflIdx o s
  | .shflXor o => execShflXor o s
  | .shflUp o => execShflUp o s
  | .shflDown o => execShflDown o s
  | .ballot o => execBallot o s
  | .topkMax o => execTopkMax o s
  | .topkMin o => execTopkMin o s
  | .redux o => execRedux o s
  | .scanInc o => execScanInc o s
  | .scanExc o => execScanExc o s
  | .maxidxF32 o => execMaxidxF32 o s
  | .maxidxF16 o => execMaxidxF16 o s
  | .maxidxBf16 o => execMaxidxBf16 o s
  | .minidxF32 o => execMinidxF32 o s
  | .minidxF16 o => execMinidxF16 o s
  | .minidxBf16 o => execMinidxBf16 o s
  | .kand o => execKand o s
  | .kor o => execKor o s
  | .kxor o => execKxor o s
  | .kandn o => execKandn o s
  | .knot o => execKnot o s
  | .kpop o => execKpop o s
  | .kffs o => execKffs o s
  | .kmov o => execKmov o s
  | .vbcast o => execVbcast o s
  | .vread o => execVread o s
  | .kget o => execKget o s
  | .kset o => execKset o s
  | .emget o => execEmget o s
  | .emset o => execEmset o s
  | .emand o => execEmand o s
  | .sadd o => execSadd o s
  | .ssub o => execSsub o s
  | .smul o => execSmul o s
  | .sand o => execSand o s
  | .sor o => execSor o s
  | .sxor o => execSxor o s
  | .sshl o => execSshl o s
  | .sshr o => execSshr o s
  | .saddi o => execSaddi o s
  | .sandi o => execSandi o s
  | .sori o => execSori o s
  | .smovi o => execSmovi o s
  | .sshli o => execSshli o s
  | .sshri o => execSshri o s
  | .ssari o => execSsari o s
  | .sld64 o => execSld64 o s
  | .sld32 o => execSld32 o s
  | .sst64 o => execSst64 o s
  | .sst32 o => execSst32 o s
  | .slda o => execSlda o s
  | .sstl o => execSstl o s
  | .ld o => execLd o s
  | .st o => execSt o s
  | .atom o => execAtom o s
  | .lda o => execLda o s
  | .stl o => execStl o s
  | .fenceFull o => execFenceFull o s
  | .fenceAcq o => execFenceAcq o s
  | .fenceRel o => execFenceRel o s
  | .fenceEng o => execFenceEng o s
  | .pgreq o => execPgreq o s
  | .pfch o => execPfch o s
  | .bld o => execBld o s
  | .bst o => execBst o s
  | .batom o => execBatom o s
  | .bxnew o => execBxnew o s
  | .bxfree o => execBxfree o s
  | .bxgive o => execBxgive o s
  | .bxtake o => execBxtake o s
  | .bxlend o => execBxlend o s
  | .settle o => execSettle o s
  | .bxinfo o => execBxinfo o s
  | .bxrecall o => execBxrecall o s
  | .cpy o => execCpy o s
  | .cpyx o => execCpyx o s
  | .cpyq o => execCpyq o s
  | .xsend o => execXsend o s
  | .xrecv o => execXrecv o s
  | .xred o => execXred o s
  | .chwa o => execChwa o s
  | .chwl o => execChwl o s
  | .chff o => execChff o s
  | .chclr o => execChclr o s
  | .chget o => execChget o s
  | .chset o => execChset o s
  | .sqmint o => execSqmint o s
  | .sqres o => execSqres o s
  | .sqcom o => execSqcom o s
  | .sqlen o => execSqlen o s
  | .sqwait o => execSqwait o s
  | .sqfork o => execSqfork o s
  | .sqbind o => execSqbind o s
  | .sqdrop o => execSqdrop o s
  | .sqext o => execSqext o s
  | .sqsum o => execSqsum o s
  | .sqaddr o => execSqaddr o s
  | .sqinfo o => execSqinfo o s
  | .menc o => execMenc o s
  | .mdec o => execMdec o s
  | .mpost o => execMpost o s
  | .mma o => execMma o s
  | .mmb o => execMmb o s
  | .mzero o => execMzero o s
  | .mdrain o => execMdrain o s
  | .mstore o => execMstore o s
  | .mscale o => execMscale o s
  | .mwait o => execMwait o s
  | .msig o => execMsig o s
  | .mpick o => execMpick o s
  | .mrel o => execMrel o s
  | .bk o => execBk o s
  | .bkany o => execBkany o s
  | .bkall o => execBkall o s
  | .bknone o => execBknone o s
  | .bs o => execBs o s
  | .jmp o => execJmp o s
  | .call o => execCall o s
  | .jmpr o => execJmpr o s
  | .callr o => execCallr o s
  | .ret => execRet s
  | .join o => execJoin o s
  | .exit => execExit s
  | .yield => execYield s
  | .brkp o => execBrkp o s
  | .watch o => execWatch o s
  | .tbarArrive o => execTbarArrive o s
  | .tbarWait o => execTbarWait o s
  | .tbarSync o => execTbarSync o s
  | .cbarArrive o => execCbarArrive o s
  | .cbarWait o => execCbarWait o s
  | .cbarSync o => execCbarSync o s
  | .gbarSync o => execGbarSync o s
  | .trap o => execTrap o s
  | .tret o => execTret o s
  | .tfence => execTfence s
  | .sget o => execSget o s
  | .sset o => execSset o s
  | .dload o => execDload o s
  | .dfence => execDfence s
  | .dget o => execDget o s
  | .prof o => execProf o s
  | .fltget o => execFltget o s
  | .fltgetMask o => execFltgetMask o s
  | _ => onPart s fun _ _ _ => undef s

/-- The entry that a reference of a part is decoded against: the one it already has while it waits (R57), the table as it
stands after a retry (R54), else one of the states that R57 leaves open. -/
def refEntry (s : State) (pid : Nat) (entry : BitVec 7) : DictEntry :=
  let pl := placeOf s (.part pid)
  let entryOf (t : DictTable) : DictEntry := Cells.get ⟨0, false⟩ entry.toNat t.entries
  match Cells.get? pid s.parts with
  | none => entryOf (ctxTable s pl.core pl.ctx)
  | some p => match p.thr.ref with
    | .held pc n e => if pc = p.thr.pc ∧ n = entry then e else entryOf (refTable s p pl.core pl.ctx)
    | .now pc => entryOf (if pc = p.thr.pc then ctxTable s pl.core pl.ctx else refTable s p pl.core pl.ctx)
    | .free => entryOf (refTable s p pl.core pl.ctx)
/-- A reference that will be executed again keeps the entry it was decoded against; any other forgets it (R57), unless the filled
instruction itself has set how the next one is decoded (R54). -/
def holdRef (pid : Nat) (old : Thread) (entry : BitVec 7) (e : DictEntry) (s : State) : State :=
  setPart pid (fun p => { p with thr := { p.thr with
    ref := if decodesAgain p.thr.wait = true ∧ p.thr.stop = .running ∧ p.thr.pc = old.pc then .held old.pc entry e
      else if p.thr.ref = old.ref then .free else p.thr.ref } }) s
/-- What a reference of a part executes once its entry is read (R53): DICT where the entry is undefined, POISON where it is
poisoned (R372), UNDEF where the filled word is, else the filled instruction. -/
def runEntry (o : OpRef) (e : DictEntry) (s : State) : Host.Outcome State Fault Refusal :=
  if e.poison then onPart s fun pid _ _ => .keep (takeTrap (.part pid) s.iss.len dictPoison s)
  else if !entryDef e.val then onPart s fun _ _ _ => .trap s (Trap.plain cDICT (o.entry.setWidth 8))
  else
    match decode32 (fillEntry e.val o.ha o.hb) with
    | .error _ => onPart s fun _ _ _ => .trap s (Trap.plain cUNDEF (o.entry.setWidth 8))
    | .ok i => perform i { s with iss := ⟨s.iss.len, some o.entry⟩ }
/-- A dictionary reference (R53): what its entry gives, with length 2 and the reference's PC. Each cause comes in the order of R46,
before any of the filled instruction. A sequencer context raises UNDEF with the entry index (R40, R354). -/
def execDictionaryReference (o : OpRef) (s : State) : Host.Outcome State Fault Refusal :=
  match s.agent with
  | .none => .fault .noAgent
  | .seq _ => onPart { s with iss := ⟨s.iss.len, some o.entry⟩ } fun _ _ _ => undef s
  | .part pid =>
    let e := refEntry s pid o.entry
    match runEntry o e s with
    | .next t => .next (match Cells.get? pid s.parts with
        | some p => holdRef pid p.thr o.entry e t
        | none => t)
    | .fault f => .fault f
    | .refused r => .refused r

end Sys2Proof.Machine
end

