-- ==== Sys2Proof/Machine/Scrub.lean ====
section
/-!
DEFINITION. Soft errors that a scrubber finds (R371, R373): the granule is poisoned, counted and recorded.
-/

namespace Sys2Proof.Machine

/-! ### Records and counts -/

/-- A count in the header of a management log, saturating (R363, R373). -/
def countLog (p : BitVec 6) (off : Nat) (s : State) : State :=
  let f := fnOf s p
  if !f.mlen_ then s
  else match reach s p 0 .deviceWrite f.mlbase.toNat 64 with
    | .phys s h _ _ _ =>
      if (poisonedAt s h 64).isSome then s else
      let n := memNat s.mem (h + off) 4
      homeWrite 0 (h + off) (toBytes 4 (if n + 1 < 2 ^ 32 then n + 1 else n)) s
    | _ => noteRing p f.mlbase.toNat f.mllog.toNat s
/-- W1 to W7 of a KIND 5 record (R364, R365; DEDUCED, log entry 26): the POISON cause, the context, the page and the address. What names
a core, a group, a team or a lane is 0, and so is the address of a granule of a box (DESIGN CHOICE, log entry 26). -/
def kind5 (detail : BitVec 8) (ctx page size addr : Nat) : List DWord :=
  [recW1 cPOISON detail 5 0 0 0 false false 0 (pgszCode size) 0 0 ctx, 0, 0, BitVec.ofNat 64 (page % 2 ^ 56), 0,
   BitVec.ofNat 64 (addr % 2 ^ 56), 0]
/-- A KIND 5 record in a context's fault ring (R365). -/
def ringNote (c : Nat) (detail : BitVec 8) (s : State) : State :=
  ctxWrite c ⟨s.nextId, ctxPart s c, some c, kind5 detail c 0 4096 0, []⟩ s

/-! ### Locations -/

/-- The partition and the virtual address of a byte of HBM4: its page's base and size, or those of a sequence's slot. -/
def ownerOf (s : State) (pa : Nat) : Option (BitVec 6 × Nat × Nat × Nat) :=
  match s.frames.find? fun f => decide (f.1 ≤ pa) && decide (pa < f.1 + f.2.size) with
  | none => none
  | some f =>
    let p := f.2.part
    let page := (parOf? s p).bind fun t => t.pages.findSome? fun q => match q.2.state with
      | .device ph => if ph ≤ pa ∧ pa < ph + q.2.size then some (p, q.1, q.2.size, q.1 + (pa - ph)) else none
      | _ => none
    let slot := s.sqs.findSome? fun q => if q.part ≠ p then none else
      q.segs.findSome? fun g =>
        let at_ := (g.2.mapIdx fun i a => (i, a)).find? fun x => decide (x.2 ≤ pa) && decide (pa < x.2 + segPiece q.cfg)
        at_.map fun x =>
          let va := q.win + g.1 * segBytes q.cfg + x.1 * segPiece q.cfg + (pa - x.2)
          (p, (pageBase s p va).1, (pageBase s p va).2, va)
    match page with
    | some r => some r
    | none => some (slot.getD (p, 0, 4096, 0))
/-- The cluster and key of a box by its core and slot. -/
def boxHome (s : State) (core slot : Nat) : Option (Nat × Nat × Nat) :=
  s.teams.findSome? fun t =>
    if t.2.core = core then
      let key := t.2.rank * 1024 + slot
      match Cells.get? t.2.uid s.clus with
      | some u => if (Cells.get? key u.boxes).isSome then some (t.2.uid, key, t.2.ctx) else none
      | none => none
    else none
/-- The partition that a location belongs to. -/
def scrubPart (s : State) : ScrubLoc → Option (BitVec 6)
  | .laneWord gid _ _ => ((Cells.get? gid s.groups).bind (groupTeam s)).map fun t => ctxPart s t.ctx
  | .uniform a _ => (agentCtx s a).map (ctxPart s)
  | .mask gid _ => ((Cells.get? gid s.groups).bind (groupTeam s)).map fun t => ctxPart s t.ctx
  | .accElem sc _ _ => (Cells.get? sc s.seqs).map fun q => ctxPart s q.ctx
  | .dictEntry core _ => (coreOf s core).tableCtx.map (ctxPart s)
  | .sector pa => (ownerOf s pa).map fun r => r.1
  | .copySector die pa => (s.copies.find? fun c => c.die == die && c.line == pa / 128).map DieCopy.part
  | .boxGranule core slot _ _ => (boxHome s core slot).map fun r => ctxPart s r.2.2
  | .queueEntry quad q _ => (Cells.get? (quad * 8 + q / 2) s.seqs).map fun x => ctxPart s x.ctx
  | .fifoEntry quad i => ((quadOf s quad).fifo[i]?).map fun e => ctxPart s e.ctx
  | .control c => (ctxOf? s c).map Context.part
  | .tableLine p _ => (parOf? s p).map fun _ => p
  | .tlbEntry quad i => ((quadOf s quad).tlb[i]?).map fun e => ctxPart s e.ctx
/-- The mark of an entry of a list. -/
def markAt {α : Type} (i : Nat) (f : α → α) (l : List α) : List α := l.mapIdx fun j x => if j = i then f x else x
/-- A list with an element, once. -/
def addOnce (n : Nat) (l : List Nat) : List Nat := if l.contains n then l else l ++ [n]

/-- After an error at a home, a queued store covers the sector with the stores of its instruction only where they are all still in the
queue. -/
def stillWhole (s : State) (q : Nat) (x : PStore) : PStore :=
  { x with whole := x.whole && (decide (x.addr / 32 * 32 ≠ q) || coversGranule 32
      ((s.stores.filter fun y => y.core == x.core && y.instr == x.instr && !y.peer).map fun y => (y.addr, y.data.length)) q) }
/-- An uncorrectable error (R371, R373): the mark, then the record. A die's copy of a line has marks of its own. -/
def poisonLoc (loc : ScrubLoc) (s : State) : State :=
  match loc with
  | .laneWord gid phys l =>
    let s' := setGroup gid (fun g =>
      { g with lanes := Cells.insert (phys * 64 + l) { Cells.get LaneWord.zero (phys * 64 + l) g.lanes with poison := true } g.lanes }) s
    (match (Cells.get? gid s.groups).bind (groupTeam s) with
     | some t => ringNote t.ctx 0x01 s'
     | none => s)
  | .uniform a r =>
    let s' := setThread a (fun t => { t with sregs := Cells.insert r { sregOf t r with poison := true } t.sregs }) s
    (match agentCtx s a with
     | some c => ringNote c 0x01 s'
     | none => s)
  | .mask gid r =>
    let s' := setGroup gid (fun g => { g with maskPoison := addOnce r g.maskPoison }) s
    (match (Cells.get? gid s.groups).bind (groupTeam s) with
     | some t => ringNote t.ctx 0x01 s'
     | none => s)
  | .accElem sc a e =>
    (match Cells.get? sc s.seqs with
     | some q => ringNote q.ctx 0x01 (setSeq sc (fun q => { q with accPoison := addOnce (a * 4096 + e) q.accPoison }) s)
     | none => s)
  | .dictEntry core e =>
    (match (coreOf s core).tableCtx with
     | some c => mlRecord (ctxPart s c) (kind5 0x05 c 0 4096 0) (setCore core (fun k =>
        { k with table := { k.table with
            entries := Cells.insert e { Cells.get ⟨0, false⟩ e k.table.entries with poison := true } k.table.entries } }) s)
     | none => s)
  | .sector pa =>
    let q := pa / 32 * 32
    (match ownerOf s q with
     | some (p, page, size, va) => mlRecord p (kind5 0x02 0 page size va)
        { s with poison := marksAfter .set q 0 s.poison, stores := s.stores.map (stillWhole s q) }
     | none => s)
  | .copySector die pa =>
    let q := pa / 32 * 32
    (match ownerOf s q with
     | some (p, page, size, va) => mlRecord p (kind5 0x02 0 page size va)
        { s with copies := s.copies.map fun c =>
            if c.die = die ∧ c.line = pa / 128 then { c with data := c.data.write .set (q % 128) [] } else c }
     | none => s)
  | .boxGranule core slot off esc =>
    let g := off / 8 * 8
    (match boxHome s core slot with
     | some (uid, key, c) => ringNote c 0x04 (setBox uid key (fun b =>
        if esc then { b with backPoison := addOnce g b.backPoison } else { b with frontPoison := addOnce g b.frontPoison }) s)
     | none => s)
  | .queueEntry quad q i =>
    (match ((queueOf s quad q)[i]?).bind fun _ => Cells.get? (quad * 8 + q / 2) s.seqs with
     | some x => mlRecord (ctxPart s x.ctx) (kind5 0x01 x.ctx 0 4096 0)
        (setQueue quad q (markAt i fun e => { e with poison := true }) s)
     | none => s)
  | .fifoEntry quad i =>
    (match (quadOf s quad).fifo[i]? with
     | some e => mlRecord (ctxPart s e.ctx) (kind5 0x01 e.ctx 0 4096 0)
        (setQuad quad (fun k => { k with fifo := markAt i (fun e => { e with poison := true }) k.fifo }) s)
     | none => s)
  | .control c => killCtx c 0x04 s
  | .tableLine p va =>
    let b := pageBase s p va
    if s.tablePoison.contains (p, b.1) then s
    else mlRecord p (kind5 0x06 0 b.1 b.2 b.1) { s with tablePoison := s.tablePoison ++ [(p, b.1)] }
  | .tlbEntry _ _ => s
/-- A parity error in a TLB: the entry is discarded, and the walk is made again (R371). -/
def dropTlb (quad i : Nat) (s : State) : State := setQuad quad (fun k => { k with tlb := k.tlb.eraseIdx i }) s

/-- SCRUBBER_READ (R371, R373): a correctable error is repaired in place; every event of a partition is counted in its log. An entry of
a TLB is lost without loss: it counts as corrected (DEDUCED, log entry 26). -/
def execScrubberRead (loc : ScrubLoc) (err : SoftError) (s : State) : Host.Outcome State Fault Refusal :=
  .next (match scrubPart s loc with
    | none => s
    | some p => match loc, err with
      | _, .clean => s
      | .tlbEntry quad i, _ => dropTlb quad i (countLog p 32 s)
      | _, .correctable => countLog p 32 s
      | _, .uncorrectable => poisonLoc loc (countLog p 36 s))

end Sys2Proof.Machine
end

