-- ==== Sys2Proof/Machine/Dispatch.lean ====
section
/-!
DEFINITION. The dispatcher: one arm per operation of the table, each a direct call of its meaning.
-/

namespace Sys2Proof.Machine

def exec (i : Instr) (s : State) : Host.Outcome State Fault Refusal :=
  match i with
  | .compactMov o => Sys2Proof.Machine.execCompactMov o s
  | .compactIadd o => Sys2Proof.Machine.execCompactIadd o s
  | .compactIsub o => Sys2Proof.Machine.execCompactIsub o s
  | .compactImul o => Sys2Proof.Machine.execCompactImul o s
  | .compactAnd o => Sys2Proof.Machine.execCompactAnd o s
  | .compactOr o => Sys2Proof.Machine.execCompactOr o s
  | .compactXor o => Sys2Proof.Machine.execCompactXor o s
  | .compactShl o => Sys2Proof.Machine.execCompactShl o s
  | .compactShr o => Sys2Proof.Machine.execCompactShr o s
  | .compactSar o => Sys2Proof.Machine.execCompactSar o s
  | .compactIminI32 o => Sys2Proof.Machine.execCompactIminI32 o s
  | .compactImaxI32 o => Sys2Proof.Machine.execCompactImaxI32 o s
  | .compactFadd o => Sys2Proof.Machine.execCompactFadd o s
  | .compactFsub o => Sys2Proof.Machine.execCompactFsub o s
  | .compactFmul o => Sys2Proof.Machine.execCompactFmul o s
  | .compactFmax o => Sys2Proof.Machine.execCompactFmax o s
  | .dictionaryReference o => Sys2Proof.Machine.execDictionaryReference o s
  | .iadd o => Sys2Proof.Machine.execIadd o s
  | .isub o => Sys2Proof.Machine.execIsub o s
  | .iaddsatI32 o => Sys2Proof.Machine.execIaddsatI32 o s
  | .iaddsatN32 o => Sys2Proof.Machine.execIaddsatN32 o s
  | .imul o => Sys2Proof.Machine.execImul o s
  | .imulhI32 o => Sys2Proof.Machine.execImulhI32 o s
  | .imulhN32 o => Sys2Proof.Machine.execImulhN32 o s
  | .ineg o => Sys2Proof.Machine.execIneg o s
  | .iminI32 o => Sys2Proof.Machine.execIminI32 o s
  | .iminN32 o => Sys2Proof.Machine.execIminN32 o s
  | .imaxI32 o => Sys2Proof.Machine.execImaxI32 o s
  | .imaxN32 o => Sys2Proof.Machine.execImaxN32 o s
  | .and o => Sys2Proof.Machine.execAnd o s
  | .or o => Sys2Proof.Machine.execOr o s
  | .xor o => Sys2Proof.Machine.execXor o s
  | .andn o => Sys2Proof.Machine.execAndn o s
  | .shl o => Sys2Proof.Machine.execShl o s
  | .shr o => Sys2Proof.Machine.execShr o s
  | .sar o => Sys2Proof.Machine.execSar o s
  | .rotl o => Sys2Proof.Machine.execRotl o s
  | .clz o => Sys2Proof.Machine.execClz o s
  | .popc o => Sys2Proof.Machine.execPopc o s
  | .brev o => Sys2Proof.Machine.execBrev o s
  | .not o => Sys2Proof.Machine.execNot o s
  | .bfxN32 o => Sys2Proof.Machine.execBfxN32 o s
  | .bfxI32 o => Sys2Proof.Machine.execBfxI32 o s
  | .bfi o => Sys2Proof.Machine.execBfi o s
  | .sel o => Sys2Proof.Machine.execSel o s
  | .mov o => Sys2Proof.Machine.execMov o s
  | .lea1 o => Sys2Proof.Machine.execLea1 o s
  | .lea2 o => Sys2Proof.Machine.execLea2 o s
  | .lea3 o => Sys2Proof.Machine.execLea3 o s
  | .imad o => Sys2Proof.Machine.execImad o s
  | .icmpI32 o => Sys2Proof.Machine.execIcmpI32 o s
  | .icmpN32 o => Sys2Proof.Machine.execIcmpN32 o s
  | .iaddi o => Sys2Proof.Machine.execIaddi o s
  | .andi o => Sys2Proof.Machine.execAndi o s
  | .ori o => Sys2Proof.Machine.execOri o s
  | .xori o => Sys2Proof.Machine.execXori o s
  | .shfi o => Sys2Proof.Machine.execShfi o s
  | .movi o => Sys2Proof.Machine.execMovi o s
  | .movw o => Sys2Proof.Machine.execMovw o s
  | .movwHi o => Sys2Proof.Machine.execMovwHi o s
  | .fadd o => Sys2Proof.Machine.execFadd o s
  | .fsub o => Sys2Proof.Machine.execFsub o s
  | .fmul o => Sys2Proof.Machine.execFmul o s
  | .fdiv o => Sys2Proof.Machine.execFdiv o s
  | .fmin o => Sys2Proof.Machine.execFmin o s
  | .fmax o => Sys2Proof.Machine.execFmax o s
  | .fminn o => Sys2Proof.Machine.execFminn o s
  | .fmaxn o => Sys2Proof.Machine.execFmaxn o s
  | .ffma o => Sys2Proof.Machine.execFfma o s
  | .fnma o => Sys2Proof.Machine.execFnma o s
  | .pfmaBf16x2 o => Sys2Proof.Machine.execPfmaBf16x2 o s
  | .pfmaF16x2 o => Sys2Proof.Machine.execPfmaF16x2 o s
  | .fsqrt o => Sys2Proof.Machine.execFsqrt o s
  | .frcp o => Sys2Proof.Machine.execFrcp o s
  | .frsq o => Sys2Proof.Machine.execFrsq o s
  | .exp2 o => Sys2Proof.Machine.execExp2 o s
  | .fneg o => Sys2Proof.Machine.execFneg o s
  | .fabs o => Sys2Proof.Machine.execFabs o s
  | .fclass o => Sys2Proof.Machine.execFclass o s
  | .fround o => Sys2Proof.Machine.execFround o s
  | .fcmpF32 o => Sys2Proof.Machine.execFcmpF32 o s
  | .fcmpF16 o => Sys2Proof.Machine.execFcmpF16 o s
  | .fcmpBf16 o => Sys2Proof.Machine.execFcmpBf16 o s
  | .fcvt o => Sys2Proof.Machine.execFcvt o s
  | .paddBf16x2 o => Sys2Proof.Machine.execPaddBf16x2 o s
  | .paddF16x2 o => Sys2Proof.Machine.execPaddF16x2 o s
  | .pmulBf16x2 o => Sys2Proof.Machine.execPmulBf16x2 o s
  | .pmulF16x2 o => Sys2Proof.Machine.execPmulF16x2 o s
  | .pk2h o => Sys2Proof.Machine.execPk2h o s
  | .fscale o => Sys2Proof.Machine.execFscale o s
  | .bexp o => Sys2Proof.Machine.execBexp o s
  | .bcvt o => Sys2Proof.Machine.execBcvt o s
  | .badd o => Sys2Proof.Machine.execBadd o s
  | .bfin o => Sys2Proof.Machine.execBfin o s
  | .shflIdx o => Sys2Proof.Machine.execShflIdx o s
  | .shflXor o => Sys2Proof.Machine.execShflXor o s
  | .shflUp o => Sys2Proof.Machine.execShflUp o s
  | .shflDown o => Sys2Proof.Machine.execShflDown o s
  | .ballot o => Sys2Proof.Machine.execBallot o s
  | .topkMax o => Sys2Proof.Machine.execTopkMax o s
  | .topkMin o => Sys2Proof.Machine.execTopkMin o s
  | .redux o => Sys2Proof.Machine.execRedux o s
  | .scanInc o => Sys2Proof.Machine.execScanInc o s
  | .scanExc o => Sys2Proof.Machine.execScanExc o s
  | .maxidxF32 o => Sys2Proof.Machine.execMaxidxF32 o s
  | .maxidxF16 o => Sys2Proof.Machine.execMaxidxF16 o s
  | .maxidxBf16 o => Sys2Proof.Machine.execMaxidxBf16 o s
  | .minidxF32 o => Sys2Proof.Machine.execMinidxF32 o s
  | .minidxF16 o => Sys2Proof.Machine.execMinidxF16 o s
  | .minidxBf16 o => Sys2Proof.Machine.execMinidxBf16 o s
  | .kand o => Sys2Proof.Machine.execKand o s
  | .kor o => Sys2Proof.Machine.execKor o s
  | .kxor o => Sys2Proof.Machine.execKxor o s
  | .kandn o => Sys2Proof.Machine.execKandn o s
  | .knot o => Sys2Proof.Machine.execKnot o s
  | .kpop o => Sys2Proof.Machine.execKpop o s
  | .kffs o => Sys2Proof.Machine.execKffs o s
  | .kmov o => Sys2Proof.Machine.execKmov o s
  | .vbcast o => Sys2Proof.Machine.execVbcast o s
  | .vread o => Sys2Proof.Machine.execVread o s
  | .kget o => Sys2Proof.Machine.execKget o s
  | .kset o => Sys2Proof.Machine.execKset o s
  | .emget o => Sys2Proof.Machine.execEmget o s
  | .emset o => Sys2Proof.Machine.execEmset o s
  | .emand o => Sys2Proof.Machine.execEmand o s
  | .sadd o => Sys2Proof.Machine.execSadd o s
  | .ssub o => Sys2Proof.Machine.execSsub o s
  | .smul o => Sys2Proof.Machine.execSmul o s
  | .sand o => Sys2Proof.Machine.execSand o s
  | .sor o => Sys2Proof.Machine.execSor o s
  | .sxor o => Sys2Proof.Machine.execSxor o s
  | .sshl o => Sys2Proof.Machine.execSshl o s
  | .sshr o => Sys2Proof.Machine.execSshr o s
  | .saddi o => Sys2Proof.Machine.execSaddi o s
  | .sandi o => Sys2Proof.Machine.execSandi o s
  | .sori o => Sys2Proof.Machine.execSori o s
  | .smovi o => Sys2Proof.Machine.execSmovi o s
  | .sshli o => Sys2Proof.Machine.execSshli o s
  | .sshri o => Sys2Proof.Machine.execSshri o s
  | .ssari o => Sys2Proof.Machine.execSsari o s
  | .sld64 o => Sys2Proof.Machine.execSld64 o s
  | .sld32 o => Sys2Proof.Machine.execSld32 o s
  | .sst64 o => Sys2Proof.Machine.execSst64 o s
  | .sst32 o => Sys2Proof.Machine.execSst32 o s
  | .slda o => Sys2Proof.Machine.execSlda o s
  | .sstl o => Sys2Proof.Machine.execSstl o s
  | .ld o => Sys2Proof.Machine.execLd o s
  | .st o => Sys2Proof.Machine.execSt o s
  | .atom o => Sys2Proof.Machine.execAtom o s
  | .lda o => Sys2Proof.Machine.execLda o s
  | .stl o => Sys2Proof.Machine.execStl o s
  | .fenceFull o => Sys2Proof.Machine.execFenceFull o s
  | .fenceAcq o => Sys2Proof.Machine.execFenceAcq o s
  | .fenceRel o => Sys2Proof.Machine.execFenceRel o s
  | .fenceEng o => Sys2Proof.Machine.execFenceEng o s
  | .pgreq o => Sys2Proof.Machine.execPgreq o s
  | .pfch o => Sys2Proof.Machine.execPfch o s
  | .bld o => Sys2Proof.Machine.execBld o s
  | .bst o => Sys2Proof.Machine.execBst o s
  | .batom o => Sys2Proof.Machine.execBatom o s
  | .bxnew o => Sys2Proof.Machine.execBxnew o s
  | .bxfree o => Sys2Proof.Machine.execBxfree o s
  | .bxgive o => Sys2Proof.Machine.execBxgive o s
  | .bxtake o => Sys2Proof.Machine.execBxtake o s
  | .bxlend o => Sys2Proof.Machine.execBxlend o s
  | .settle o => Sys2Proof.Machine.execSettle o s
  | .bxinfo o => Sys2Proof.Machine.execBxinfo o s
  | .bxrecall o => Sys2Proof.Machine.execBxrecall o s
  | .cpy o => Sys2Proof.Machine.execCpy o s
  | .cpyx o => Sys2Proof.Machine.execCpyx o s
  | .cpyq o => Sys2Proof.Machine.execCpyq o s
  | .xsend o => Sys2Proof.Machine.execXsend o s
  | .xrecv o => Sys2Proof.Machine.execXrecv o s
  | .xred o => Sys2Proof.Machine.execXred o s
  | .chwa o => Sys2Proof.Machine.execChwa o s
  | .chwl o => Sys2Proof.Machine.execChwl o s
  | .chff o => Sys2Proof.Machine.execChff o s
  | .chclr o => Sys2Proof.Machine.execChclr o s
  | .chget o => Sys2Proof.Machine.execChget o s
  | .chset o => Sys2Proof.Machine.execChset o s
  | .sqmint o => Sys2Proof.Machine.execSqmint o s
  | .sqres o => Sys2Proof.Machine.execSqres o s
  | .sqcom o => Sys2Proof.Machine.execSqcom o s
  | .sqlen o => Sys2Proof.Machine.execSqlen o s
  | .sqwait o => Sys2Proof.Machine.execSqwait o s
  | .sqfork o => Sys2Proof.Machine.execSqfork o s
  | .sqbind o => Sys2Proof.Machine.execSqbind o s
  | .sqdrop o => Sys2Proof.Machine.execSqdrop o s
  | .sqext o => Sys2Proof.Machine.execSqext o s
  | .sqsum o => Sys2Proof.Machine.execSqsum o s
  | .sqaddr o => Sys2Proof.Machine.execSqaddr o s
  | .sqinfo o => Sys2Proof.Machine.execSqinfo o s
  | .menc o => Sys2Proof.Machine.execMenc o s
  | .mdec o => Sys2Proof.Machine.execMdec o s
  | .mpost o => Sys2Proof.Machine.execMpost o s
  | .mma o => Sys2Proof.Machine.execMma o s
  | .mmb o => Sys2Proof.Machine.execMmb o s
  | .mzero o => Sys2Proof.Machine.execMzero o s
  | .mdrain o => Sys2Proof.Machine.execMdrain o s
  | .mstore o => Sys2Proof.Machine.execMstore o s
  | .mscale o => Sys2Proof.Machine.execMscale o s
  | .mwait o => Sys2Proof.Machine.execMwait o s
  | .msig o => Sys2Proof.Machine.execMsig o s
  | .mpick o => Sys2Proof.Machine.execMpick o s
  | .mrel o => Sys2Proof.Machine.execMrel o s
  | .bk o => Sys2Proof.Machine.execBk o s
  | .bkany o => Sys2Proof.Machine.execBkany o s
  | .bkall o => Sys2Proof.Machine.execBkall o s
  | .bknone o => Sys2Proof.Machine.execBknone o s
  | .bs o => Sys2Proof.Machine.execBs o s
  | .jmp o => Sys2Proof.Machine.execJmp o s
  | .call o => Sys2Proof.Machine.execCall o s
  | .jmpr o => Sys2Proof.Machine.execJmpr o s
  | .callr o => Sys2Proof.Machine.execCallr o s
  | .ret => Sys2Proof.Machine.execRet s
  | .join o => Sys2Proof.Machine.execJoin o s
  | .exit => Sys2Proof.Machine.execExit s
  | .yield => Sys2Proof.Machine.execYield s
  | .brkp o => Sys2Proof.Machine.execBrkp o s
  | .watch o => Sys2Proof.Machine.execWatch o s
  | .tbarArrive o => Sys2Proof.Machine.execTbarArrive o s
  | .tbarWait o => Sys2Proof.Machine.execTbarWait o s
  | .tbarSync o => Sys2Proof.Machine.execTbarSync o s
  | .cbarArrive o => Sys2Proof.Machine.execCbarArrive o s
  | .cbarWait o => Sys2Proof.Machine.execCbarWait o s
  | .cbarSync o => Sys2Proof.Machine.execCbarSync o s
  | .gbarSync o => Sys2Proof.Machine.execGbarSync o s
  | .trap o => Sys2Proof.Machine.execTrap o s
  | .tret o => Sys2Proof.Machine.execTret o s
  | .tfence => Sys2Proof.Machine.execTfence s
  | .sget o => Sys2Proof.Machine.execSget o s
  | .sset o => Sys2Proof.Machine.execSset o s
  | .dload o => Sys2Proof.Machine.execDload o s
  | .dfence => Sys2Proof.Machine.execDfence s
  | .dget o => Sys2Proof.Machine.execDget o s
  | .prof o => Sys2Proof.Machine.execProf o s
  | .fltget o => Sys2Proof.Machine.execFltget o s
  | .fltgetMask o => Sys2Proof.Machine.execFltgetMask o s
  | .registerWrite f off val => Sys2Proof.Machine.execRegisterWrite f off val s
  | .vfEnable on => Sys2Proof.Machine.execVfEnable on s
  | .getTdispVersion p => Sys2Proof.Machine.execGetTdispVersion p s
  | .getTdispCapabilities p => Sys2Proof.Machine.execGetTdispCapabilities p s
  | .lockInterface p => Sys2Proof.Machine.execLockInterface p s
  | .getDeviceInterfaceReport p => Sys2Proof.Machine.execGetDeviceInterfaceReport p s
  | .getDeviceInterfaceState p => Sys2Proof.Machine.execGetDeviceInterfaceState p s
  | .startInterface p => Sys2Proof.Machine.execStartInterface p s
  | .stopInterface p => Sys2Proof.Machine.execStopInterface p s
  | .leaveScrub p => Sys2Proof.Machine.execLeaveScrub p s
  | .ideKm p => Sys2Proof.Machine.execIdeKm p s
  | .ideIntegrityFailure p => Sys2Proof.Machine.execIdeIntegrityFailure p s
  | .getVersion f => Sys2Proof.Machine.execGetVersion f s
  | .getCapabilities f => Sys2Proof.Machine.execGetCapabilities f s
  | .negotiateAlgorithms f => Sys2Proof.Machine.execNegotiateAlgorithms f s
  | .getDigests f => Sys2Proof.Machine.execGetDigests f s
  | .getCertificate f => Sys2Proof.Machine.execGetCertificate f s
  | .challenge f => Sys2Proof.Machine.execChallenge f s
  | .getMeasurements f => Sys2Proof.Machine.execGetMeasurements f s
  | .keyExchange f => Sys2Proof.Machine.execKeyExchange f s
  | .finish f => Sys2Proof.Machine.execFinish f s
  | .endSession f => Sys2Proof.Machine.execEndSession f s
  | .vendorDefinedRequest f => Sys2Proof.Machine.execVendorDefinedRequest f s
  | .keyRotationRequest p => Sys2Proof.Machine.execKeyRotationRequest p s
  | .frameReencrypt p frame => Sys2Proof.Machine.execFrameReencrypt p frame s
  | .debugPolicy p pol => Sys2Proof.Machine.execDebugPolicy p pol s
  | .checkpointPermit p on => Sys2Proof.Machine.execCheckpointPermit p on s
  | .checkpointKeySupply p key => Sys2Proof.Machine.execCheckpointKeySupply p key s
  | .partitionCreate p => Sys2Proof.Machine.execPartitionCreate p s
  | .partitionDestroy p => Sys2Proof.Machine.execPartitionDestroy p s
  | .assignQuads p quads => Sys2Proof.Machine.execAssignQuads p quads s
  | .setQuantum p us => Sys2Proof.Machine.execSetQuantum p us s
  | .setPoolSize p bytes => Sys2Proof.Machine.execSetPoolSize p bytes s
  | .firmwareUpdate img => Sys2Proof.Machine.execFirmwareUpdate img s
  | .deviceStart => Sys2Proof.Machine.execDeviceStart s
  | .lqctlWrite p q val => Sys2Proof.Machine.execLqctlWrite p q val s
  | .lqprodWrite p q val => Sys2Proof.Machine.execLqprodWrite p q val s
  | .launchFetch p q => Sys2Proof.Machine.execLaunchFetch p q s
  | .launchAdmit p q => Sys2Proof.Machine.execLaunchAdmit p q s
  | .clusterPlace ctx => Sys2Proof.Machine.execClusterPlace ctx s
  | .launchComplete ctx => Sys2Proof.Machine.execLaunchComplete ctx s
  | .doneWrite id => Sys2Proof.Machine.execDoneWrite id s
  | .mcmdReserve p val => Sys2Proof.Machine.execMcmdReserve p val s
  | .mcmdUnmap p val => Sys2Proof.Machine.execMcmdUnmap p val s
  | .mcmdProtect p val => Sys2Proof.Machine.execMcmdProtect p val s
  | .mcmdAdmit p val => Sys2Proof.Machine.execMcmdAdmit p val s
  | .mcmdReclaim p val => Sys2Proof.Machine.execMcmdReclaim p val s
  | .mcmdInval p val => Sys2Proof.Machine.execMcmdInval p val s
  | .mcmdExport p val => Sys2Proof.Machine.execMcmdExport p val s
  | .mcmdImport p val => Sys2Proof.Machine.execMcmdImport p val s
  | .mcmdRefusedOp p val => Sys2Proof.Machine.execMcmdRefusedOp p val s
  | .mcmdComplete p => Sys2Proof.Machine.execMcmdComplete p s
  | .mlctlWrite p val => Sys2Proof.Machine.execMlctlWrite p val s
  | .killContext p val => Sys2Proof.Machine.execKillContext p val s
  | .resumePart p val => Sys2Proof.Machine.execResumePart p val s
  | .resumeSequencerContext p val => Sys2Proof.Machine.execResumeSequencerContext p val s
  | .ccmdRefusedOp p val => Sys2Proof.Machine.execCcmdRefusedOp p val s
  | .checkpoint val => Sys2Proof.Machine.execCheckpoint val s
  | .checkpointComplete => Sys2Proof.Machine.execCheckpointComplete s
  | .restore val => Sys2Proof.Machine.execRestore val s
  | .restoreComplete => Sys2Proof.Machine.execRestoreComplete s
  | .checkpointAbort val => Sys2Proof.Machine.execCheckpointAbort val s
  | .linkFailure port => Sys2Proof.Machine.execLinkFailure port s
  | .debugStop p val => Sys2Proof.Machine.execDebugStop p val s
  | .debugResume p val => Sys2Proof.Machine.execDebugResume p val s
  | .debugStep p val => Sys2Proof.Machine.execDebugStep p val s
  | .armBreakpoints p val => Sys2Proof.Machine.execArmBreakpoints p val s
  | .disarmBreakpoints p val => Sys2Proof.Machine.execDisarmBreakpoints p val s
  | .dbgregAccess p val => Sys2Proof.Machine.execDbgregAccess p val s
  | .dbgmemAccess p val => Sys2Proof.Machine.execDbgmemAccess p val s
  | .priResponse p va ok => Sys2Proof.Machine.execPriResponse p va ok s
  | .peerAccess a => Sys2Proof.Machine.execPeerAccess a s
  | .peerAuthentication dev ok => Sys2Proof.Machine.execPeerAuthentication dev ok s
  | .dataLanding ticket => Sys2Proof.Machine.execDataLanding ticket s
  | .homeWrite ticket => Sys2Proof.Machine.execHomeWrite ticket s
  | .dieCopyUpdate ticket => Sys2Proof.Machine.execDieCopyUpdate ticket s
  | .l1LineExpiry core ctx line => Sys2Proof.Machine.execL1LineExpiry core ctx line s
  | .tellerApply ctx => Sys2Proof.Machine.execTellerApply ctx s
  | .passGrant quad => Sys2Proof.Machine.execPassGrant quad s
  | .passComplete sc => Sys2Proof.Machine.execPassComplete sc s
  | .engineOpComplete sc op => Sys2Proof.Machine.execEngineOpComplete sc op s
  | .commandComplete ticket => Sys2Proof.Machine.execCommandComplete ticket s
  | .outlierQueuePush ticket => Sys2Proof.Machine.execOutlierQueuePush ticket s
  | .quantumBoundary p => Sys2Proof.Machine.execQuantumBoundary p s
  | .bankSwap unit => Sys2Proof.Machine.execBankSwap unit s
  | .unitSaved unit => Sys2Proof.Machine.execUnitSaved unit s
  | .reseatExchange core => Sys2Proof.Machine.execReseatExchange core s
  | .monitorWake who => Sys2Proof.Machine.execMonitorWake who s
  | .barrierComplete b => Sys2Proof.Machine.execBarrierComplete b s
  | .wedgeDetect ctx => Sys2Proof.Machine.execWedgeDetect ctx s
  | .sequencerContextAutoEnd sc => Sys2Proof.Machine.execSequencerContextAutoEnd sc s
  | .pendingRecordWrite id => Sys2Proof.Machine.execPendingRecordWrite id s
  | .scrubberRead loc err => Sys2Proof.Machine.execScrubberRead loc err s
  | .thermalLimit => Sys2Proof.Machine.execThermalLimit s
  | .thermalResume => Sys2Proof.Machine.execThermalResume s
  | .thermalSaveTimeout unit => Sys2Proof.Machine.execThermalSaveTimeout unit s
  | .linkCrcError link => Sys2Proof.Machine.execLinkCrcError link s
  | .ualinkPortRestored port => Sys2Proof.Machine.execUalinkPortRestored port s
  | .peerCollectiveArrival a => Sys2Proof.Machine.execPeerCollectiveArrival a s
  | .hostMemoryAccess a => Sys2Proof.Machine.execHostMemoryAccess a s

end Sys2Proof.Machine
end

