-- ==== Sys2Proof/Machine/Load.lean ====
section
/-!
DEFINITION. A program placed from outside (DESIGN CHOICE, log entry 3): the smallest launch that lets the next step fetch a given word.
-/

namespace Sys2Proof.Machine

/-- Bytes of a word of the table at an address: the bits above `nbits` are 0, up to the longest instruction. -/
def wordAt (nbits w : Nat) : List Byte := toBytes 4 (w % 2 ^ nbits)

/-- The launch of a placed program: every barrier may be named. -/
def placedLaunch : Launch :=
  { entry := 0x1000, dict := 0, args := 0, seqEntry := 0x1000, w := 64, groups := 1, vregs := 64, shape := 0, seqCtx := 1,
    tbars := 16, cbars := 8, gbars := 8, qos := 0, det := false, coop := true, extwake := false, notify := false,
    after := false, chits := 1, teams := 4, boxq := 0, tvec := 0, place := 0, order := 0, nord := 0, done := 0, fring := 0,
    frlog := 6, tag := 0 }
/-- Its context. -/
def placedContext : Context :=
  { part := 0, queue := 0, index := 0, lr := placedLaunch, tvec := 0, level := 0, serial := 0, unplaced := 1, exitedTeams := 0,
    tellerNext := 0, waitedQ := 0, sinceQ := 0, ordered := [], placeMap := [], image := [], gbars := [], killed := none,
    armed := false, dbgStop := false, steps := [] }
/-- Its cluster. -/
def placedCluster : Cluster :=
  { ctx := 0, number := 0, die := 0, qx := 0, qy := 0, res := .resident, waited := 0, held := 0, since := 0, evicts := [], cbars := [], boxes := [],
    gens := [] }
/-- Its team. -/
def placedTeam : Team :=
  { ctx := 0, uid := 0, index := 0, rank := 0, core := 0, tslot := 0, chit0 := 0, chitN := 1, cls := [], tbars := [], chr := 0,
    cherr := 0, staged := [], view := [], through := false, undo := [], saved := none, exited := false, applied := false }
/-- Its group. -/
def placedGroup : Group :=
  { tid := 0, grp := 0, gslot := 0, w := 64, vregs := 64, groups := 1, lanes := [], masks := [],
    maskPoison := [], afl := 0, aen := 0, ovf := 0, takeq := [], gone := 0, exited := false }
/-- Its part. -/
def placedPart : Part :=
  { gid := 0, thr := Thread.fresh 0x1000 [], own := BitVec.allOnes 64, em := BitVec.allOnes 64, wb := 0, wsp := 0, spc := 0,
    wstack := [], tstack := [], priv := false, unfenced := false, fenced := 0, pend := [], latch := none, seated := true, issued := 0,
    last := 0 }
/-- Its sequencer context. -/
def placedSeq : SeqCtx :=
  { ctx := 0, uid := 0, thr := Thread.fresh 0x1000 [], afl := 0, aen := 0, ovf := 0, acc := [], accPoison := [], ops := [],
    savedQueues := [], savedFifo := [], popped := [], ending := false, ended := false }
/-- The page of its code, mapped for fetch and read (R37). -/
def placedPage : Page := { size := 4096, rd := true, wr := false, ex := true, kind := .ordinary, state := .device 0 }

/-- A word whose major only a sequencer context executes (R48). -/
def seqMajor (w : Nat) : Bool := w % 128 == 0x6D || w % 128 == 0x6F

/-- The smallest launch whose next instruction is a given word, with its agent next. -/
def placeWord (s : State) (nbits w : Nat) : State :=
  let code := memWrite s.mem 0 (wordAt nbits w)
  let par := { Partition.zero with tdi := .run, quads := [0], pool := 2097152, pages := [(0x1000, placedPage)] }
  let inbox := Turn.agent (if seqMajor w then .seq 0 else .part 0) :: s.inbox
  { s with
    inbox := inbox
    cores := Cells.put Core.zero 0 { coreOf s 0 with l1i := [] } s.cores
    mem := code
    poison := s.poison.filter fun q => decide (4096 ≤ q)
    tablePoison := s.tablePoison.filter fun q => decide (q.1 ≠ 0)
    frames := Cells.insert 0 ⟨4096, 0, false⟩ s.frames
    pars := Cells.insert 0 par s.pars
    ctxs := Cells.insert 0 placedContext s.ctxs
    clus := Cells.insert 0 placedCluster s.clus
    teams := Cells.insert 0 placedTeam s.teams
    groups := Cells.insert 0 placedGroup s.groups
    parts := Cells.insert 0 placedPart s.parts
    seqs := Cells.insert 0 placedSeq s.seqs }

end Sys2Proof.Machine
end

