-- ==== Sys2Proof/Machine/Sched.lean ====
section
/-!
DEFINITION. What moves next (DESIGN CHOICE, log entries 1 and 2): the head of the inbox, else, by turns, something that the device does by
itself and the agent that has been ready longest (R291).
-/

namespace Sys2Proof.Machine

/-- What the device does by itself: the operations of the table that no instruction and nobody outside starts. -/
inductive Auto where
  | landing (ticket : Nat)
  | home (ticket : Nat)
  | copyUpdate (ticket : Nat)
  | expiry (core ctx line : Nat)
  | command (ticket : Nat)
  | grant (quad : Nat)
  | passEnd (sc : Nat)
  | opEnd (sc op : Nat)
  | teller (ctx : Nat)
  | fetch (p : BitVec 6) (q : BitVec 2)
  | launch (p : BitVec 6) (q : BitVec 2)
  | place (ctx : Nat)
  | complete (ctx : Nat)
  | done (id : Nat)
  | record (id : Nat)
  | wake (a : Agent)
  | barrier (b : Barrier)
  | autoEnd (sc : Nat)
  | swap (unit : Nat)
  | saved (unit : Nat)
  | quantum (p : BitVec 6)
  | reseat (core : Nat)
  | mcmdEnd (p : BitVec 6)
  | reencrypt (p : BitVec 6) (frame : Nat)
  | copied
  | restored
  | scrubbed (p : BitVec 6)
  | wedge (ctx : Nat)
  deriving DecidableEq, Repr

/-- It happens. -/
def runAuto (e : Auto) (s : State) : Host.Outcome State Fault Refusal :=
  match e with
  | .landing t => execDataLanding t s
  | .home t => execHomeWrite t s
  | .copyUpdate t => execDieCopyUpdate t s
  | .expiry k c l => execL1LineExpiry k c l s
  | .command t => execCommandComplete t s
  | .grant q => execPassGrant q s
  | .passEnd sc => execPassComplete sc s
  | .opEnd sc o => execEngineOpComplete sc o s
  | .teller c => execTellerApply c s
  | .fetch p q => execLaunchFetch p q s
  | .launch p q => execLaunchAdmit p q s
  | .place c => execClusterPlace c s
  | .complete c => execLaunchComplete c s
  | .done d => execDoneWrite d s
  | .record r => execPendingRecordWrite r s
  | .wake a => execMonitorWake a s
  | .barrier b => execBarrierComplete b s
  | .autoEnd sc => execSequencerContextAutoEnd sc s
  | .swap u => execBankSwap u s
  | .saved u => execUnitSaved u s
  | .quantum p => execQuantumBoundary p s
  | .reseat k => execReseatExchange k s
  | .mcmdEnd p => execMcmdComplete p s
  | .reencrypt p f => execFrameReencrypt p f s
  | .copied => execCheckpointComplete s
  | .restored => execRestoreComplete s
  | .scrubbed p => execLeaveScrub p s
  | .wedge c => execWedgeDetect c s

/-! ### What is due -/

/-- The data of a landing are there. -/
def landable (s : State) (l : Landing) : Bool :=
  match l.dest with
  | .fromLane _ _ g k => (groupWord s g k).full
  | _ => true
/-- Due in the memory system and the engines. -/
def dueMemory (s : State) : List Auto :=
  (s.lands.filter (landable s)).map (fun l => .landing l.ticket) ++
    (s.stores.filter (storeFirst s)).map (fun q => .home q.ticket) ++ s.upds.map (fun u => .copyUpdate u.ticket) ++
    (s.cores.filterMap fun k => (k.2.l1.getLast?).map fun l => .expiry k.1 l.ctx l.vline) ++
    (s.cores.filterMap fun k => (k.2.l1i.getLast?).map fun l => .expiry k.1 l.ctx l.vline) ++
    (s.cmds.filter fun c => cmdRuns s c && !unanswered c.asked).map (fun c => .command c.ticket) ++
    ((s.seqs.map fun q => q.1 / 8).eraseDups.filter fun q => !(passList s q).isEmpty).map .grant ++
    (s.seqs.filter fun q => hasArray s q.1 && (grantedOp s q.1).isSome).map (fun q => .passEnd q.1) ++
    s.seqs.flatMap fun q => (q.2.ops.filter fun o => decide (q.1 < 4096) && opDue q.2 o && !unanswered o.asked).map fun o =>
      .opEnd q.1 o.id
/-- The four queues. -/
def queues4 : List (BitVec 2) := [0, 1, 2, 3]
/-- Due for launches. -/
def dueLaunch (s : State) : List Auto :=
  (s.pars.flatMap fun t =>
    let p := BitVec.ofNat 6 t.1
    (queues4.filter fun q => fetchDue s p q).map (fun q => .fetch p q) ++
      (queues4.filter fun q => launching s p && (Cells.get? q.toNat t.2.fetched).isSome).map fun q => .launch p q) ++
    (s.ctxs.filterMap fun k =>
      if !k.2.lr.coop && k.2.killed.isNone && launching s k.2.part && decide (k.2.unplaced < clusterCount k.2.lr) &&
          (nextSpot s [] k.1 k.2).isSome then some (.place k.1) else none) ++
    (s.ctxs.filter fun k => launchDone s k.1 k.2).map (fun k => .complete k.1) ++
    (s.ctxs.filter fun k => (tellerTeam s k.1).isSome).map (fun k => .teller k.1) ++
    (s.dones.filter fun d => !unanswered d.asked).map (fun d => .done d.id) ++
    (s.kills.filter fun k => !unanswered k.asked && killDue s k).map (fun k => .record k.id) ++
    (s.notes.filter fun n => !unanswered n.asked).map (fun n => .record n.id) ++
    (s.recs.filter fun r => !unanswered r.asked && recordDue s r).map fun r => .record r.id
/-- Every agent. -/
def agents (s : State) : List Agent := s.parts.map (fun p => .part p.1) ++ s.seqs.map fun q => .seq q.1
/-- The barriers that can complete. -/
def dueBarriers (s : State) : List Barrier :=
  ((s.teams.flatMap fun t => t.2.tbars.map fun b => Barrier.team t.1 b.1) ++
    (s.clus.flatMap fun u => u.2.cbars.map fun b => Barrier.cluster u.1 b.1) ++
    (s.ctxs.flatMap fun k => k.2.gbars.map fun b => Barrier.grid k.1 b.1)).filter (barComplete s)
/-- Due for waits and seats. -/
def dueWaits (s : State) : List Auto :=
  ((agents s).filter (wakeable s)).map .wake ++ (dueBarriers s).map .barrier ++
    (s.seqs.filter fun q => q.2.thr.wait == .monitor .fifoEntry && !q.2.ended && (unitTeams s q.2.uid).all fun t =>
      t.2.exited || coreQuad t.2.core != q.1 / 8).map (fun q => .autoEnd q.1) ++
    ((s.parts.filter fun p => !p.2.seated).map fun p => agentCore s (.part p.1)).eraseDups.filterMap fun k =>
      if (reseatHead s k).isSome && (decide (seatedOn s k < 64) || (reseatVictim s k).isSome) then some (.reseat k) else none
/-- Due for units, partitions and the copy of a checkpoint. -/
def dueUnits (s : State) : List Auto :=
  (s.clus.filter fun u => u.2.res == .loading).map (fun u => .swap u.1) ++
    (s.clus.filter fun u => u.2.res == .saving || (u.2.res == .resident && stopping s u.2.ctx)).map (fun u => .saved u.1) ++
    (s.pars.filterMap fun t =>
      let p := BitVec.ofNat 6 t.1
      if launching s p && !(waitingUnits s p).isEmpty then some (.quantum p) else none) ++
    (s.pars.filterMap fun t =>
      let p := BitVec.ofNat 6 t.1
      if ((fnOf s p).mbusy || !t.2.closing.isEmpty) && !copying s p && !mcmdWaits s p then some (.mcmdEnd p) else none) ++
    (s.frames.filterMap fun f =>
      if !f.2.nextKey && ((parOf? s f.2.part).map fun t => t.keyNext.isSome) == some true then some (.reencrypt f.2.part f.1) else none) ++
    (match s.ck with
     | some r => if allSaved s r.parts then [if r.restore then .restored else .copied] else []
     | none => []) ++
    s.pars.filterMap fun t =>
      if t.2.leaving.isSome && parIdle s (BitVec.ofNat 6 t.1) then some (.scrubbed (BitVec.ofNat 6 t.1)) else none
/-- Everything that is due. -/
def due (s : State) : List Auto := dueMemory s ++ dueLaunch s ++ dueWaits s ++ dueUnits s
/-- The contexts in which WEDGE is due (R306). -/
def dueWedges (s : State) : List Auto := (s.ctxs.filter fun k => wedged s k.1 k.2).map fun k => .wedge k.1

/-! ### Who issues -/

/-- An agent's place in the order of issue (R291): ready time, then core, group slot, lowest lane. -/
def issueKey (s : State) (a : Agent) : List Nat :=
  let ready := ((thread? s a).map Thread.ready).getD 0
  match a with
  | .part pid => (match Cells.get? pid s.parts with
    | some p => [ready, agentCore s a, ((Cells.get? p.gid s.groups).map Group.gslot).getD 0, lowLane p.own]
    | none => [ready])
  | _ => [ready, agentCore s a]
/-- Lists of numbers in the order of a dictionary. -/
def lexLess : List Nat → List Nat → Bool
  | [], [] => false
  | [], _ => true
  | _, [] => false
  | a :: x, b :: y => decide (a < b) || (a == b && lexLess x y)
/-- The agent that issues before all others of a list. -/
def firstAgent (s : State) : List Agent → Option Agent
  | [] => none
  | a :: r => match firstAgent s r with
    | none => some a
    | some b => if lexLess (issueKey s b) (issueKey s a) then some b else some a
/-- An agent is ready (R290). -/
def readyAgent (s : State) (a : Agent) : Bool := mayIssue s a && ((thread? s a).map Thread.wait) == some .none
/-- An agent's instruction waits to be executed again. -/
def retrying (s : State) (a : Agent) : Bool :=
  mayIssue s a && (match (thread? s a).map Thread.wait with
    | some (.monitor _) => false
    | some .none => false
    | some w => !heldWait w
    | none => false)

/-! ### The choice -/

/-- What a step does. -/
inductive Choice where
  | turn (t : Turn)
  | auto (e : Auto)
  | idle
  deriving DecidableEq, Repr
/-- An element of a list, going round. -/
def around {α : Type} (l : List α) (n : Nat) : Option α := l[n % l.length]?
/-- The first choice there is. -/
def firstChoice : List (Option Choice) → Choice
  | [] => .idle
  | some c :: _ => c
  | none :: r => firstChoice r
/-- The choice of a step with nothing in its inbox. -/
def choose (s : State) : Choice :=
  let event := (around (due s) (s.tick / 2)).map Choice.auto
  let agent := (firstAgent s ((agents s).filter (readyAgent s))).map fun a => Choice.turn (.agent a)
  let retry := (around ((agents s).filter (retrying s)) (s.tick / 16)).map fun a => Choice.turn (.agent a)
  let wedge := (dueWedges s).head?.map Choice.auto
  if s.tick % 16 = 15 then firstChoice [retry, agent, event, wedge]
  else if s.tick % 64 = 14 then firstChoice [wedge, event, agent, retry]
  else if s.tick % 2 = 0 then firstChoice [event, agent, retry, wedge]
  else firstChoice [agent, event, retry, wedge]
/-- The choice of a step, with the state after it. A TDI in whose tables the MC has met a breach goes to ERROR first (R339, R343). -/
def nextTurn (s : State) : Choice × State :=
  let s := if s.breaches.isEmpty then s else settleBreaches s
  match s.inbox with
  | t :: r => (.turn t, { s with inbox := r, tick := s.tick + 1 })
  | [] => (choose s, { s with tick := s.tick + 1 })

end Sys2Proof.Machine
end

