-- ==== Sys2Proof/Machine/Step.lean ====
section
/-!
DEFINITION. One step: an operation of the table that is no instruction, or an agent that fetches its next instruction and
executes it (DESIGN CHOICE, log entry 1).
-/

namespace Sys2Proof.Machine

/-- What follows an instruction of an agent (R394). -/
def closeTurn (a : Agent) : Host.Outcome State Fault Refusal → Host.Outcome State Fault Refusal
  | .next s => .next (afterTurn a s)
  | .fault r => .fault r
  | .refused r => .refused r

/-- The turn of an agent: an instruction, a trap of its fetch, or nothing where it may not issue. -/
def stepAgent (a : Agent) (s : State) : Host.Outcome State Fault Refusal :=
  match agentTurn a s with
  | .idle => .next s
  | .trap s => .next (afterTurn a s)
  | .run i s => closeTurn a (exec i s)

/-- A register request without IDE protection, answered (R346). -/
def closeBare : Host.Outcome State Fault Refusal → Host.Outcome State Fault Refusal
  | .next s => .next { s with bare := false }
  | .fault r => .fault r
  | .refused r => .refused r

/-- One step of the module. -/
def step (s : State) : Host.Outcome State Fault Refusal :=
  match nextTurn s with
  | (.idle, s) => .next s
  | (.auto e, s) => runAuto e { s with agent := .none }
  | (.turn (.agent a), s) => stepAgent a s
  | (.turn (.event i), s) => if (encode i).isSome then .next s else exec i { s with agent := .none }
  | (.turn (.bare i), s) => if (encode i).isSome then .next s else closeBare (exec i { s with agent := .none, bare := true })
  | (.turn (.relayout p bar), s) => .next (relayoutBar p bar s)

/-- An instruction placed where the next step fetches (DESIGN CHOICE, log entry 3). -/
def State.withFetchWord (s : State) (nbits w : Nat) : State := placeWord s nbits w

end Sys2Proof.Machine
end

