-- ==== Sys2Proof/Safety.lean ====
section
/-!
DEFINITION. What claims call a safe state, and the terms in which they say what an instruction changes and what it leaves
alone.
-/

namespace Sys2Proof

open Machine

/-- The memories of the state are in canonical form. -/
abbrev Safe (s : State) : Prop := s.memWf

namespace Claim

/-! ### A part that executes, and what its instruction leaves alone -/

/-- The executing agent is part `pid`, of a group. -/
structure Runs (s : State) (pid : Nat) (p : Part) (g : Group) : Prop where
  agent : s.agent = .part pid
  part : Cells.get? pid s.parts = some p
  group : Cells.get? p.gid s.groups = some g

/-- Lane l is active for an instruction with mask field pk (R43). -/
def Active (p : Part) (g : Group) (pk : BitVec 2) (l : Nat) : Prop :=
  l < g.w ∧ p.em.getLsbD l = true ∧ (pk = 0 ∨ (Cells.get 0 pk.toNat g.masks).getLsbD l = true)
/-- The active lanes, ascending. -/
def actives (p : Part) (g : Group) (pk : BitVec 2) : List Nat :=
  (List.range g.w).filter fun l => p.em.getLsbD l && (decide (pk = 0) || (Cells.get 0 pk.toNat g.masks).getLsbD l)

/-- The part after its instruction has retired at an address (R36): PC moved, nothing waited for, one instruction more, the
last one now (R292). -/
def retiredAt (s : State) (pc : DWord) (p : Part) : Part :=
  { p with issued := p.issued + 1, last := s.tick,
           thr := { p.thr with pc := pc, wait := .none, asked := [], ready := s.tick, woken := .none } }
/-- The part after its instruction has retired: PC at next_pc. -/
def retired (s : State) (p : Part) : Part := retiredAt s ((p.thr.pc + BitVec.ofNat 64 s.iss.len) &&& 0xFFFFFFFFFFFFFF) p

/-- A core keeps everything but its profiling counts (R391). -/
def CoresKept (s t : State) : Prop := ∀ k, coreOf t k = { coreOf s k with prof := (coreOf t k).prof }

/-- From s to t only part `pid` and its group change, to p' and g'; beside them only profiling counts (R391) do. All of
memory, every other register, flag and special register is as before. -/
structure OnlyPart (s t : State) (pid : Nat) (p : Part) (p' : Part) (g' : Group) : Prop where
  part : Cells.get? pid t.parts = some p'
  group : Cells.get? p.gid t.groups = some g'
  otherParts : ∀ q, q ≠ pid → Cells.get? q t.parts = Cells.get? q s.parts
  otherGroups : ∀ q, q ≠ p.gid → Cells.get? q t.groups = Cells.get? q s.groups
  cores : CoresKept s t
  rest : { t with parts := s.parts, groups := s.groups, cores := s.cores } = s

end Claim

end Sys2Proof
end

