-- ==== Sys2Proof/Certificates/Slice0/Obligations.lean ====
section
/-!
DEFINITION. The statements for the provers, with the predicates they share. A statement about an instruction says that it
completes, with what result, and what it leaves alone.
-/

namespace Sys2Proof.Claim

open Machine
open Sys2Proof.Num (Flags fNone)

/-! ### Forms that write lanes -/

/-- A form that writes lane registers: its mask field, the lane registers, masks and uniform registers it reads, the lane
registers it writes, for each active lane the words written to them in order, and the flags it merges. -/
structure LaneForm where
  pk : BitVec 2
  srcs : List Nat
  masks : List Nat
  unis : List (BitVec 5)
  dsts : List Nat
  val : Part → Group → List Nat → Nat → List Word
  flags : Part → Group → List Nat → Flags

/-- The operands of a lane form can be used at once: no source is empty or poisoned in an active lane, no destination is empty
in one, and the form's destinations are different physical registers (R23, R25, R137, R372). -/
structure LanesReady (F : LaneForm) (p : Part) (g : Group) : Prop where
  srcs : ∀ n ∈ F.srcs, ∀ l, Active p g F.pk l → (laneWord g p.wb n l).full = true ∧ (laneWord g p.wb n l).poison = false
  dsts : ∀ n ∈ F.dsts, ∀ l, Active p g F.pk l → (laneWord g p.wb n l).full = true
  masks : ∀ k ∈ F.pk.toNat :: F.masks, k ≠ 0 → k ∉ g.maskPoison
  unis : ∀ r ∈ F.unis, (sregOf p.thr r.toNat).full = true ∧ (sregOf p.thr r.toNat).poison = false
  apart : (F.dsts.map (physReg g p.wb)).Nodup

/-- g' is g with the words of a lane form written to its destinations in every active lane, full and unpoisoned, its flags
merged, and nothing else changed. -/
structure LanesWritten (F : LaneForm) (p : Part) (g g' : Group) : Prop where
  written : ∀ l, Active p g F.pk l → ∀ i, (hi : i < F.dsts.length) →
    Cells.get LaneWord.zero (physReg g p.wb F.dsts[i] * 64 + l) g'.lanes = ⟨(F.val p g (actives p g F.pk) l).getD i 0, true, false⟩
  kept : ∀ r l, l < 64 → (¬ Active p g F.pk l ∨ r ∉ F.dsts.map (physReg g p.wb)) →
    Cells.get LaneWord.zero (r * 64 + l) g'.lanes = Cells.get LaneWord.zero (r * 64 + l) g.lanes
  afl : g'.afl = g.afl ||| F.flags p g (actives p g F.pk)
  rest : { g' with lanes := g.lanes, afl := g.afl } = g

/-- Every instruction of a family of lane forms completes, writes what the family says, and leaves all else alone. -/
def LaneFamily (form : Instr → Option LaneForm) : Prop :=
  ∀ i F s pid p g, form i = some F → Runs s pid p g → LanesReady F p g →
    ∃ t g', exec i s = .next t ∧ OnlyPart s t pid p (retired s p) g' ∧ LanesWritten F p g g'

/-- A lane register of the executing part. -/
def rv (p : Part) (g : Group) (n : BitVec 6) (l : Nat) : Word := laneVal g p.wb n.toNat l
/-- The OR of the flags of a list of lanes (R103). -/
def orFlags (f : Nat → Flags) (ls : List Nat) : Flags := ls.foldl (fun x l => x ||| f l) fNone

/-- A form with two lane sources and a quiet result. -/
def form2 (o : OpR) (f : Word → Word → Word) : Option LaneForm :=
  some { pk := o.pk, srcs := [o.va.toNat, o.vb.toNat], masks := [], unis := [], dsts := [o.vd.toNat]
         val := fun p g _ l => [f (rv p g o.va l) (rv p g o.vb l)], flags := fun _ _ _ => fNone }
/-- A form with one lane source and a quiet result. -/
def form1 (pk : BitVec 2) (vd va : BitVec 6) (f : Word → Word) : Option LaneForm :=
  some { pk := pk, srcs := [va.toNat], masks := [], unis := [], dsts := [vd.toNat]
         val := fun p g _ l => [f (rv p g va l)], flags := fun _ _ _ => fNone }
/-- A form that also reads its destination, and merges flags. -/
def form3 (pk : BitVec 2) (vd va vb : BitVec 6) (f : Word → Word → Word → Word × Flags) : Option LaneForm :=
  some { pk := pk, srcs := [va.toNat, vb.toNat, vd.toNat], masks := [], unis := [], dsts := [vd.toNat]
         val := fun p g _ l => [(f (rv p g vd l) (rv p g va l) (rv p g vb l)).1]
         flags := fun p g ls => orFlags (fun l => (f (rv p g vd l) (rv p g va l) (rv p g vb l)).2) ls }
/-- A form with two lane sources that merges flags. -/
def flag2 (o : OpR) (f : Word → Word → Word × Flags) : Option LaneForm :=
  some { pk := o.pk, srcs := [o.va.toNat, o.vb.toNat], masks := [], unis := [], dsts := [o.vd.toNat]
         val := fun p g _ l => [(f (rv p g o.va l) (rv p g o.vb l)).1]
         flags := fun p g ls => orFlags (fun l => (f (rv p g o.va l) (rv p g o.vb l)).2) ls }
/-- A form with one lane source that merges flags. -/
def flag1 (pk : BitVec 2) (vd va : BitVec 6) (f : Word → Word × Flags) : Option LaneForm :=
  some { pk := pk, srcs := [va.toNat], masks := [], unis := [], dsts := [vd.toNat]
         val := fun p g _ l => [(f (rv p g va l)).1], flags := fun p g ls => orFlags (fun l => (f (rv p g va l)).2) ls }
/-- The operation that a compact form stands for: VD is destination and first source (R38). -/
def compact (o : OpC) : OpR :=
  { pk := 0, vd := o.vd.setWidth 6, va := o.vd.setWidth 6, vb := o.vs.setWidth 6, wa := false, wb := false }

/-- A sum as an integer, held in the range of a format (R141). -/
def clampSum (lo hi x : Int) : Word × Flags :=
  if x < lo then (BitVec.ofInt 32 lo, Num.fSAT) else if hi < x then (BitVec.ofInt 32 hi, Num.fSAT) else (BitVec.ofInt 32 x, fNone)
/-- A field of a word, from bit b % 32, of b / 256 % 64 bits but not beyond bit 31 (R144). -/
def fieldLen (b : Word) : Nat := min (b.toNat / 256 % 64) (32 - b.toNat % 32)

/-- Integer lane arithmetic (R38, R141 to R151). -/
def integerForm : Instr → Option LaneForm
  | .compactMov o => form1 0 (o.vd.setWidth 6) (o.vs.setWidth 6) fun a => a
  | .compactIadd o => form2 (compact o) fun a b => a + b
  | .compactIsub o => form2 (compact o) fun a b => a - b
  | .compactImul o => form2 (compact o) fun a b => a * b
  | .compactAnd o => form2 (compact o) fun a b => a &&& b
  | .compactOr o => form2 (compact o) fun a b => a ||| b
  | .compactXor o => form2 (compact o) fun a b => a ^^^ b
  | .compactShl o => form2 (compact o) fun a b => a <<< (b.toNat % 32)
  | .compactShr o => form2 (compact o) fun a b => a >>> (b.toNat % 32)
  | .compactSar o => form2 (compact o) fun a b => a.sshiftRight (b.toNat % 32)
  | .compactIminI32 o => form2 (compact o) fun a b => if b.toInt < a.toInt then b else a
  | .compactImaxI32 o => form2 (compact o) fun a b => if a.toInt < b.toInt then b else a
  | .iadd o => form2 o fun a b => a + b
  | .isub o => form2 o fun a b => a - b
  | .iaddsatI32 o => flag2 o fun a b => clampSum (-2147483648) 2147483647 (a.toInt + b.toInt)
  | .iaddsatN32 o => flag2 o fun a b => clampSum 0 4294967295 ((a.toNat : Int) + b.toNat)
  | .imul o => form2 o fun a b => a * b
  | .imulhI32 o => form2 o fun a b => BitVec.ofInt 32 (a.toInt * b.toInt / 2 ^ 32)
  | .imulhN32 o => form2 o fun a b => BitVec.ofNat 32 (a.toNat * b.toNat / 2 ^ 32)
  | .ineg o => form1 o.pk o.vd o.va fun a => 0 - a
  | .iminI32 o => form2 o fun a b => if b.toInt < a.toInt then b else a
  | .iminN32 o => form2 o fun a b => if b.toNat < a.toNat then b else a
  | .imaxI32 o => form2 o fun a b => if a.toInt < b.toInt then b else a
  | .imaxN32 o => form2 o fun a b => if a.toNat < b.toNat then b else a
  | .and o => form2 o fun a b => a &&& b
  | .or o => form2 o fun a b => a ||| b
  | .xor o => form2 o fun a b => a ^^^ b
  | .andn o => form2 o fun a b => a &&& ~~~b
  | .shl o => form2 o fun a b => a <<< (b.toNat % 32)
  | .shr o => form2 o fun a b => a >>> (b.toNat % 32)
  | .sar o => form2 o fun a b => a.sshiftRight (b.toNat % 32)
  | .rotl o => form2 o fun a b => a.rotateLeft (b.toNat % 32)
  | .clz o => form1 o.pk o.vd o.va clzW
  | .popc o => form1 o.pk o.vd o.va popcW
  | .brev o => form1 o.pk o.vd o.va brevW
  | .not o => form1 o.pk o.vd o.va fun a => ~~~a
  | .bfxN32 o => form2 o fun a b => BitVec.ofNat 32 (a.toNat / 2 ^ (b.toNat % 32) % 2 ^ fieldLen b)
  | .bfxI32 o => form2 o bfxI
  | .bfi o => form3 o.pk o.vd o.va o.vb fun d a b => (bfiW d a b, fNone)
  | .sel o => some { pk := 0, srcs := [o.va.toNat, o.vb.toNat], masks := [o.pk.toNat], unis := [], dsts := [o.vd.toNat]
                     val := fun p g _ l =>
                       [if o.pk = 0 ∨ (Cells.get 0 o.pk.toNat g.masks).getLsbD l = true then rv p g o.va l else rv p g o.vb l]
                     flags := fun _ _ _ => fNone }
  | .mov o => form1 o.pk o.vd o.va fun a => a
  | .lea1 o => form2 o fun a b => a + (b <<< 1)
  | .lea2 o => form2 o fun a b => a + (b <<< 2)
  | .lea3 o => form2 o fun a b => a + (b <<< 3)
  | .imad o => form3 o.pk o.vd o.va o.vb fun d a b => (a * b + d, fNone)
  | .iaddi o => form1 o.pk o.vd o.va fun a => a + o.imm.signExtend 32
  | .andi o => form1 o.pk o.vd o.va fun a => a &&& o.imm.signExtend 32
  | .ori o => form1 o.pk o.vd o.va fun a => a ||| o.imm.signExtend 32
  | .xori o => form1 o.pk o.vd o.va fun a => a ^^^ o.imm.signExtend 32
  | .shfi o => form1 o.pk o.vd o.va (shiftKind o.kind · o.count.toNat)
  | .movi o => some { pk := o.pk, srcs := [], masks := [], unis := [], dsts := [o.vd.toNat]
                      val := fun _ _ _ _ => [o.imm.signExtend 32], flags := fun _ _ _ => fNone }
  | .movw o => some { pk := o.pk, srcs := [], masks := [], unis := [], dsts := [o.vd.toNat]
                      val := fun _ _ _ _ => [o.imm.setWidth 32], flags := fun _ _ _ => fNone }
  | .movwHi o => form1 o.pk o.vd o.vd fun d => (o.imm.setWidth 32 <<< 16) ||| (d &&& 0xFFFF)
  | _ => none

/-- Floating-point lane arithmetic (R38, R152 to R162), by the values of Machine/Flags.lean. -/
def floatForm : Instr → Option LaneForm
  | .compactFadd o => flag2 (compact o) faddW
  | .compactFsub o => flag2 (compact o) fsubW
  | .compactFmul o => flag2 (compact o) fmulW
  | .compactFmax o => flag2 (compact o) (fminmaxW true false)
  | .fadd o => flag2 o faddW
  | .fsub o => flag2 o fsubW
  | .fmul o => flag2 o fmulW
  | .fdiv o => flag2 o fdivW
  | .fmin o => flag2 o (fminmaxW false false)
  | .fmax o => flag2 o (fminmaxW true false)
  | .fminn o => flag2 o (fminmaxW false true)
  | .fmaxn o => flag2 o (fminmaxW true true)
  | .ffma o => form3 o.pk o.vd o.va o.vb ffmaW
  | .fnma o => form3 o.pk o.vd o.va o.vb fnmaW
  | .pfmaBf16x2 o => form3 o.pk o.vd o.va o.vb (pfmaW .bf16)
  | .pfmaF16x2 o => form3 o.pk o.vd o.va o.vb (pfmaW .f16)
  | .fsqrt o => flag1 o.pk o.vd o.va fsqrtW
  | .frcp o => flag1 o.pk o.vd o.va frcpW
  | .frsq o => flag1 o.pk o.vd o.va frsqW
  | .exp2 o => flag1 o.pk o.vd o.va Num.exp2Arch
  | .fneg o => form1 o.pk o.vd o.va fun a => if (f32 a).isNaN then 0x7FC00000 else a ^^^ 0x80000000
  | .fabs o => form1 o.pk o.vd o.va fun a => if (f32 a).isNaN then 0x7FC00000 else a &&& 0x7FFFFFFF
  | .fclass o => form1 o.pk o.vd o.va fclassW
  | .fround o => flag1 o.pk o.vd o.va (Num.fround (froundMode o.mode))
  | .fcvt o => flag1 o.pk o.vd o.va (Num.fcvt (Num.cvtFmt o.src) (Num.cvtFmt o.dst) (Num.cvtMode o.mode))
  | .paddBf16x2 o => flag2 o (paddW .bf16)
  | .paddF16x2 o => flag2 o (paddW .f16)
  | .pmulBf16x2 o => flag2 o (pmulW .bf16)
  | .pmulF16x2 o => flag2 o (pmulW .f16)
  | .pk2h o => form2 o fun a b => (b <<< 16) ||| (a &&& 0xFFFF)
  | .fscale o => flag2 o fscaleW
  | _ => none

/-- The four words of an FB128 value, lowest first (R75, R163). -/
def quadWords (x : BitVec 128) : List Word := (List.range 4).map fun i => BitVec.ofNat 32 (x.toNat / 2 ^ (32 * i))
/-- An FB128 value held by four lane registers (R75). -/
def quadOfLanes (p : Part) (g : Group) (n : BitVec 6) (l : Nat) : BitVec 128 := quadVal g p.wb n l
/-- Block and binned arithmetic (R163): the block exponent of the active lanes, and FB128 values in four registers. -/
def binnedForm : Instr → Option LaneForm
  | .bexp o => some { pk := o.pk, srcs := [o.va.toNat], masks := [], unis := [], dsts := [o.vd.toNat]
                      val := fun p g ls _ => [BitVec.ofInt 32 (blockExp (rv p g o.va) ls)]
                      flags := fun p g ls => orFlags (fun l => Num.snanFlag (f32 (rv p g o.va l))) ls }
  | .bcvt o => some { pk := o.pk, srcs := [o.va.toNat, o.vb.toNat], masks := [], unis := [], dsts := regsFrom o.vd 4
                      val := fun p g _ l => quadWords (Num.binnedConvert (rv p g o.va l) (rv p g o.vb l).toInt).1
                      flags := fun p g ls => orFlags (fun l => (Num.binnedConvert (rv p g o.va l) (rv p g o.vb l).toInt).2) ls }
  | .badd o => some { pk := o.pk, srcs := regsFrom o.va 4 ++ regsFrom o.vb 4, masks := [], unis := [], dsts := regsFrom o.vd 4
                      val := fun p g _ l => quadWords (Num.binnedAdd (quadOfLanes p g o.va l) (quadOfLanes p g o.vb l)).1
                      flags := fun p g ls => orFlags (fun l =>
                        (Num.binnedAdd (quadOfLanes p g o.va l) (quadOfLanes p g o.vb l)).2) ls }
  | .bfin o => some { pk := o.pk, srcs := o.vb.toNat :: regsFrom o.va 4, masks := [], unis := [], dsts := [o.vd.toNat]
                      val := fun p g _ l => [(Num.binnedFinal (quadOfLanes p g o.va l) (rv p g o.vb l).toInt).1]
                      flags := fun p g ls => orFlags (fun l =>
                        (Num.binnedFinal (quadOfLanes p g o.va l) (rv p g o.vb l).toInt).2) ls }
  | _ => none

/-- A shuffle (R170): va of the source lane where that is active, else the lane's own va. -/
def shuffleForm (o : OpR) (src : Nat → Nat → Option Nat) : Option LaneForm :=
  some { pk := o.pk, srcs := [o.va.toNat, o.vb.toNat], masks := [], unis := [], dsts := [o.vd.toNat]
         val := fun p g ls l => [match src l (rv p g o.vb l).toNat with
           | some j => if j ∈ ls then rv p g o.va j else rv p g o.va l
           | none => rv p g o.va l]
         flags := fun _ _ _ => fNone }
/-- The lanes in ranking order, cut at each lane's own count (R172). -/
def topkForm (o : OpR) (max : Bool) : Option LaneForm :=
  some { pk := o.pk, srcs := [o.va.toNat, o.vb.toNat], masks := [], unis := [], dsts := [o.vd.toNat]
         val := fun p g ls l =>
           [if l < (rv p g o.vb l).toNat ∧ l < ls.length then
              BitVec.ofNat 32 ((ranked .f32 max (fun j => (rv p g o.va j).toNat) ls).getD l 0) else 0xFFFFFFFF]
         flags := fun p g ls => if ls.isEmpty then fNone else snanLanes .f32 (fun j => (rv p g o.va j).toNat) ls }
/-- A reduction over the leaves that count for a lane, by the fixed tree of R92 (R174). -/
def reduceForm (o : OpRedux) (keep : Nat → Nat → Bool) : Option LaneForm :=
  let r := fun p g (ls : List Nat) l =>
    reduceLanes o.op.toNat g.w (rv p g o.va) (fun j => decide (j ∈ ls) && keep l j)
  some { pk := o.pk, srcs := [o.va.toNat], masks := [], unis := [], dsts := [o.vd.toNat]
         val := fun p g ls l => [(r p g ls l).1], flags := fun p g ls => orFlags (fun l => (r p g ls l).2) ls }
/-- The value and lane of the lane that ranks before all others (R91, R173). -/
def indexForm (o : OpR1) (t : Num.Fmt) (max : Bool) : Option LaneForm :=
  let v := fun p g j => (rv p g o.va j).toNat % 2 ^ t.width
  let win := fun p g (ls : List Nat) => (ls.find? fun l => ls.all fun m => l == m || ranksBefore t max (v p g) l m).getD 0
  some { pk := o.pk, srcs := [o.va.toNat], masks := [], unis := [], dsts := regsFrom o.vd 2
         val := fun p g ls _ =>
           [BitVec.ofNat 32 (if (Num.decodeF t (v p g (win p g ls))).isNaN then t.nan else v p g (win p g ls)),
            BitVec.ofNat 32 (win p g ls)]
         flags := fun p g ls => snanLanes t (v p g) ls }
/-- A count over the active lanes whose bit of a mask is 1 (R176). -/
def countForm (o : OpKv) (f : List Nat → Word) : Option LaneForm :=
  some { pk := o.pk, srcs := [], masks := [o.ka.toNat], unis := [], dsts := [o.vd.toNat]
         val := fun _ g ls _ => [f (ls.filter fun l => (maskVal g o.ka.toNat).getLsbD l)], flags := fun _ _ _ => fNone }
/-- Group instructions that write lanes (R170 to R178). -/
def groupForm : Instr → Option LaneForm
  | .shflIdx o => shuffleForm o fun _ c => some c
  | .shflXor o => shuffleForm o fun l c => some (l ^^^ (c % 64))
  | .shflUp o => shuffleForm o fun l c => if c ≤ l then some (l - c) else none
  | .shflDown o => shuffleForm o fun l c => some (l + c)
  | .ballot o => some { pk := o.pk, srcs := [o.va.toNat], masks := [], unis := [], dsts := regsFrom o.vd 2
                        val := fun p g ls _ =>
                          let b := maskOf (ls.filter fun l => rv p g o.va l != 0)
                          [b.extractLsb' 0 32, b.extractLsb' 32 32]
                        flags := fun _ _ _ => fNone }
  | .topkMax o => topkForm o true
  | .topkMin o => topkForm o false
  | .redux o => reduceForm o fun _ _ => true
  | .scanInc o => reduceForm o fun l j => decide (j ≤ l)
  | .scanExc o => reduceForm o fun l j => decide (j < l)
  | .maxidxF32 o => indexForm o .f32 true
  | .maxidxF16 o => indexForm o .f16 true
  | .maxidxBf16 o => indexForm o .bf16 true
  | .minidxF32 o => indexForm o .f32 false
  | .minidxF16 o => indexForm o .f16 false
  | .minidxBf16 o => indexForm o .bf16 false
  | .kpop o => countForm o fun ls => BitVec.ofNat 32 ls.length
  | .kffs o => countForm o fun ls => match ls with
    | [] => 0xFFFFFFFF
    | l :: _ => BitVec.ofNat 32 l
  | .vbcast o => some { pk := o.pk, srcs := [], masks := [], unis := [o.sa], dsts := [o.vd.toNat]
                        val := fun p _ _ _ => [(sVal p.thr o.sa).extractLsb' (if o.hi then 32 else 0) 32]
                        flags := fun _ _ _ => fNone }
  | _ => none

/-! ### Forms that write masks -/

/-- A form that writes a mask register: the lanes, masks and uniform registers it reads, the mask it writes, each lane's bit,
and its flags. -/
structure MaskForm where
  pk : BitVec 2
  srcs : List Nat
  masks : List Nat
  unis : List (BitVec 5)
  dst : BitVec 3
  bit : Part → Group → Nat → Bool
  flags : Part → Group → List Nat → Flags

/-- The operands of a mask form can be used at once (R137, R372). -/
structure MaskReady (F : MaskForm) (p : Part) (g : Group) : Prop where
  srcs : ∀ n ∈ F.srcs, ∀ l, Active p g F.pk l → (laneWord g p.wb n l).full = true ∧ (laneWord g p.wb n l).poison = false
  masks : ∀ k ∈ F.pk.toNat :: F.masks, k ≠ 0 → k ∉ g.maskPoison
  unis : ∀ r ∈ F.unis, (sregOf p.thr r.toNat).full = true ∧ (sregOf p.thr r.toNat).poison = false

/-- g' is g with the active lanes' bits of a mask written, unless it is k0, which discards writes (R22); flags merged; the
poison mark of that mask may fall (R372); nothing else changed. -/
structure MaskWritten (F : MaskForm) (p : Part) (g g' : Group) : Prop where
  written : ∀ l, F.dst ≠ 0 → Active p g F.pk l → (Cells.get 0 F.dst.toNat g'.masks).getLsbD l = F.bit p g l
  keptBits : ∀ l, l < 64 → F.dst = 0 ∨ ¬ Active p g F.pk l →
    (Cells.get 0 F.dst.toNat g'.masks).getLsbD l = (Cells.get 0 F.dst.toNat g.masks).getLsbD l
  kept : ∀ k, k ≠ F.dst.toNat → Cells.get 0 k g'.masks = Cells.get 0 k g.masks
  poison : ∀ k, (k ∈ g'.maskPoison → k ∈ g.maskPoison) ∧ (k ≠ F.dst.toNat → k ∈ g.maskPoison → k ∈ g'.maskPoison)
  afl : g'.afl = g.afl ||| F.flags p g (actives p g F.pk)
  rest : { g' with masks := g.masks, maskPoison := g.maskPoison, afl := g.afl } = g

/-- A comparison (R148, R157). -/
def compareForm (o : OpCmp) (f : Word → Word → Bool × Flags) : Option MaskForm :=
  some { pk := o.pk, srcs := [o.va.toNat, o.vb.toNat], masks := [], unis := [], dst := o.kd
         bit := fun p g l => (f (rv p g o.va l) (rv p g o.vb l)).1
         flags := fun p g ls => orFlags (fun l => (f (rv p g o.va l) (rv p g o.vb l)).2) ls }
/-- A condition code of icmp, on integers: eq ne lt le gt ge (R148). -/
def integerCond (c : BitVec 3) (a b : Int) : Bool :=
  match c.toNat with
  | 0 => decide (a = b)
  | 1 => decide (a ≠ b)
  | 2 => decide (a < b)
  | 3 => decide (a ≤ b)
  | 4 => decide (b < a)
  | _ => decide (b ≤ a)
/-- A bitwise operation on masks (R175). -/
def maskForm2 (o : OpK2) (f : Bool → Bool → Bool) : Option MaskForm :=
  some { pk := o.pk, srcs := [], masks := [o.ka.toNat, o.kb.toNat], unis := [], dst := o.kd
         bit := fun _ g l => f ((maskVal g o.ka.toNat).getLsbD l) ((maskVal g o.kb.toNat).getLsbD l), flags := fun _ _ _ => fNone }
/-- A bitwise operation on one mask. -/
def maskForm1 (o : OpK1) (f : Bool → Bool) : Option MaskForm :=
  some { pk := o.pk, srcs := [], masks := [o.ka.toNat], unis := [], dst := o.kd
         bit := fun _ g l => f ((maskVal g o.ka.toNat).getLsbD l), flags := fun _ _ _ => fNone }
/-- Instructions that write a mask register (R148, R157, R175, R178). -/
def maskForm : Instr → Option MaskForm
  | .icmpI32 o => compareForm o fun a b => (integerCond o.cond a.toInt b.toInt, fNone)
  | .icmpN32 o => compareForm o fun a b => (integerCond o.cond a.toNat b.toNat, fNone)
  | .fcmpF32 o => compareForm o fun a b => Num.fcmpHolds .f32 o.cond a.toNat b.toNat
  | .fcmpF16 o => compareForm o fun a b => Num.fcmpHolds .f16 o.cond a.toNat b.toNat
  | .fcmpBf16 o => compareForm o fun a b => Num.fcmpHolds .bf16 o.cond a.toNat b.toNat
  | .kand o => maskForm2 o fun a b => a && b
  | .kor o => maskForm2 o fun a b => a || b
  | .kxor o => maskForm2 o fun a b => a ^^ b
  | .kandn o => maskForm2 o fun a b => a && !b
  | .knot o => maskForm1 o fun a => !a
  | .kmov o => maskForm1 o fun a => a
  | .kset o => some { pk := o.pk, srcs := [], masks := [], unis := [o.sa], dst := o.kd
                      bit := fun p _ l => (sVal p.thr o.sa).getLsbD l, flags := fun _ _ _ => fNone }
  | _ => none

/-! ### Forms that write uniform registers -/

/-- From s to t only agent a's thread changes, to th', with a part's count of instructions and profiling counts. -/
structure OnlyThread (s t : State) (a : Agent) (th' : Thread) : Prop where
  part : ∀ pid p, a = .part pid → Cells.get? pid s.parts = some p →
    Cells.get? pid t.parts = some { p with issued := p.issued + 1, last := s.tick, thr := th' }
  seq : ∀ sc q, a = .seq sc → Cells.get? sc s.seqs = some q → Cells.get? sc t.seqs = some { q with thr := th' }
  otherParts : ∀ q, a ≠ .part q → Cells.get? q t.parts = Cells.get? q s.parts
  otherSeqs : ∀ q, a ≠ .seq q → Cells.get? q t.seqs = Cells.get? q s.seqs
  cores : CoresKept s t
  rest : { t with parts := s.parts, seqs := s.seqs, cores := s.cores } = s

/-- A thread after an instruction that wrote a uniform register and retired. -/
structure SregWritten (s : State) (th th' : Thread) (sd : BitVec 5) (v : DWord) : Prop where
  written : sregOf th' sd.toNat = ⟨v, true, false⟩
  kept : ∀ n, n ≠ sd.toNat → sregOf th' n = sregOf th n
  rest : { th' with sregs := th.sregs } =
    { th with pc := (th.pc + BitVec.ofNat 64 s.iss.len) &&& 0xFFFFFFFFFFFFFF, wait := .none, asked := [], ready := s.tick
              woken := .none }

/-- A form that computes a uniform register from others: destination, sources, value. -/
structure UniForm where
  sd : BitVec 5
  srcs : List (BitVec 5)
  val : (BitVec 5 → DWord) → DWord

/-- A form of major 0x1E. -/
def uni2 (o : OpU) (f : DWord → DWord → DWord) : Option UniForm := some ⟨o.sd, [o.sa, o.sb], fun r => f (r o.sa) (r o.sb)⟩
/-- A form of major 0x1F. -/
def uni1 (o : OpV) (f : DWord → DWord) : Option UniForm := some ⟨o.sd, [o.sa], fun r => f (r o.sa)⟩
/-- Uniform arithmetic, of parts and of sequencer contexts (R180, R181). -/
def uniForm : Instr → Option UniForm
  | .sadd o => uni2 o fun a b => a + b
  | .ssub o => uni2 o fun a b => a - b
  | .smul o => uni2 o fun a b => a * b
  | .sand o => uni2 o fun a b => a &&& b
  | .sor o => uni2 o fun a b => a ||| b
  | .sxor o => uni2 o fun a b => a ^^^ b
  | .sshl o => uni2 o fun a b => a <<< (b.toNat % 64)
  | .sshr o => uni2 o fun a b => a >>> (b.toNat % 64)
  | .saddi o => uni1 o fun a => a + o.imm.signExtend 64
  | .sandi o => uni1 o fun a => a &&& o.imm.signExtend 64
  | .sori o => uni1 o fun a => a ||| o.imm.signExtend 64
  | .smovi o => some ⟨o.sd, [], fun _ => o.imm.signExtend 64⟩
  | .sshli o => uni1 o fun a => a <<< (o.imm.toNat % 64)
  | .sshri o => uni1 o fun a => a >>> (o.imm.toNat % 64)
  | .ssari o => uni1 o fun a => a.sshiftRight (o.imm.toNat % 64)
  | _ => none

/-! ### Forms of parts and agents -/

/-- A form of a part as its rule gives it: what the rule asks of the state, the lanes it acts on, the lane registers, masks and
uniform registers that it reads and writes, the number of active lanes, and the state and PC when it has completed. -/
structure PartForm where
  ok : Prop
  lanes : List Nat
  srcs : List Nat
  dsts : List Nat
  masks : List Nat
  unis : List (BitVec 5)
  udsts : List (BitVec 5)
  count : Nat
  pc : DWord
  next : State

/-- Registers that a form reads are full and unpoisoned, registers that it writes are full (R25, R137, R166, R372). -/
structure PartReady (F : PartForm) (p : Part) (g : Group) : Prop where
  srcs : ∀ n ∈ F.srcs, ∀ l ∈ F.lanes, (laneWord g p.wb n l).full = true ∧ (laneWord g p.wb n l).poison = false
  dsts : ∀ n ∈ F.dsts, ∀ l ∈ F.lanes, (laneWord g p.wb n l).full = true
  masks : ∀ k ∈ F.masks, k ≠ 0 → k ∉ g.maskPoison
  unis : ∀ r ∈ F.unis, (sregOf p.thr r.toNat).full = true ∧ (sregOf p.thr r.toNat).poison = false
  udsts : ∀ r ∈ F.udsts, (sregOf p.thr r.toNat).full = true

/-- Every instruction of a family of part forms completes with the state that the family gives. -/
def PartFamily (form : State → Nat → Part → Group → Instr → Option PartForm) : Prop :=
  ∀ i F s pid p g, Runs s pid p g → form s pid p g i = some F → F.ok → PartReady F p g →
    exec i s = .next (retireAt s.agent F.count F.pc F.next)

/-- The address after the instruction that a part executes (R36). -/
def past (s : State) (th : Thread) : DWord := (th.pc + BitVec.ofNat 64 s.iss.len) &&& 0xFFFFFFFFFFFFFF
/-- A form that reads and writes uniform registers and moves to the next instruction. -/
def plainForm (s : State) (p : Part) (ok : Prop) (masks : List Nat) (unis udsts : List (BitVec 5)) (t : State) : Option PartForm :=
  some { ok := ok, lanes := [], srcs := [], dsts := [], masks := masks, unis := unis, udsts := udsts, count := 0
         pc := past s p.thr, next := t }
/-- A form that reads registers and goes to an address. -/
def jumpForm (ok : Prop) (masks : List Nat) (unis : List (BitVec 5)) (pc : DWord) (t : State) : Option PartForm :=
  some { ok := ok, lanes := [], srcs := [], dsts := [], masks := masks, unis := unis, udsts := [], count := 0, pc := pc, next := t }

/-- A form of an agent, part or sequencer context: uniform registers read and written, the state and PC when it has
completed. -/
structure AgentForm where
  ok : Prop
  unis : List (BitVec 5)
  udsts : List (BitVec 5)
  pc : DWord
  next : State
/-- Every instruction of a family of agent forms completes with the state that the family gives. -/
def AgentFamily (form : State → Thread → Instr → Option AgentForm) : Prop :=
  ∀ i F s th, thread? s s.agent = some th → form s th i = some F → F.ok →
    (∀ r ∈ F.unis, (sregOf th r.toNat).full = true ∧ (sregOf th r.toNat).poison = false) →
    (∀ r ∈ F.udsts, (sregOf th r.toNat).full = true) →
    exec i s = .next (retireAt s.agent 0 F.pc F.next)

/-- The active lanes of an instruction as a mask. -/
def activeMask (p : Part) (g : Group) (pk : BitVec 2) : DWord :=
  p.em &&& (if pk = 0 then BitVec.allOnes 64 else Cells.get 0 pk.toNat g.masks)
/-- A form over the active lanes that moves to the next instruction. -/
def laneOpForm (s : State) (p : Part) (g : Group) (pk : BitVec 2) (ok : Prop) (srcs dsts : List Nat) (unis : List (BitVec 5))
    (t : State) : Option PartForm :=
  some { ok := ok, lanes := actives p g pk, srcs := srcs, dsts := dsts, masks := [pk.toNat], unis := unis, udsts := []
         count := (lanesOf 64 (activeMask p g pk)).length, pc := past s p.thr, next := t }

/-! ### Bridges, special registers, counters -/

/-- Reads and writes of masks, EM and lanes through uniform registers (R178, R179). -/
def bridgeForm (s : State) (pid : Nat) (p : Part) (g : Group) : Instr → Option PartForm
  | .kget o => plainForm s p True [o.ka.toNat] [] [o.sd] (writeS s.agent o.sd (maskVal g o.ka.toNat &&& p.own) s)
  | .emget o => plainForm s p True [] [] [o.sd] (writeS s.agent o.sd p.em s)
  | .emset o => plainForm s p True [] [o.sa] [] (setPart pid (fun q => { q with em := sVal p.thr o.sa &&& q.own }) s)
  | .emand o => plainForm s p True [o.ka.toNat] [] [] (setPart pid (fun q => { q with em := q.em &&& maskVal g o.ka.toNat }) s)
  | .vread o =>
    let l := o.lane.toNat
    let w := laneWord g p.wb o.va.toNat l
    if l < g.w ∧ p.em.getLsbD l = true then
      if w.full = true then plainForm s p (w.poison = false) [] [] [o.sd] (writeS s.agent o.sd (w.val.setWidth 64) s)
      else plainForm s p (o.wa = false) [] [] [o.sd]
        { setThread s.agent (emptyS o.sd) s with
          lands := s.lands ++ [{ ticket := s.nextId, who := s.agent, ctx := (agentCtx s s.agent).getD 0
                                 dest := .fromLane s.agent o.sd.toNat p.gid (laneKey g p.wb o.va.toNat l)
                                 load := false, store := false }]
          nextId := s.nextId + 1 }
    else plainForm s p True [] [] [o.sd] (writeS s.agent o.sd 0 s)
  | _ => none
/-- Counters, fault masks, fault addresses, dictionary reads and the fences of tables and flags (R57, R386, R389 to R392). -/
def systemForm (s : State) (pid : Nat) (p : Part) (g : Group) : Instr → Option PartForm
  | .tfence => plainForm s p (g.afl &&& g.aen = 0 ∧ s.cmds.any (mergesFlags (.part pid)) = false) [] [] [] s
  | .dfence => plainForm s p True [] [] [] (setPart pid (fun q => { q with unfenced := false, fenced := s.tick + 1 }) s)
  | .dget o =>
    let e := Cells.get ⟨0, false⟩ ((sVal p.thr o.sa).toNat % 128) (ctxTable s (agentCore s s.agent) ((agentCtx s s.agent).getD 0)).entries
    plainForm s p (e.poison = false) [] [o.sa] [o.sd] (writeS s.agent o.sd e.val s)
  | .prof o => plainForm s p True [] [] [o.sd] (writeS s.agent o.sd
      (if o.cnt.toNat ∈ [0, 3, 4, 5] then Config.profTime s.tick
       else Cells.get 0 ((agentCtx s s.agent).getD 0 * 16 + o.cnt.toNat) (coreOf s (agentCore s s.agent)).prof) s)
  | .fltgetMask o => plainForm s p True [] [] [o.sd] (writeS s.agent o.sd (frameReport p o.frame.toNat).mask s)
  | .fltget o =>
    let r := frameReport p o.frame.toNat
    let a := fun l => if r.mask.getLsbD l = true then Cells.get (0 : DWord) l r.addrs else 0
    let ls := actives p g 0
    laneOpForm s p g 0 True [] (regsFrom (o.vn.setWidth 6) 2) [] (setGroup p.gid (fun h =>
      putLanes p.wb ((o.vn.toNat + 1) % 64) (ls.map fun l => (l, (a l).extractLsb' 32 32))
        (putLanes p.wb o.vn.toNat (ls.map fun l => (l, (a l).setWidth 32)) h)) s)
  | _ => none

/-- `sset` by a part: selector, then what it changes (R26 to R28, R387); a read-only or unnamed selector changes nothing. -/
def partSets (pid : Nat) (p : Part) (c : Nat) (sel : Nat) (v : DWord) (s : State) : State :=
  match sel with
  | 5 => setPart pid (fun q => { q with em := v &&& q.own }) s
  | 7 => setPart pid (fun q => { q with wsp := v &&& 0x00FFFFFFFFFFFFC0 }) s
  | 8 => setGroup p.gid (fun h => { h with afl := v.setWidth 8 }) s
  | 9 => setGroup p.gid (fun h => { h with aen := v.setWidth 8 }) s
  | 10 => setGroup p.gid (fun h => { h with ovf := v &&& 0x0000FFFF00011FFF }) s
  | 12 => setCtx c (fun k => { k with tvec := v &&& 0x00FFFFFFFFFFFFFE }) s
  | 21 => setCtx c (fun k => { k with level := BitVec.ofNat 2 (min (v.toNat % 4) k.lr.qos) }) s
  | _ => s
/-- `sset` by a sequencer context (R26, R387). -/
def seqSets (sc c : Nat) (sel : Nat) (v : DWord) (s : State) : State :=
  match sel with
  | 8 => setSeq sc (fun q => { q with afl := v.setWidth 8 }) s
  | 9 => setSeq sc (fun q => { q with aen := v.setWidth 8 }) s
  | 10 => setSeq sc (fun q => { q with ovf := v &&& 0x0000FFFF00011FFF }) s
  | 21 => setCtx c (fun k => { k with level := BitVec.ofNat 2 (min (v.toNat % 4) k.lr.qos) }) s
  | _ => s
/-- Reads and writes of special registers (R26 to R30, R382, R387): CYC moves on at each read, TVEC is written only with T1. -/
def specialForm (s : State) (th : Thread) : Instr → Option AgentForm
  | .sget o => some ⟨True, [], [o.sd], past s th,
      if o.sel = 24 then writeS s.agent o.sd (readCyc (agentCore s s.agent) s).1 (readCyc (agentCore s s.agent) s).2
      else writeS s.agent o.sd (specialOf s s.agent o.sel.toNat) s⟩
  | .sset o => match s.agent with
    | .none => none
    | .part pid => match Cells.get? pid s.parts with
      | none => none
      | some p => some ⟨p.priv = true ∨ o.sel ≠ 12, [o.sa], [], past s th,
          partSets pid p ((agentCtx s s.agent).getD 0) o.sel.toNat (sVal th o.sa) s⟩
    | .seq sc => some ⟨True, [o.sa], [], past s th, seqSets sc ((agentCtx s s.agent).getD 0) o.sel.toNat (sVal th o.sa) s⟩
  | _ => none

/-- Bits lo to lo + n - 1 of a register. -/
def bitsOf (v : DWord) (lo n : Nat) : Nat := v.toNat / 2 ^ lo % 2 ^ n
/-- A team's place and geometry in the ranges that R11, R15, R22 and R282 give them. -/
structure GeometryFits (t : Team) (c : Context) : Prop where
  place : t.core < 1024 ∧ t.tslot < 4 ∧ t.ctx < 256 ∧ t.index < 2 ^ 32
  shape : t.rank < 12 ∧ c.lr.shape < 5
  ceiling : c.lr.qos < 4
/-- What every agent's special registers share, by selector and field (R26 to R28): TIX, CIX, CLX, DETM, QOS and the features. -/
structure SharedFields (t : Team) (c : Context) (r : Nat → DWord) : Prop where
  tix : (r 1).toNat = t.index
  cix : (r 2).toNat = t.index / ([4, 8, 8, 12, 12].getD c.lr.shape 0)
  clx : bitsOf (r 3) 0 4 = t.rank ∧ bitsOf (r 3) 4 3 = c.lr.shape ∧ bitsOf (r 3) 7 1 = 0 ∧
    bitsOf (r 3) 8 4 = [4, 8, 8, 12, 12].getD c.lr.shape 0 ∧ bitsOf (r 3) 14 50 = 0
  qrank : let w := [2, 2, 4, 2, 6].getD c.lr.shape 0
    bitsOf (r 3) 12 2 = t.rank / w / 2 * (w / 2) + t.rank % w / 2
  detm : (r 20).toNat = if c.lr.det then 1 else 0
  qos : bitsOf (r 21) 0 2 = c.level.toNat ∧ bitsOf (r 21) 2 6 = 0 ∧ bitsOf (r 21) 8 2 = c.lr.qos ∧ bitsOf (r 21) 10 54 = 0
  features : r 22 = 0xFFF ∧ r 23 = 0
/-- A chit of a team's range, by a register that holds its chits (R26, R27). -/
def inRange (t : Team) (i : Nat) : Prop := t.chit0 ≤ i ∧ i < t.chit0 + t.chitN
/-- The special registers of a part, by selector and field (R26, R27). -/
structure PartFields (p : Part) (g : Group) (t : Team) (c : Context) (tab : DictTable) (r : Nat → DWord) : Prop where
  gid : bitsOf (r 0) 0 10 = t.core ∧ bitsOf (r 0) 10 6 = g.gslot ∧ bitsOf (r 0) 16 2 = t.tslot ∧ bitsOf (r 0) 18 6 = 0 ∧
    bitsOf (r 0) 24 8 = t.ctx ∧ bitsOf (r 0) 32 6 = c.part.toNat ∧ bitsOf (r 0) 38 26 = 0
  gw : bitsOf (r 4) 0 7 = g.w ∧ bitsOf (r 4) 7 1 = 0 ∧ bitsOf (r 4) 8 5 = g.groups ∧ bitsOf (r 4) 13 3 = 0 ∧
    bitsOf (r 4) 16 9 = g.vregs ∧ bitsOf (r 4) 25 4 = g.grp ∧ bitsOf (r 4) 29 35 = 0
  window : r 5 = p.em ∧ (r 6).toNat = p.wb ∧ r 7 = p.wsp
  flags : (r 8).toNat = g.afl.toNat ∧ (r 9).toNat = g.aen.toNat ∧ r 10 = g.ovf
  traps : (r 11).toNat = p.tstack.length ∧ r 12 = c.tvec ∧ (r 19).toNat = if p.priv then 1 else 0
  report : r 13 = p.thr.report.va ∧ r 14 = p.thr.report.info ∧ r 15 = p.thr.report.mask
  chits : ∀ i < 64, ((r 16).getLsbD i = true ↔ inRange t i ∧ t.chr.getLsbD i = true) ∧
    ((r 17).getLsbD i = true ↔ inRange t i ∧ t.cherr.getLsbD i = true)
  dstat : bitsOf (r 18) 0 8 = tab.ndef ∧ bitsOf (r 18) 8 1 = (if p.unfenced then 1 else 0) ∧ bitsOf (r 18) 9 7 = 0 ∧
    bitsOf (r 18) 16 16 = tab.gen.toNat ∧ bitsOf (r 18) 32 32 = 0
  shared : SharedFields t c r
/-- The special registers of a sequencer context, whose own first team is t (R26, R27). -/
structure SeqFields (s : State) (sc : Nat) (q : SeqCtx) (t : Team) (c : Context) (r : Nat → DWord) : Prop where
  gid : bitsOf (r 0) 0 10 = quadCore (sc / 8) ∧ bitsOf (r 0) 10 6 = sc % 8 ∧ bitsOf (r 0) 16 2 = 0 ∧ bitsOf (r 0) 18 1 = 1 ∧
    bitsOf (r 0) 19 5 = 0 ∧ bitsOf (r 0) 24 8 = q.ctx ∧ bitsOf (r 0) 32 6 = c.part.toNat ∧ bitsOf (r 0) 38 26 = 0
  zeros : ∀ n ∈ [4, 5, 6, 7, 11, 12, 15, 18, 19], r n = 0
  flags : (r 8).toNat = q.afl.toNat ∧ (r 9).toNat = q.aen.toNat ∧ r 10 = q.ovf
  report : r 13 = q.thr.report.va ∧ r 14 = q.thr.report.info
  chits : ∀ i < 64,
    let seen (f : Team → DWord) : Prop := ∃ x ∈ s.teams, x.2.ctx = q.ctx ∧ x.2.core = quadCore (sc / 8) ∧ x.2.exited = false ∧
      onCores s x.2.uid = true ∧ inRange x.2 i ∧ (f x.2).getLsbD i = true
    ((r 16).getLsbD i = true ↔ seen Team.chr) ∧ ((r 17).getLsbD i = true ↔ seen Team.cherr)
  shared : SharedFields t c r

/-! ### Control -/

/-- A call with a frame slide (R315, R316): the return address goes on the window stack; frames whose registers the new window
meets, and those beyond sixteen, oldest first, go to memory at WSP. -/
def callForm (s : State) (pid : Nat) (p : Part) (g : Group) (ok : Prop) (unis : List (BitVec 5)) (target : DWord) (slide : Nat) :
    Option PartForm :=
  let wb := (p.wb + slide) % g.vregs
  let st := ⟨past s p.thr, slide⟩ :: p.wstack
  let out := spillList g.vregs wb st
  if out = [] then jumpForm ok [] unis target (setPart pid (fun q => { q with wb := wb, wstack := st }) s)
  else match writeRows (.part pid) (placeOf s (.part pid)) s.nextId (spillRows g p.own p.wsp.toNat out) { s with nextId := s.nextId + 1 } with
    | (u, none) =>
      let bytes := (out.map fun f => (f.2.slide + 2) * 256).sum
      jumpForm (ok ∧ p.wsp ≠ 0 ∧ p.spc + out.length < 2 ^ 32 ∧ roomFor s (.part pid) false true = true ∧
          ∀ f ∈ out, ∀ r ∈ frameRegs g.vregs f, ∀ l ∈ lanesOf g.w p.own,
            (Cells.get LaneWord.zero (r * 64 + l) g.lanes).full = true ∧ (Cells.get LaneWord.zero (r * 64 + l) g.lanes).poison = false)
        [] unis target (setPart pid (fun q =>
          { q with wb := wb, wstack := st.take (st.length - out.length)
                   wsp := (q.wsp + BitVec.ofNat 64 bytes) &&& 0xFFFFFFFFFFFFFF, spc := q.spc + out.length }) u)
    | _ => none
/-- A return whose frame is in memory (R317): its record below WSP gives the return address, the slide and the frame's
registers. Addresses below WSP wrap at 2^64, and the PC takes an even address whatever the record holds (R35; the model's
choice, log entry 67). -/
def fillForm (s : State) (pid : Nat) (p : Part) (g : Group) : Option PartForm :=
  let pl := placeOf s (.part pid)
  let below := fun (n o : Nat) => (p.wsp - BitVec.ofNat 64 n + BitVec.ofNat 64 o).toNat
  match fillWords (.part pid) pl [below 512 (4 * lowLane p.own), below 256 (4 * lowLane p.own)] s with
  | (ws, u, none) =>
    let lo := ws.getD 0 0
    let hi := ws.getD 1 0
    let e : WFrame := ⟨BitVec.ofNat 64 (lo + hi % 2 ^ 24 * 2 ^ 32), hi / 2 ^ 24 % 8 * 8⟩
    let wb := (p.wb + g.vregs - e.slide % g.vregs) % g.vregs
    let ls := lanesOf g.w p.own
    let cells := ((frameRegs g.vregs (wb, e)).mapIdx fun j r =>
      ls.map fun l => (r * 64 + l, below ((e.slide + 2) * 256) (256 * j + 4 * l))).flatten
    match fillWords (.part pid) pl (cells.map Prod.snd) u with
    | (vs, v, none) =>
      let x := setGroup p.gid (fun h => { h with lanes := ((cells.map Prod.fst).zip vs).foldl (fun m q =>
        Cells.put LaneWord.zero q.1 ⟨BitVec.ofNat 32 q.2, true, false⟩ m) h.lanes }) v
      jumpForm (p.spc ≠ 0 ∧ roomFor s (.part pid) true false = true ∧
          ∀ r ∈ frameRegs g.vregs (wb, e), ∀ l ∈ ls, (Cells.get LaneWord.zero (r * 64 + l) g.lanes).full = true)
        [] [] (e.rpc &&& 0xFFFFFFFFFFFFFE) (setPart pid (fun q =>
          { q with wb := wb, wsp := (q.wsp - BitVec.ofNat 64 ((e.slide + 2) * 256)) &&& 0xFFFFFFFFFFFFFF, spc := q.spc - 1 })
          (countProf pl.core pl.ctx 11 (e.slide + 2) x))
    | _ => none
  | _ => none
/-- Branches, calls and returns of a part (R311, R312, R314 to R317, R319, R359): a `bk` whose lanes agree, a join of a lone
part, a return from a trap to its instruction or past it. -/
def controlForm (s : State) (pid : Nat) (p : Part) (g : Group) : Instr → Option PartForm
  | .bk o => jumpForm (p.em &&& maskVal g o.k.toNat = 0 ∨ p.em &&& ~~~maskVal g o.k.toNat = 0) [o.k.toNat] []
      (if p.em &&& maskVal g o.k.toNat = 0 then past s p.thr else relPc p.thr.pc o.disp) s
  | .bkany o => jumpForm True [o.k.toNat] [] (if p.em &&& maskVal g o.k.toNat ≠ 0 then relPc p.thr.pc o.disp else past s p.thr) s
  | .bkall o => jumpForm True [o.k.toNat] []
      (if p.em &&& ~~~maskVal g o.k.toNat = 0 then relPc p.thr.pc o.disp else past s p.thr) s
  | .bknone o => jumpForm True [o.k.toNat] [] (if p.em &&& maskVal g o.k.toNat = 0 then relPc p.thr.pc o.disp else past s p.thr) s
  | .call o => callForm s pid p g True [] (relPc p.thr.pc o.disp) (o.frame.toNat * 8)
  | .callr o => callForm s pid p g ((sVal p.thr o.sa).toNat % 2 = 0 ∧ (sVal p.thr o.sa).toNat < 2 ^ 56) [o.sa]
      (sVal p.thr o.sa) (o.frame.toNat * 8)
  | .ret => match p.wstack with
    | [] => fillForm s pid p g
    | e :: r => jumpForm True [] [] (e.rpc &&& 0xFFFFFFFFFFFFFF)
        (setPart pid (fun q => { q with wb := (q.wb + g.vregs - e.slide % g.vregs) % g.vregs, wstack := r }) s)
  | .join _ => jumpForm ((groupParts s p.gid).length = 1 ∨ p.tstack ≠ []) [] [] (past s p.thr) s
  | .tret o => match p.tstack with
    | [] => none
    | f :: _ => jumpForm (p.priv = true ∧ (o.mode = 0 ∨ o.mode = 2)) [] []
        ((if o.mode = 2 then f.pc + BitVec.ofNat 64 f.next else f.pc) &&& 0xFFFFFFFFFFFFFF) (setPart pid (fun q =>
          { popFrame q with thr := { (popFrame q).thr with ref := if o.mode = 2 then .free else .now f.pc } }) s)
  | _ => none
/-- Branches of any agent (R313, R314, R322). -/
def branchForm (s : State) (th : Thread) : Instr → Option AgentForm
  | .bs o =>
    let v := (sVal th o.sa).toInt
    let taken : Bool := match o.cond.toNat with
      | 0 => decide (v = 0)
      | 1 => decide (v ≠ 0)
      | 2 => decide (v < 0)
      | 3 => decide (0 ≤ v)
      | 4 => decide (0 < v)
      | _ => decide (v ≤ 0)
    some ⟨True, [o.sa], [], if taken then relPc th.pc o.disp else past s th, s⟩
  | .jmp o => some ⟨True, [], [], relPc th.pc o.disp, s⟩
  | .jmpr o => some ⟨(sVal th o.sa).toNat % 2 = 0 ∧ (sVal th o.sa).toNat < 2 ^ 56, [o.sa], [], sVal th o.sa, s⟩
  | .yield => some ⟨True, [], [], past s th, s⟩
  | _ => none

/-! ### Global memory -/

/-- The state after the first touch that an access makes, if it makes one (R336). -/
def touched (r : Reach) (s : State) : State :=
  match r with
  | .phys s' _ _ _ _ => s'
  | _ => s
/-- The address of a uniform access: base and scaled displacement (R243). -/
def uniformAddress (th : Thread) (o : OpV) (n : Nat) : Nat := (sVal th o.sa + BitVec.ofInt 64 (o.imm.toInt * n)).toNat
/-- A uniform load of n bytes: sd becomes empty and the bytes are on their way to it (R25, R246); an acquire at package scope
where `acq` holds. -/
def uniLoadForm (s : State) (th : Thread) (o : OpV) (n : Nat) (acq : Bool) : Option AgentForm :=
  let pl := placeOf s s.agent
  let addr := uniformAddress th o n
  let r := reachChecked s pl .read .none addr n
  let fence := fun t => if acq then acquireAt pl 3 t else t
  match readHit s.agent pl addr n r (fence (touched r s)) with
  | (none, _) => none
  | (some d, t) => some ⟨roomFor s s.agent true false = true ∧ hitCause true r = none, [o.sa], [o.sd], past s th,
      landS s.agent pl.ctx o.sd (BitVec.ofNat 64 (ofBytes d)) true (fence t)⟩
/-- A uniform store of n bytes (R246): a release at package scope where `rel` holds. -/
def uniStoreForm (s : State) (th : Thread) (o : OpV) (n : Nat) (rel : Bool) : Option AgentForm :=
  let pl := placeOf s s.agent
  let addr := uniformAddress th o n
  let r := reachChecked s pl .write .none addr n
  let gid := match s.agent with
    | .part pid => (match Cells.get? pid s.parts with
      | some p => p.gid
      | none => 0)
    | _ => 0
  match stagingRoom (touched r s) s.agent pl [addr] with
  | none => none
  | some u =>
    let v := if rel then releaseAt pl 3 u else u
    some ⟨roomFor s s.agent false true = true ∧ hitCause true r = none, [o.sa, o.sd], [], past s th,
      storeHit s.agent gid pl v.nextId false addr (toBytes n (sVal th o.sd).toNat) r { v with nextId := v.nextId + 1 }⟩
/-- Uniform accesses (R246). -/
def uniMemForm (s : State) (th : Thread) : Instr → Option AgentForm
  | .sld64 o => uniLoadForm s th o 8 false
  | .sld32 o => uniLoadForm s th o 4 false
  | .slda o => uniLoadForm s th o 8 true
  | .sst64 o => uniStoreForm s th o 8 false
  | .sst32 o => uniStoreForm s th o 4 false
  | .sstl o => uniStoreForm s th o 8 true
  | _ => none

/-- The address of a lane: the pair of registers at va, and a displacement (R243). -/
def laneAddress (p : Part) (g : Group) (va : BitVec 6) (off : Int) (l : Nat) : Nat :=
  (BitVec.ofInt 64 ((laneVal g p.wb ((va.toNat + 1) % 64) l).toNat * 2 ^ 32 + (laneVal g p.wb va.toNat l).toNat + off)).toNat
/-- What the active lanes' addresses reach, in ascending order, and the state after their first touches. -/
def laneHits (s : State) (p : Part) (g : Group) (pk : BitVec 2) (va : BitVec 6) (off : Int) (k : AccessKind) (pt : PoisonTest) (n : Nat) :
    List LaneHit × State :=
  reachLanes (placeOf s s.agent) k pt n ((actives p g pk).map fun l => (l, laneAddress p g va off l)) s
/-- What the lanes of a load reach, and what they then read after the acquire of its scope: each lane's hit, which is POISON where it
reads poison, and its bytes (R243, R247 to R249, R372). -/
def laneReads (s : State) (p : Part) (g : Group) (o : OpM) (strict : Bool) (scope : Option Nat) :
    List LaneHit × List (LaneHit × List Byte) × State :=
  let n : Nat := 2 ^ o.size.toNat
  let pl := placeOf s s.agent
  let x := laneHits s p g o.pk o.va (o.x.toInt * n) (if strict then .read else .lane) .none n
  (x.1, readLanes s.agent pl n x.1 (match scope with
    | some c => acquireAt pl c x.2
    | none => x.2))
/-- A lane load (R247 to R249): registers become empty and the bytes are on their way; without `strict`, lanes without a
resident page read zero and set their bit of the residency mask. -/
def laneLoadForm (s : State) (p : Part) (g : Group) (o : OpM) (strict : Bool) (kr : BitVec 2) (scope : Option Nat) :
    Option PartForm :=
  let n : Nat := 2 ^ o.size.toNat
  let pl := placeOf s s.agent
  let x := laneReads s p g o strict scope
  laneOpForm s p g o.pk (roomFor s s.agent true false = true ∧ laneTrap strict false (x.2.1.map Prod.fst) = none) (regsFrom o.va 2)
    (regsFrom o.vt (sizeRegs n)) []
    (setKr p.gid kr (maskOf ((x.1.filter fun h => hitZero h.hit).map LaneHit.lane))
      (landLanes s.agent p g pl.ctx o.vt n (x.2.1.map fun q => (q.1.lane, q.2)) true false (match scope with
        | some c => acquireAt pl c x.2.2
        | none => x.2.2)))
/-- A lane store (R247 to R249). -/
def laneStoreForm (s : State) (p : Part) (g : Group) (o : OpM) (scope : Option Nat) : Option PartForm :=
  let n : Nat := 2 ^ o.size.toNat
  let pl := placeOf s s.agent
  let x := laneHits s p g o.pk o.va (o.x.toInt * n) .write .none n
  match stagingRoom x.2 s.agent pl (x.1.map LaneHit.addr) with
  | none => none
  | some u =>
    let v := match scope with
      | some c => releaseAt pl c u
      | none => u
    laneOpForm s p g o.pk (roomFor s s.agent false true = true ∧ laneTrap true true x.1 = none)
      (regsFrom o.va 2 ++ regsFrom o.vt (sizeRegs n)) [] []
      (storeLanes s.agent p g pl o.vt n v.nextId x.1 { v with nextId := v.nextId + 1 })
/-- A lane atomic (R250, R251): a release before, an acquire after. -/
def atomForm (s : State) (p : Part) (g : Group) (o : OpM) : Option PartForm :=
  let n : Nat := 2 ^ o.size.toNat
  let pl := placeOf s s.agent
  let x := laneHits s p g o.pk o.va 0 .write .old n
  match stagingRoom x.2 s.agent pl (x.1.map LaneHit.addr) with
  | none => none
  | some u =>
    let y := atomLanes s.agent p g pl o.x o.vt n x.1 (releaseAt pl (o.kr.toNat + 1) u)
    laneOpForm s p g o.pk (roomFor s s.agent true true = true ∧ laneTrap true true x.1 = none)
      (regsFrom o.va 2 ++ regsFrom o.vt (atomRegs o.x n)) (regsFrom o.vt (sizeRegs n)) []
      (landLanes s.agent p g pl.ctx o.vt n y.1 true true (acquireAt pl (o.kr.toNat + 1) y.2))
/-- A page request (R253) whose pages all have an answer. -/
def pgreqForm (s : State) (p : Part) (g : Group) (o : OpPgreq) : Option PartForm :=
  let n : Nat := 2 ^ o.size.toNat
  let x := askLanes (placeOf s s.agent) p.thr.asked n ((actives p g o.pk).map fun l => (l, laneAddress p g o.va 0 l)) s
  laneOpForm s p g o.pk
    (∀ q ∈ x.1, q.2.2 = .granted ∨ q.2.2 = .refused ∧ o.kr ≠ 0) (regsFrom o.va 2) [] []
    (if o.kr = 0 then x.2
     else setGroup p.gid (putMask (o.kr.toNat + 4) (activeMask p g o.pk &&& lowMask g.w)
       (maskOf ((x.1.filter fun q => q.2.2 == .refused).map Prod.fst))) x.2)
/-- A prefetch (R253): it completes whatever its registers hold, and only lanes whose address can be used reach a page. -/
def prefetchForm (s : State) (p : Part) (g : Group) (o : OpPfch) : Option PartForm :=
  let usable := fun l => (regsFrom o.va 2).all fun r => (laneWord g p.wb r l).full && !(laneWord g p.wb r l).poison
  some { ok := True, lanes := [], srcs := [], dsts := [], masks := [], unis := [], udsts := []
         count := (lanesOf 64 (activeMask p g o.pk)).length, pc := past s p.thr
         next := if o.pk ≠ 0 ∧ o.pk.toNat ∈ g.maskPoison then s
           else (((actives p g o.pk).map fun l => (l, laneAddress p g o.va 0 l)).filter fun q => usable q.1).foldl
             (fun s q => prefetchLine (placeOf s s.agent) q.2 (2 ^ o.size.toNat) s) s }
/-- Global accesses of lanes, requests and fences (R217 to R219, R247 to R253). -/
def memoryForm (s : State) (_ : Nat) (p : Part) (g : Group) : Instr → Option PartForm
  | .ld o => laneLoadForm s p g o false o.kr none
  | .lda o => laneLoadForm s p g o true 0 (some (o.kr.toNat + 1))
  | .st o => laneStoreForm s p g o none
  | .stl o => laneStoreForm s p g o (some (o.kr.toNat + 1))
  | .atom o => atomForm s p g o
  | .pgreq o => pgreqForm s p g o
  | .pfch o => prefetchForm s p g o
  | .fenceFull o =>
    let u := acquireAt (placeOf s s.agent) o.scope.toNat (releaseAt (placeOf s s.agent) o.scope.toNat s)
    plainForm s p True [] [] [] (if 3 ≤ o.scope.toNat then drainUpds u else u)
  | .fenceAcq o => plainForm s p True [] [] [] (acquireAt (placeOf s s.agent) o.scope.toNat s)
  | .fenceRel o => plainForm s p True [] [] [] (releaseAt (placeOf s s.agent) o.scope.toNat s)
  | .fenceEng o => plainForm s p True [] [] [] (releaseAt (placeOf s s.agent) (max 2 o.scope.toNat) s)
  | _ => none

/-! ### Boxes and chits -/

/-- The lanes of a box access with their offsets and checks (R254). -/
def boxHits (p : Part) (g : Group) (pk : BitVec 2) (va : BitVec 6) (b : Option Box) (store reads kr : Bool) (n : Nat) :
    List (Nat × Nat × BoxHit) :=
  let hs := (actives p g pk).map fun l =>
    ((l, (laneVal g p.wb va.toNat l).toNat, boxLane b kr (laneVal g p.wb va.toNat l).toNat n) : Nat × Nat × BoxHit)
  if hs.any fun h => h.2.2.fails then hs else hs.map (boxLate b store reads n)
/-- Lanes that leave the box. -/
def outside (hs : List (Nat × Nat × BoxHit)) : DWord := maskOf ((hs.filter fun h => h.2.2 == .outside).map Prod.fst)
/-- One access counted in the part's context (R391). -/
def counted (s : State) (cnt : Nat) (t : State) : State := countProf (agentCore s s.agent) ((agentCtx s s.agent).getD 0) cnt 1 t
/-- Box accesses of lanes by a group that holds the box (R254, R255). -/
def boxAccessForm (s : State) (_ : Nat) (p : Part) (g : Group) : Instr → Option PartForm
  | .bld o =>
    let n : Nat := 2 ^ o.size.toNat
    match heldBox s p.gid g (sVal p.thr (boxReg o.sh)) with
    | none => none
    | some (_, b) =>
      let hs := boxHits p g o.pk o.va (some b) false true (o.kr != 0) n
      laneOpForm s p g o.pk (roomFor s s.agent true false = true ∧ boxLaneTrap false hs = none) [o.va.toNat]
        (regsFrom o.vt (sizeRegs n)) [boxReg o.sh]
        (setKr p.gid o.kr (outside hs) (counted s 8 (landLanes s.agent p g ((agentCtx s s.agent).getD 0) o.vt n
          (hs.map fun h => (h.1, if h.2.2 = .inside then memBytes b.front h.2.1 n else List.replicate n 0)) true false s)))
  | .bst o =>
    let n : Nat := 2 ^ o.size.toNat
    let h := sVal p.thr (boxReg o.sh)
    match heldBox s p.gid g h with
    | none => none
    | some (uid, b) =>
      let hs := boxHits p g o.pk o.va (some b) true false (o.kr != 0) n
      laneOpForm s p g o.pk (roomFor s s.agent false true = true ∧ boxLaneTrap true hs = none) (o.va.toNat :: regsFrom o.vt (sizeRegs n)) [] [boxReg o.sh]
        (setKr p.gid o.kr (outside hs) (setBox uid (boxKey h) (writeFronts ((hs.filter fun x => x.2.2 == .inside).map fun x =>
          (x.2.1, laneBytes g p.wb o.vt n x.1))) (counted s 8 s)))
  | .batom o =>
    let n := if o.op = 13 then 16 else 4
    let h := sVal p.thr (boxReg o.sh)
    match heldBox s p.gid g h with
    | none => none
    | some (uid, b) =>
      let hs := boxHits p g o.pk o.va (some b) true true false n
      let y := boxAtoms p g uid (boxKey h) o.op.toNat n o.vt hs (counted s 8 s)
      laneOpForm s p g o.pk (roomFor s s.agent true true = true ∧ boxLaneTrap true hs = none)
        (o.va.toNat :: regsFrom o.vt (if o.op = 9 then 2 else sizeRegs n)) (regsFrom o.vt (sizeRegs n)) [boxReg o.sh]
        (landLanes s.agent p g ((agentCtx s s.agent).getD 0) o.vt n y.1 true true y.2)
  | _ => none

/-- The free slots of a vault (R258). Which of them a new box takes is free (DESIGN CHOICE, log entry 32). -/
def freeSlots (s : State) (core : Nat) : List Nat := (List.range 1024).filter fun k => !(vaultBoxes s core).any fun b => b.1 == k
/-- Granules that a team's boxes count (R226). -/
def teamCharge (u : Cluster) (tid : Nat) : Nat := ((u.boxes.filter fun b => b.2.tid == tid).map fun b => b.2.charge).sum
/-- Box management by a group (R224 to R227, R258 to R261). How many lines of a drain in flight land before a `settle` is open
(DESIGN CHOICE, log entry 32). -/
def boxForm (s : State) (_ : Nat) (p : Part) (g : Group) : Instr → Option PartForm
  | .bxnew o =>
    let z := (sVal p.thr o.sa).toNat
    let ok := 0 < z ∧ z ≤ 1048576 ∧ z % 4096 = 0
    match partUnit s g with
    | none => none
    | some (uid, t, u) => match ctxOf? s t.ctx with
      | none => none
      | some c =>
        let charge := if o.f then 2 * (z / 4096) else z / 4096
        let key := t.rank * 1024 + anyOf 1 s.tick (freeSlots s t.core)
        let gen := Cells.get 0 (key % 1024) (coreOf s t.core).gens % 65535 + 1
        let b : Box := { gen := gen, gran := z / 4096, escrow := o.f, holder := some p.gid, tid := g.tid, front := [], back := []
                         frontPoison := [], backPoison := [], lends := [] }
        plainForm s p ok [] [o.sa] [o.sd]
          (if freeSlots s t.core ≠ [] ∧ ((vaultBoxes s t.core).map fun b => b.2.charge).sum + charge ≤ 1024 ∧
              teamCharge u g.tid + charge ≤ c.lr.boxq then
            writeS s.agent o.sd (boxHandle key b) (setCore t.core (fun k => { k with gens := Cells.insert (key % 1024) gen k.gens })
              (setCluster uid (fun u =>
                { u with boxes := Cells.insert key b u.boxes, gens := Cells.insert key gen u.gens }) s))
           else writeS s.agent o.sd 0 s)
  | .bxfree o => match heldBox s p.gid g (sVal p.thr o.sa) with
    | none => none
    | some (uid, b) => plainForm s p (b.lends = [] ∧ boxInUse s uid (boxKey (sVal p.thr o.sa)) = false) [] [o.sa] [] (eraseBox uid (boxKey (sVal p.thr o.sa)) s)
  | .bxgive o =>
    let h := sVal p.thr o.sa
    match heldBox s p.gid g h with
    | none => none
    | some (uid, b) => match giveTarget s uid (sVal p.thr o.sb) with
      | none => none
      | some (gid, rcv) => plainForm s p (b.lends = [] ∧ rcv.takeq.length < 16) [] [o.sa, o.sb] []
          (if rcv.exited = true then eraseBox uid (boxKey h) (releaseAt (placeOf s s.agent) 2 s)
           else setGroup gid (fun q => { q with takeq := q.takeq ++ [h.setWidth 32] })
             (wakeBoxes (setBox uid (boxKey h) (fun b => { b with holder := none }) (releaseAt (placeOf s s.agent) 2 s))))
  | .bxtake o => match g.takeq, partUnit s g with
    | h :: r, some (uid, _, _) => plainForm s p True [] [] [o.sd] (writeS s.agent o.sd (h.setWidth 64)
        (setGroup p.gid (fun q => { q with takeq := r }) (setBox uid (boxKey (h.setWidth 64))
          (fun b => { b with holder := some p.gid }) (acquireAt (placeOf s s.agent) 2 s))))
    | [], _ => plainForm s p (o.f = true) [] [] [o.sd] (writeS s.agent o.sd 0 s)
    | _, _ => none
  | .bxlend o =>
    let h := sVal p.thr o.sa
    match heldBox s p.gid g h, partUnit s g with
    | some (uid, b), some (_, t, u) => match ctxOf? s u.ctx with
      | none => none
      | some c => match (rectQuads c.lr.shape u.die u.qx u.qy)[(sVal p.thr o.sb).toNat]? with
        | none => none
        | some q => plainForm s p ((∀ l ∈ b.lends, l.quad ≠ q) ∧ (chitRange t).getLsbD o.chit.toNat = true) [] [o.sa, o.sb] []
            (setBox uid (boxKey h) (fun b => { b with lends := b.lends ++ [⟨q, g.tid, o.chit.toNat, false⟩] })
              (releaseAt (placeOf s s.agent) 2 s))
    | _, _ => none
  | .settle o => match heldBox s p.gid g (sVal p.thr o.sa) with
    | none => none
    | some (uid, b) =>
      let h := sVal p.thr o.sa
      let u := ((s.seqs.filter fun q => q.2.uid == uid).map Prod.fst).foldl (fun t sc => drainSome sc h t) s
      plainForm s p (b.escrow = true ∧ ∀ q ∈ s.seqs, q.2.uid = uid → ∀ e ∈ q.2.ops, e.granted = true → e.uses (boxKey h) = false)
        [] [o.sa] [] (setBox uid (boxKey h)
          (fun b => { b with front := b.back, back := b.front, frontPoison := b.backPoison, backPoison := b.frontPoison })
          (releaseAt (placeOf u s.agent) 2 u))
  | .bxinfo o => plainForm s p True [] [o.sa] [o.sd] (writeS s.agent o.sd
      (match (partUnit s g).bind fun x => boxAt x.2.2 (sVal p.thr o.sa) with
       | some b => BitVec.ofNat 64 (b.gran + (if b.escrow then 2 ^ 9 else 0) + (if b.holder = some p.gid then 2 ^ 10 else 0) +
           b.lends.length * 2 ^ 11 + 2 ^ 13)
       | none => 0) s)
  | .bxrecall o => match heldBox s p.gid g (sVal p.thr o.sa) with
    | none => none
    | some (uid, b) => plainForm s p (b.lends = [] ∨ boxInUse s uid (boxKey (sVal p.thr o.sa)) = false) [] [o.sa] []
        (if b.lends = [] then s
        else acquireAt (placeOf s s.agent) 2 (endLends uid (boxKey (sVal p.thr o.sa)) true s))
  | _ => none

/-- Chit instructions (R269): only chits of the agent's range count. -/
def chitForm (s : State) (th : Thread) : Instr → Option AgentForm
  | .chwa o =>
    let m := sVal th o.sa &&& agentRange s s.agent
    let r := m &&& agentChr s s.agent
    some ⟨m = 0 ∨ r ≠ 0, [o.sa], [o.sd], past s th,
      if m = 0 then writeS s.agent o.sd (BitVec.allOnes 64) s
      else writeS s.agent o.sd (BitVec.ofNat 64 (lowLane r)) (acquireAt (placeOf s s.agent) 2 s)⟩
  | .chwl o =>
    let m := sVal th o.sa &&& agentRange s s.agent
    some ⟨m &&& ~~~agentChr s s.agent = 0, [o.sa], [o.sd], past s th,
      writeS s.agent o.sd (m &&& agentCherr s s.agent) (acquireAt (placeOf s s.agent) 2 s)⟩
  | .chff o =>
    let r := sVal th o.sa &&& agentRange s s.agent &&& agentChr s s.agent
    some ⟨True, [o.sa], [o.sd], past s th,
      if r = 0 then writeS s.agent o.sd (BitVec.allOnes 64) s
      else writeS s.agent o.sd (BitVec.ofNat 64 (lowLane r)) (acquireAt (placeOf s s.agent) 2 s)⟩
  | .chclr o => some ⟨True, [o.sa], [], past s th, setChits s.agent (fun q =>
      { q with chr := q.chr &&& ~~~(sVal th o.sa &&& chitRange q), cherr := q.cherr &&& ~~~(sVal th o.sa &&& chitRange q) }) s⟩
  | .chget o => some ⟨True, [o.sa], [o.sd], past s th,
      writeS s.agent o.sd (sVal th o.sa &&& (if o.err then agentCherr s s.agent else agentChr s s.agent)) s⟩
  | .chset o => some ⟨True, [o.sa], [], past s th,
      setChits s.agent (fun q => { q with chr := q.chr ||| (sVal th o.sa &&& chitRange q) }) s⟩
  | _ => none

/-! ### Sequences -/

/-- A live, untampered sequence that a register names (R270). -/
def seqOf (s : State) (h : Nat) : Option Sq :=
  match liveSq s (placeOf s s.agent).part h with
  | some q => if q.tampered then none else some q
  | none => none
/-- The descriptor's words, its home and the state in which the part's own stores to it are performed (R270). -/
def descOf (s : State) (h : Nat) : Option (List Nat × Nat × State) :=
  match readDesc (placeOf s s.agent) h s with
  | (.ok (w, die), t) => some (w, die, t)
  | _ => none
/-- Sequence instructions whose handle names a live sequence, or for sqmint none (R231, R270 to R277, R410, R411). -/
def seqForm (s : State) (pid : Nat) (p : Part) (g : Group) : Instr → Option PartForm
  | .sqmint o =>
    let h := (sVal p.thr o.sa).toNat
    let pl := placeOf s s.agent
    match descOf s h, parOf? s pl.part with
    | some (w, die, u), some t => match mapTables pl.part die (BitVec.ofNat 64 (w.getD 0 0)) (w.getD 5 0) (releaseSq pl h u) with
      | none => none
      | some (st, su, u) =>
        let q : Sq := { part := pl.part, handle := h, cfg := BitVec.ofNat 64 (w.getD 0 0), cap := w.getD 1 0, cl := 0, rl := 0
                        win := w.getD 4 0, wmax := w.getD 5 0, stab := st, sumt := su, committed := [], segs := [], queue := []
                        tampered := false, clock := [0, 0, 0, 0] }
        plainForm s p (h % 64 = 0 ∧ liveSq s pl.part h = none ∧
            cfgOk t (BitVec.ofNat 64 (w.getD 0 0)) (w.getD 1 0) (w.getD 4 0) (w.getD 5 0) = true) [] [o.sa] []
          (syncSq (some pl.die) q true { u with sqs := u.sqs ++ [q] })
    | _, _ => none
  | .sqdrop o =>
    let h := (sVal p.thr o.sa).toNat
    let pl := placeOf s s.agent
    match seqOf s h with
    | none => none
    | some q =>
      let told := q.queue.map fun r => match r with
        | .res x _ => (⟨x, h⟩ : DroppedReq)
        | .waitFor x _ => ⟨x, h⟩
        | .fork x => ⟨x, h⟩
      let r := releaseSq pl h s
      let u := syncSq (some pl.die) q false (dropSegs q (endBindings pl.part h
        { r with sqs := r.sqs.filter fun x => !(x.part == pl.part && x.handle == h), dropped := r.dropped ++ told }))
      let v := unmapTable pl.part q.stab (q.wmax / 2 ^ cfgG q.cfg * 8) u
      plainForm s p True [] [o.sa] []
        (if cfgSummary q.cfg then unmapTable pl.part q.sumt (q.wmax / 2 ^ cfgG q.cfg * sumBytes q.cfg) v else v)
  | .sqres o =>
    let h := (sVal p.thr o.sa).toNat
    let n := (sVal p.thr o.sb).toNat
    let pl := placeOf s s.agent
    match seqOf s h with
    | none => none
    | some q =>
      let ok := 1 ≤ n ∧ n ≤ 65536 ∧ wasDropped s pid h = false
      match (if grantable s q pid n then allocSegs pl.part h (sqDie s pl.part h) (newSegs q q.rl (q.rl + n)) s else none) with
      | some u =>
        let v := withdraw pid (setSq pl.part h (fun q => { q with rl := q.rl + n }) u)
        let w := match liveSq v pl.part h with
          | some q => syncSq (some pl.die) q true v
          | none => v
        let w := answerSq pl h w
        plainForm s p ok [] [o.sa, o.sb] [o.sd]
          (if o.try_ then landS s.agent pl.ctx o.sd (BitVec.ofNat 64 q.rl) false w else writeS s.agent o.sd (BitVec.ofNat 64 q.rl) w)
      | none => plainForm s p (ok ∧ o.try_ = true) [] [o.sa, o.sb] [o.sd] (landS s.agent pl.ctx o.sd (BitVec.allOnes 64) false (answerSq pl h s))
  | .sqcom o =>
    let h := (sVal p.thr o.sa).toNat
    let a := (sVal p.thr o.sb).toNat
    let n := (sVal p.thr o.sn).toNat
    let pl := placeOf s s.agent
    match seqOf s h with
    | none => none
    | some q =>
      let u := releaseSq pl h s
      plainForm s p (1 ≤ n ∧ n ≤ 65536 ∧ q.cl ≤ a ∧ a + n ≤ q.rl ∧ ∀ r ∈ q.committed, a + n ≤ r.1 ∨ r.2 ≤ a) []
        [o.sa, o.sb, o.sn] [] (commitRange pl.part h a n (dieClock u pl.die) u)
  | .sqlen o =>
    let pl := placeOf s s.agent
    if o.loc = true then
      let r := clReg s pid o.cl
      plainForm s p True [] [] [o.sd] (landS s.agent pl.ctx o.sd (BitVec.ofNat 64 r.2) false (acquireSq pl r.1 s))
    else match seqOf s (sVal p.thr o.sa).toNat with
      | none => none
      | some q => plainForm s p True [] [o.sa] [o.sd]
          (landS s.agent pl.ctx o.sd (BitVec.ofNat 64 q.cl) false (acquireSq pl q.clock (answerSq pl (sVal p.thr o.sa).toNat s)))
  | .sqwait o =>
    let pl := placeOf s s.agent
    let n := (sVal p.thr o.sb).toNat
    if o.loc = true then
      let r := clReg s pid o.cl
      let bound := match agentTeam s s.agent with
        | some (_, t) => (Cells.get? o.cl.toNat t.cls).isSome
        | none => false
      plainForm s p (n ≤ r.2 ∧ bound = true) [] [o.sb] [o.sd] (writeS s.agent o.sd (BitVec.ofNat 64 r.2) (acquireSq pl r.1 s))
    else
      let h := (sVal p.thr o.sa).toNat
      match seqOf s h with
      | none => none
      | some q => plainForm s p (n ≤ q.cl ∧ wasDropped s pid h = false) [] [o.sa, o.sb] [o.sd]
          (writeS s.agent o.sd (BitVec.ofNat 64 q.cl) (withdraw pid (acquireSq pl q.clock (answerSq pl h s))))
  | .sqbind o =>
    if o.off = true then plainForm s p True [] [] [] (setTeam g.tid (fun t => { t with cls := Cells.erase o.cl.toNat t.cls }) s)
    else
      let h := (sVal p.thr o.sa).toNat
      match seqOf s h with
      | none => none
      | some q => plainForm s p True [] [o.sa] []
          (setTeam g.tid (fun t => { t with cls := Cells.insert o.cl.toNat ⟨h, true, BitVec.ofNat 64 q.cl, q.clock⟩ t.cls }) s)
  | .sqext o =>
    let h := (sVal p.thr o.sa).toNat
    let n := (sVal p.thr o.sb).toNat
    let pl := placeOf s s.agent
    match seqOf s h with
    | none => none
    | some q => plainForm s p (n ≤ q.cap ∨ n ≤ q.wmax ∧ n % 2 ^ cfgG q.cfg = 0) [] [o.sa, o.sb] []
        (if n ≤ q.cap then releaseSq pl h s
         else syncSq (some pl.die) { q with cap := n } true (setSq pl.part h (fun q => { q with cap := n }) (releaseSq pl h s)))
  | .sqsum o =>
    let i := (sVal p.thr o.sb).toNat
    match seqOf s (sVal p.thr o.sa).toNat with
    | none => none
    | some q => plainForm s p True [] [o.sa, o.sb] [o.sd] (landS s.agent (placeOf s s.agent).ctx o.sd (BitVec.ofNat 64
        (if cfgSummary q.cfg = true ∧ (Cells.get? i q.segs).isSome = true ∧ (i + 1) * 2 ^ cfgG q.cfg ≤ q.cl then
          q.sumt + i * sumBytes q.cfg else 0)) false (answerSq (placeOf s s.agent) (sVal p.thr o.sa).toNat s))
  | .sqaddr o =>
    let i := (sVal p.thr o.sb).toNat
    match seqOf s (sVal p.thr o.sa).toNat with
    | none => none
    | some q => plainForm s p True [] [o.sa, o.sb] [o.sd] (landS s.agent (placeOf s s.agent).ctx o.sd (BitVec.ofNat 64
        (if i < q.wmax then q.win + i * 2 ^ cfgEsz q.cfg else 0)) false (answerSq (placeOf s s.agent) (sVal p.thr o.sa).toNat s))
  | .sqinfo o => match seqOf s (sVal p.thr o.sa).toNat with
    | none => none
    | some q => plainForm s p True [] [o.sa] [o.sd] (landS s.agent (placeOf s s.agent).ctx o.sd (BitVec.ofNat 64
        (match o.k.toNat with
         | 0 => q.cl
         | 1 => q.rl
         | 2 => q.cap
         | 3 => ((sqWords q true).headD 0).toNat
         | 4 => q.segs.length
         | _ => freeSegs s q)) false (answerSq (placeOf s s.agent) (sVal p.thr o.sa).toNat s))
  | _ => none
/-- The slots of a source's last segment below a length, copied with their poison into a fork's fresh segment (R275). -/
def copyTail (p : BitVec 6) (q : Sq) (d f len : Nat) (s : State) : State :=
  match Cells.get? f q.segs, (liveSq s p d).bind fun n => Cells.get? f n.segs with
  | some src, some dst => copySeg q.cfg src dst (len % 2 ^ cfgG q.cfg * 2 ^ cfgEsz q.cfg) s
  | _, _ => s
/-- A fork of a live sequence at a length up to CL: it shares every whole segment below the length, and takes a fresh segment for
the slots of a last one (R275). -/
def forkForm (s : State) (pid : Nat) (p : Part) (_ : Group) : Instr → Option PartForm
  | .sqfork o =>
    let h := (sVal p.thr o.sa).toNat
    let len := (sVal p.thr o.sb).toNat
    let d := (sVal p.thr o.sn).toNat
    let pl := placeOf s s.agent
    match seqOf s h, descOf s d, parOf? s pl.part with
    | some q, some (w, die, u), some t => match mapTables pl.part die q.cfg (w.getD 5 0) u with
      | none => none
      | some (st, su, u) =>
        let f := len / 2 ^ cfgG q.cfg
        let whole := len % 2 ^ cfgG q.cfg = 0
        let n : Sq := { part := pl.part, handle := d, cfg := q.cfg, cap := q.cap, cl := len, rl := len, win := w.getD 4 0
                        wmax := w.getD 5 0, stab := st, sumt := su, committed := [], segs := q.segs.filter fun x => decide (x.1 < f)
                        queue := [], tampered := false, clock := List.zipWith max q.clock (dieClock u pl.die) }
        let v := n.segs.foldl (fun s x => syncSeg pl.part x.2 s) { u with sqs := u.sqs ++ [n] }
        match if whole then some v else (allocSegs pl.part d die [f] v).map (copyTail pl.part q d f len) with
        | none => none
        | some v =>
          let x := if cfgSummary q.cfg then (List.range f).foldl (fun s i =>
              copyRecord pl.part (q.sumt + i * sumBytes q.cfg) (su + i * sumBytes q.cfg) (sumBytes q.cfg) s) v else v
          let y := match liveSq x pl.part d with
            | some n => syncSq (some pl.die) n true x
            | none => x
          plainForm s p ((whole ∨ freeSegs s q ≠ 0) ∧ d % 64 = 0 ∧ liveSq s pl.part d = none ∧ len ≤ q.cl ∧
              wasDropped s pid h = false ∧ cfgOk t (q.cfg &&& ~~~(1#64 <<< 32)) q.cap (w.getD 4 0) (w.getD 5 0) = true) []
            [o.sa, o.sb, o.sn] [] (withdraw pid (acquireSq pl q.clock y))
    | _, _, _ => none
  | _ => none

/-! ### Commands of the copy engine, encoder and collective unit -/

/-- A form that issues a command: what its checks ask, the lanes and registers it reads, its active lanes, its f bit and chit,
the command, the state after its reads, and what it writes beside the command. -/
structure CmdForm where
  ok : Prop
  lanes : List Nat
  srcs : List Nat
  unis : List (BitVec 5)
  count : Nat
  f : Bool
  chit : BitVec 6
  kind : CmdKind
  read : State
  mark : State → State
/-- The command that a part hands over (R262). -/
def commandOf (s : State) (pid : Nat) (p : Part) (g : Group) (F : CmdForm) : Cmd :=
  { ticket := F.read.nextId, core := agentCore s (.part pid), ctx := (agentCtx s (.part pid)).getD 0, tid := g.tid, gid := p.gid
    who := .part pid, pc := p.thr.pc, chit := if F.f then some F.chit else none, kind := F.kind, asked := [], pushed := 0, sent := [], pos := 0
    failed := none, recorded := false }
/-- The state once the command has been handed over. -/
def handedOver (s : State) (pid : Nat) (p : Part) (g : Group) (F : CmdForm) : State :=
  F.mark (counted s 9 { F.read with cmds := F.read.cmds ++ [commandOf s pid p g F], nextId := F.read.nextId + 1 })
/-- The copy descriptor that a part reads, with the state after the read (R263). -/
def readCopy (s : State) (a : DWord) : Option (CpyDesc × State) :=
  match readWords s.agent (placeOf s s.agent) false ((List.range 16).map fun i => a.toNat + 8 * i) s with
  | (w, t, none) => some (cpyDesc w, t)
  | _ => none
/-- A form whose command reads uniform registers only. -/
def cmdForm (s : State) (ok : Prop) (unis : List (BitVec 5)) (f : Bool) (chit : BitVec 6) (kind : CmdKind) (read : State) :
    Option CmdForm :=
  some { ok := ok ∧ (coreCmds s (agentCore s s.agent)).length < 32, lanes := [], srcs := [], unis := unis
         count := 0, f := f, chit := chit, kind := kind, read := read, mark := id }
/-- The chit of a command lies in its team's range (R262). -/
abbrev chitFits (s : State) (g : Group) (f : Bool) (c : BitVec 6) : Prop :=
  f = true → ∀ t, Cells.get? g.tid s.teams = some t → (chitRange t).getLsbD c.toNat = true
/-- The checks that commands pass before they are handed over (R190 to R193, R264 to R268). -/
def commandForm (s : State) (_ : Nat) (p : Part) (g : Group) : Instr → Option CmdForm
  | .cpy o => match readCopy s (sVal p.thr o.sa) with
    | none => none
    | some (d, t) => cmdForm t ((sVal p.thr o.sa).toNat % 128 = 0 ∧
        cpyTrap t p.gid g (sVal p.thr o.sa).toNat d = none ∧ chitFits t g o.f o.chit) [o.sa] o.f o.chit (.cpy d) t
  | .cpyx o =>
    let d := sVal p.thr o.sa
    let base := (sVal p.thr o.sb).toNat
    let w := sVal p.thr (o.sb + 1)
    let limit := w.toNat / 2 ^ 16 % 2 ^ 32
    let idx := (actives p g 0).map fun l => (l, (laneVal g p.wb o.vi.toNat l).toNat)
    some { ok := (descOk d = true ∧ w.toNat / 2 ^ 11 % 2 ^ 5 = 0 ∧ w.toNat / 2 ^ 50 = 0 ∧ 0 < gatherBlk w ∧ gatherBlk w ≤ 131072) ∧
             base % 128 = 0 ∧ checkBox s p.gid g d (descOff d) (descOff d + highLane p.em * gatherBlk w) false = none ∧
             chitFits s g o.f o.chit ∧ (coreCmds s (agentCore s s.agent)).length < 32
           lanes := actives p g 0, srcs := [o.vi.toNat], unis := [o.sa, o.sb, o.sb + 1], count := (lanesOf 64 p.em).length
           f := o.f, chit := o.chit, kind := .cpyx d base (gatherBlk w) limit idx, read := s
           mark := setGroup p.gid (putMask (w.toNat / 2 ^ 48 % 4 + 4) (p.em &&& lowMask g.w)
             (maskOf ((idx.filter fun q => decide (limit ≤ q.2)).map Prod.fst))) }
  | .cpyq o =>
    let a := sVal p.thr o.sa
    let w := sVal p.thr o.sb
    cmdForm s ((w.toNat < 2 ^ 7 ∧ (w.getLsbD 4 = true → descOk a = true)) ∧
      ownsQueue s (coreQuad (agentCore s s.agent)) ((agentCtx s s.agent).getD 0) (w.toNat % 16) = true ∧
      (w.getLsbD 4 = true → checkBox s p.gid g a 0 0 true = none) ∧ chitFits s g o.f o.chit) [o.sa, o.sb] o.f o.chit (.cpyq a w) s
  | .xsend o => cmdForm s (xferTrap s p g (sVal p.thr o.sa) (sVal p.thr o.sb) o.f o.chit = none) [o.sa, o.sb] o.f o.chit
      (.xsend (sVal p.thr o.sa) (sVal p.thr o.sb)) s
  | .xrecv o => cmdForm s (xferTrap s p g (sVal p.thr o.sa) (sVal p.thr o.sb) o.f o.chit = none) [o.sa, o.sb] o.f o.chit
      (.xrecv (sVal p.thr o.sa) (sVal p.thr o.sb)) s
  | .xred o =>
    let a := sVal p.thr o.sa
    let w := sVal p.thr o.sb
    cmdForm s ((w.toNat < 2 ^ 58 ∧ 0 < redCount w ∧ redFirst w + redCount w ≤ 512 ∧ 0 < redElems w) ∧ a.toNat % 128 = 0 ∧
      chitFits s g o.f o.chit) [o.sa, o.sb] o.f o.chit (.xred a w) s
  | .menc o =>
    let d := sVal p.thr o.sa
    let c := sVal p.thr o.sb
    let w := sVal p.thr o.sp
    match encParam w with
    | none => none
    | some e =>
      let n := Num.tileBytes e.f4 e.cap
      cmdForm s ((descOff c % 128 = 0 ∧ descOff d % 128 = 0 ∧ descOk c = true ∧ descOk d = true) ∧
        checkBox s p.gid g c (descOff c) (descOff c + 8192) true = none ∧
        checkBox s p.gid g d (descOff d) (descOff d + n) false = none ∧
        (descHandle c = descHandle d → overlaps (descOff c) 8192 (descOff d) n = false) ∧ chitFits s g o.f o.chit)
        [o.sa, o.sb, o.sp] o.f o.chit (.menc d c w) s
  | .mdec o =>
    let d := sVal p.thr o.sa
    let c := sVal p.thr o.sb
    match heldBox s p.gid g (descHandle c) with
    | none => none
    | some (_, b) =>
      let n := tileAt b (descOff c)
      cmdForm s ((descOff c % 128 = 0 ∧ descOff d % 128 = 0 ∧ descOk c = true ∧ descOk d = true) ∧
        checkBox s p.gid g c (descOff c) (descOff c + n) true = none ∧
        checkBox s p.gid g d (descOff d) (descOff d + 8192) false = none ∧
        (descHandle c = descHandle d → overlaps (descOff c) n (descOff d) 8192 = false) ∧ chitFits s g o.f o.chit)
        [o.sa, o.sb] o.f o.chit (.mdec d c) s
  | _ => none
/-- Registers that a command form reads can be read at once (R25, R137, R166, R372). -/
structure CmdReady (F : CmdForm) (p : Part) (g : Group) : Prop where
  srcs : ∀ n ∈ F.srcs, ∀ l ∈ F.lanes, (laneWord g p.wb n l).full = true ∧ (laneWord g p.wb n l).poison = false
  unis : ∀ r ∈ F.unis, (sregOf p.thr r.toNat).full = true ∧ (sregOf p.thr r.toNat).poison = false

/-! ### The engine -/

/-- A form of a sequencer context: what it asks, registers, and the state when it has completed. -/
structure SeqCtxForm where
  ok : Prop
  unis : List (BitVec 5)
  udsts : List (BitVec 5)
  next : State
/-- An operation posted to the engine, and what its posting settles (R187, R205, R206). -/
def postedOp (s : State) (sc : Nat) (kind : EngKind) (accs : BitVec 4) (chit : Option (BitVec 6)) : State :=
  settleOps sc (setSeq sc (fun q =>
    { q with ops := q.ops ++ [{ id := s.nextId, kind := kind, accs := accs, chit := chit, pc := q.thr.pc, granted := false
                                age := 0, elig := none, flags := 0, popped := [], heads := [], asked := [], pos := 0, cut := false, failed := none }] }) { s with nextId := s.nextId + 1 })
/-- The chit named where f = 1. -/
def chitField (f : Bool) (c : BitVec 6) : Option (BitVec 6) := if f then some c else none
/-- Engine instructions of sequencer contexts (R187, R195 to R206): a pass is posted only while none is posted. -/
def engineForm (s : State) (sc : Nat) (q : SeqCtx) : Instr → Option SeqCtxForm
  | .mma o => some ⟨q.ops.any EngOp.posted = false, [o.sa, o.sb], [], postedOp s sc
      (.pass false o.s.toNat (sVal q.thr o.sa) (sVal q.thr o.sb))
      (if o.s.toNat < 2 then 1#4 <<< o.acc.toNat else (1#4 <<< o.acc.toNat) ||| (1#4 <<< (o.acc + 1).toNat)) (chitField o.f o.chit)⟩
  | .mmb o => some ⟨q.ops.any EngOp.posted = false, [o.sa, o.sb], [], postedOp s sc
      (.pass true o.shape.toNat (sVal q.thr o.sa) (sVal q.thr o.sb)) (1#4 <<< o.acc.toNat) (chitField o.f o.chit)⟩
  | .mzero o => some ⟨True, [], [], postedOp s sc .zero (1#4 <<< o.acc.toNat) (chitField o.f o.chit)⟩
  | .mdrain o => some ⟨True, [o.sa], [], postedOp s sc (.drain (sVal q.thr o.sa)) (1#4 <<< o.acc.toNat) (chitField o.f o.chit)⟩
  | .mstore o => some ⟨True, [o.sa, o.sb], [], postedOp s sc (.store (sVal q.thr o.sa) (sVal q.thr o.sb) o.s.toNat)
      (1#4 <<< o.acc.toNat) (chitField o.f o.chit)⟩
  | .mscale o => some ⟨True, [o.sa], [], postedOp s sc (if o.f then .scaleRow (sVal q.thr o.sa) else .scale (sVal q.thr o.sa))
      (1#4 <<< o.acc.toNat) none⟩
  | .msig o => some ⟨True, [o.sa], [], postedOp s sc (.signal (sVal q.thr o.sa)) o.mask none⟩
  | .mrel o => some ⟨True, [o.sa], [], postedOp s sc (.release (sVal q.thr o.sa)) 0 none⟩
  | .mwait o => some ⟨∀ x ∈ q.ops, if x.engine = true then x.accs &&& o.mask = 0 else o.all = false, [], [],
      acquireAt (placeOf s s.agent) 3 s⟩
  | .mpick o =>
    let put (a b c : DWord) (t : State) := writeS s.agent (o.sd + 2) c (writeS s.agent (o.sd + 1) b (writeS s.agent o.sd a t))
    match fifoFront s sc q.ctx with
    | some e => some ⟨e.poison = false, [], [o.sd, o.sd + 1, o.sd + 2], put e.w0 e.w1 e.sig
        (acquireAt (placeOf s s.agent) 2 (setQuad (sc / 8) (fun k => { k with fifo := k.fifo.erase e }) s))⟩
    | none => some ⟨o.f = true, [], [o.sd, o.sd + 1, o.sd + 2],
        put (BitVec.allOnes 64) (BitVec.allOnes 64) (BitVec.allOnes 64) s⟩
  | _ => none
/-- A request that a part posts to its quad's sequencer contexts (R194, R195, R298): a release at cluster scope, and an entry
at the end of the FIFO. -/
def postForm (s : State) (_ : Nat) (p : Part) (g : Group) : Instr → Option PartForm
  | .mpost o =>
    let quad := coreQuad (agentCore s s.agent)
    let ctx := (agentCtx s s.agent).getD 0
    match ctxOf? s ctx, Cells.get? g.tid s.teams with
    | some c, some t => plainForm s p (o.ctx.toNat < c.lr.seqCtx ∧ fifoRoom (quadOf s quad) o.ctx.toNat = true) [] [o.sa, o.sb] []
        (setQuad quad (fun q => { q with fifo := q.fifo ++ [{ ctx := ctx, target := o.ctx.toNat, w0 := sVal p.thr o.sa
                                                              w1 := sVal p.thr o.sb, sig := signalWord o.f o.chit t g
                                                              poison := false }] })
          (releaseAt (placeOf s s.agent) 2 s))
    | _, _ => none
  | _ => none

/-! ### Operations that are no instructions -/

/-- An operation from outside the cores: what must hold for it to take effect, and the state after it. -/
structure EventForm where
  ok : Prop
  next : State
/-- Every operation of a family takes the effect that the family gives, and nothing else changes. -/
def EventFamily (form : State → Instr → Option EventForm) : Prop :=
  ∀ i F s, form s i = some F → F.ok → exec i s = .next F.next

/-! ### Registers and features -/

/-- The launch-queue register file of a VF with one queue changed (R280). -/
def lqSet (p : BitVec 6) (q : Nat) (f : LqRegs → LqRegs) (s : State) : State :=
  setFn p (fun r => { r with lq := Cells.put LqRegs.zero q (f (Cells.get LqRegs.zero q r.lq)) r.lq }) s
/-- A launch queue of a VF. -/
def lqOf (s : State) (p : BitVec 6) (q : Nat) : LqRegs := Cells.get LqRegs.zero q (fnOf s p).lq
/-- Registers that a VF's host writes, with what opens each (R9, R280, R331, R351, R368). A request while they are closed is
answered as Unsupported Request (R346). -/
def vfRegister (s : State) (p : BitVec 6) (off : Nat) (v : DWord) : Option EventForm :=
  let f := fnOf s p
  let run := vfOpen s p = true
  if off ≠ 0x10 ∧ off ≠ 0x18 ∧ vfOpen s p = false then some ⟨True, send (.unsupported p) s⟩
  else if off = 0x10 ∨ off = 0x18 then
    if vfIde s p = false then some ⟨True, send (.unsupported p) s⟩
    else if tdiOf s p = some .run then some ⟨True, s⟩
    else if tdiOf s p = some .locked then
      some ⟨True, setFn p (fun _ => if off = 0x10 then { f with featReq0 := v } else { f with featReq1 := v }) s⟩
    else some ⟨True, send (.unsupported p) s⟩
  else if off = 0x1000 ∨ off = 0x1020 ∨ off = 0x1040 ∨ off = 0x1060 then
    some ⟨run, if (lqOf s p ((off - 0x1000) / 0x20)).en = true then s
      else lqSet p ((off - 0x1000) / 0x20) (fun r => { r with base := v }) s⟩
  else if off = 0x2008 then some ⟨run, if f.mbusy = true then s else setFn p (fun _ => { f with mva := v &&& 0x00FFFFFFFFFFFFFF }) s⟩
  else if off = 0x2010 then some ⟨run, if f.mbusy = true then s else setFn p (fun _ => { f with mlen := v }) s⟩
  else if off = 0x2018 then some ⟨run, if f.mbusy = true then s else setFn p (fun _ => { f with mpeer := v &&& 0x3F7FFF }) s⟩
  else if off = 0x4000 then some ⟨run, setFn p (fun _ => { f with mlbase := v &&& 0x00FFFFFFFFFFFFFF }) s⟩
  else if off = 0x4010 then
    some ⟨run ∧ v.toNat % 2 ^ 4 = 0, if f.cbusy = true then s else setFn p (fun _ => { f with ccmd := v &&& 0x3FFFFFFFFF }) s⟩
  else if off = 0x3010 then
    some ⟨run, if f.dlock.getLsbD 1 = true then setFn p (fun _ => { f with dsel := v &&& 0x7FFFFFFF }) s else s⟩
  else if off = 0x3030 then
    some ⟨run, if f.dlock.getLsbD 2 = true ∨ f.dlock.getLsbD 3 = true then setFn p (fun _ => { f with ddata := v }) s else s⟩
  else if off = 0x3028 then
    let ctx := f.dsel.toNat % 2 ^ 8
    let own := (ctxOf? s ctx).any fun k => k.part == p
    let u := setFn p (fun _ => { f with dprof := v &&& 0xF }) s
    some ⟨run, if f.dlock.getLsbD 4 = true then send (.regValue p 0x3028
      (if own then profValue u ctx (f.dsel.toNat / 2 ^ 8 % 2 ^ 10) (v.toNat % 2 ^ 4) else 0)) u else s⟩
  else if off = 0x3008 then
    some ⟨run ∧ (v.toNat % 16 = 0 ∨ 6 ≤ v.toNat % 16), if f.dlock.getLsbD 1 = true then
      setFn p (fun _ => { f with dact := v.setWidth 4, dstat := if v.toNat % 16 = 0 then f.dstat else 0x01 }) s else s⟩
  else none
/-- Registers that the operator writes (R9, R377). -/
def pfRegister (s : State) (off : Nat) (v : DWord) : Option EventForm :=
  if off = 0x10 then some ⟨True, if s.pf.vfEnable = true then s else { s with pf := { s.pf with featReq0 := v } }⟩
  else if off = 0x18 then some ⟨True, if s.pf.vfEnable = true then s else { s with pf := { s.pf with featReq1 := v } }⟩
  else if off = 0x5000 then
    some ⟨v.toNat % 2 ^ 2 = 0, if s.pf.ckbusy = true then s else { s with pf := { s.pf with ckcmd := v &&& 0x7 } }⟩
  else if off = 0x5008 then some ⟨True, { s with pf := { s.pf with ckpart := v } }⟩
  else if off = 0x5010 then some ⟨True, { s with pf := { s.pf with cktier := v &&& 0x1FF } }⟩
  else if off = 0x5018 then some ⟨True, { s with pf := { s.pf with ckbase := v } }⟩
  else none
/-- A write of MCMD or CCMD with a certain OP that starts nothing: as an Unsupported Request while the VF is not open, and ignored while
BUSY is 1 (R331, R346, R368). -/
def commandTurnedAway (s : State) (p : BitVec 6) (op : Bool) (busy : Bool) : Option EventForm :=
  if op = false then none
  else if vfOpen s p = false then some ⟨True, send (.unsupported p) s⟩
  else if busy = true then some ⟨True, s⟩
  else none
/-- Writes of registers, of VF_ENABLE and of the control registers of queues and logs (R9, R280, R346, R368); what the host
wrote before a doorbell has then reached every die (R222). -/
def registerForm (s : State) : Instr → Option EventForm
  | .mcmdReserve p v => commandTurnedAway s p (v.toNat % 16 == 0) (fnOf s p).mbusy
  | .mcmdUnmap p v => commandTurnedAway s p (v.toNat % 16 == 1) (fnOf s p).mbusy
  | .mcmdProtect p v => commandTurnedAway s p (v.toNat % 16 == 2) (fnOf s p).mbusy
  | .mcmdAdmit p v => commandTurnedAway s p (v.toNat % 16 == 3) (fnOf s p).mbusy
  | .mcmdReclaim p v => commandTurnedAway s p (v.toNat % 16 == 4) (fnOf s p).mbusy
  | .mcmdInval p v => commandTurnedAway s p (v.toNat % 16 == 5) (fnOf s p).mbusy
  | .mcmdExport p v => commandTurnedAway s p (v.toNat % 16 == 6) (fnOf s p).mbusy
  | .mcmdImport p v => commandTurnedAway s p (v.toNat % 16 == 7) (fnOf s p).mbusy
  | .mcmdRefusedOp p v => commandTurnedAway s p (decide (8 ≤ v.toNat % 16)) (fnOf s p).mbusy
  | .killContext p v => commandTurnedAway s p (v.toNat % 16 == 1) (fnOf s p).cbusy
  | .resumePart p v => commandTurnedAway s p (v.toNat % 16 == 2) (fnOf s p).cbusy
  | .resumeSequencerContext p v => commandTurnedAway s p (v.toNat % 16 == 3) (fnOf s p).cbusy
  | .ccmdRefusedOp p v => commandTurnedAway s p (decide (4 ≤ v.toNat % 16)) (fnOf s p).cbusy
  | .registerWrite (.vf p) off v => vfRegister s p off v
  | .registerWrite .pf off v => pfRegister s off v
  | .vfEnable on =>
    if on = true then some ⟨True, { s with pf := { s.pf with featMiss0 := s.pf.featReq0 &&& ~~~0xFFF#64, featMiss1 := s.pf.featReq1
                                                             vfEnable := s.pf.featReq0 &&& ~~~0xFFF#64 == 0 && s.pf.featReq1 == 0 } }⟩
    else some ⟨True, { s with pf := { s.pf with vfEnable := false } }⟩
  | .lqctlWrite p q v =>
    let log := v.setWidth 5
    if vfOpen s p = false then some ⟨True, send (.unsupported p) s⟩
    else some ⟨True, if (lqOf s p q.toNat).en = true then s else lqSet p q.toNat (fun r =>
      { r with log := log, en := v.getLsbD 5 && decide (4 ≤ log.toNat ∧ log.toNat ≤ 16) && decide (v.toNat < 2 ^ 6) }) s⟩
  | .lqprodWrite p q v =>
    if vfOpen s p = false then some ⟨True, send (.unsupported p) s⟩
    else some ⟨True, lqSet p q.toNat (fun r => { r with prod := v.setWidth 32 }) (drainUpds s)⟩
  | .mlctlWrite p v =>
    let log := v.setWidth 5
    if vfOpen s p = false then some ⟨True, send (.unsupported p) s⟩
    else some ⟨True, if (fnOf s p).mlen_ = true then s else setFn p (fun f =>
      { f with mllog := log, mlen_ := v.getLsbD 5 && decide (6 ≤ log.toNat ∧ log.toNat ≤ 16) && decide (v.toNat < 2 ^ 6) }) s⟩
  | _ => none

/-! ### TDISP, SPDM, keys, grants, the operator -/

/-- The message of a TDISP answer. -/
def tdispSays (p : BitVec 6) (ok : Bool) (st : Option Tdi) (s : State) : State := send (.tdisp p ok st) s
/-- TDISP requests that a secured session carries (R8, R342 to R344, R409). -/
def tdispForm (s : State) : Instr → Option EventForm
  | .getTdispVersion p => some ⟨inSession s (.vf p) = true ∧ (parOf? s p).isSome = true, tdispSays p true none s⟩
  | .getTdispCapabilities p => some ⟨inSession s (.vf p) = true ∧ (parOf? s p).isSome = true, tdispSays p true none s⟩
  | .getDeviceInterfaceState p => match parOf? s p with
    | none => none
    | some t => some ⟨inSession s (.vf p) = true, tdispSays p true (some t.tdi) s⟩
  | .getDeviceInterfaceReport p => match parOf? s p with
    | none => none
    | some t => match t.report with
      | none => none
      | some r => some ⟨inSession s (.vf p) = true ∧ (t.tdi = .locked ∨ t.tdi = .run),
          send (.report p r.quads r.pool r.quantum r.bar 0xFFF r.policy) s⟩
  | .lockInterface p => match parOf? s p with
    | none => none
    | some t => some ⟨inSession s (.vf p) = true ∧ t.tdi = .unlocked ∧ t.leaving = none ∧ 0 < t.pool ∧
          reservedElsewhere s p + t.pool ≤ hbmBytes,
        tdispSays p true (some .locked) (setPar p (fun t =>
          { t with tdi := .locked, policyDigest := Config.content s.tick
                   report := some ⟨t.quads, t.pool, t.quantum, t.bar, Config.content s.tick⟩ }) s)⟩
  | .startInterface p => match parOf? s p with
    | none => none
    | some t =>
      let u := setFn p (fun f => { f with featMiss0 := f.featReq0 &&& ~~~0xFFF#64, featMiss1 := f.featReq1 }) s
      some ⟨inSession s (.vf p) = true ∧ t.tdi = .locked ∧ t.leaving = none ∧ s.fwRuns = true,
        if (fnOf s p).featReq0 &&& ~~~0xFFF#64 = 0 ∧ (fnOf s p).featReq1 = 0 then
          tdispSays p true (some .run) (setPar p (fun t =>
            { t with tdi := .run, keyCur := some s.nextId, keyNext := none, nonce := some (Config.content s.tick), touchMap := [] })
            { u with nextId := s.nextId + 1 })
        else tdispSays p false (some .locked) u⟩
  | .stopInterface p => match parOf? s p with
    | none => none
    | some t => some ⟨inSession s (.vf p) = true,
        if t.tdi = .unlocked then tdispSays p true (some .unlocked) s else tdispSays p true (some t.tdi) (startLeave p .stop s)⟩
  | .ideKm p => some ⟨True, setPar p (fun t => { t with ideKeyed := true }) s⟩
  | .ideIntegrityFailure p => match parOf? s p with
    | none => none
    | some t => some ⟨t.tdi = .locked ∨ t.tdi = .run, startLeave p .error (setPar p (fun t => { t with tdi := .error }) s)⟩
  | .leaveScrub p => match parOf? s p with
    | none => none
    | some t => match t.leaving with
      | none => none
      | some why => some ⟨parIdle s p = true, send (.left p) (
          if why = .destroy then { scrub p s with pars := Cells.erase p.toNat (scrub p s).pars }
          else setPar p (fun _ => { Partition.zero with tdi := if why = .error then .error else .unlocked, quads := t.quads
                                                        pool := t.pool, quantum := t.quantum, bar := t.bar, ideKeyed := t.ideKeyed
                                                        hostMem := t.hostMem, hostPoison := t.hostPoison }) (scrub p s))⟩
  | _ => none

/-- A response of a function in a state of its SPDM session, and the state after it (R347). -/
def spdmSays (f : Fn) (code : Nat) (b : SpdmBody) (next : Spdm) (s : State) : State :=
  send (.spdm f code b) { s with spdm := Cells.put Spdm.idle (fnKey f) next s.spdm }
/-- Measurement blocks 1 to 5 (R348). -/
def blocks (s : State) : List Nat := (List.range 5).map fun i => Cells.get 0 (i + 1) s.measures
/-- Block 6 of a partition: on its VF the digest of the interface report that LOCK_INTERFACE froze, on the PF of its quad map
only (R348). -/
def blockSix (vf : Bool) : Option Frozen → List Nat
  | some r => [if vf then Config.reportDigest r.quads r.pool r.quantum r.bar 0xFFF r.policy else Config.quadDigest r.quads]
  | none => []
/-- SPDM requests and measurements (R347, R348): versions, algorithms and lengths, the chain whose alias certificate depends on the
measurements, signatures with the alias key. Contents that the manual does not give are open (DESIGN CHOICE, log entry 12). -/
def spdmForm (s : State) : Instr → Option EventForm
  | .getVersion f => some ⟨True, spdmSays f 0x84 (.versions [0x12, 0x13]) .idle s⟩
  | .getCapabilities f => some ⟨True, spdmSays f 0xE1 (.other (Config.content s.tick)) (spdmOf s f) s⟩
  | .negotiateAlgorithms f => some ⟨spdmOf s f = .idle,
      spdmSays f 0xE3 (.algorithms "SLH-DSA-SHAKE-256s" "SHAKE256" 64 29792 64) .negotiated s⟩
  | .getDigests f => some ⟨spdmOf s f ≠ .idle, spdmSays f 0x81
      (.chainDigest (Config.chainDigest Config.rootCert Config.deviceCert (Config.aliasCert (blocks s)))) (spdmOf s f) s⟩
  | .getCertificate f => some ⟨spdmOf s f ≠ .idle,
      spdmSays f 0x82 (.chain Config.rootCert Config.deviceCert (Config.aliasCert (blocks s))) (spdmOf s f) s⟩
  | .challenge f => some ⟨spdmOf s f ≠ .idle,
      spdmSays f 0x83 (.signed (Config.aliasKey (blocks s)) 29792 (Config.content s.tick)) (spdmOf s f) s⟩
  | .keyExchange f => some ⟨spdmOf s f = .negotiated,
      spdmSays f 0xE4 (.signed (Config.aliasKey (blocks s)) 29792 (Config.content s.tick)) .keyed s⟩
  | .finish f => some ⟨spdmOf s f = .keyed, spdmSays f 0xE5 (.other (Config.content s.tick)) .session s⟩
  | .endSession f => some ⟨spdmOf s f = .session, spdmSays f 0xEC (.other (Config.content s.tick)) .negotiated s⟩
  | .vendorDefinedRequest f => some ⟨spdmOf s f ≠ .idle, spdmSays f 0xFE (.other (Config.content s.tick)) (spdmOf s f) s⟩
  | .getMeasurements f => some ⟨spdmOf s f ≠ .idle, send (.measurements f (blocks s ++
      match f with
      | .vf p => blockSix true ((parOf? s p).bind Partition.report)
      | .pf => s.pars.flatMap fun t => blockSix false t.2.report)) s⟩
  | _ => none

/-- Keys, debug policies, checkpoint grants (R345, R346, R350, R377, R379). -/
def grantForm (s : State) : Instr → Option EventForm
  | .keyRotationRequest p => match parOf? s p with
    | none => none
    | some t => some ⟨inSession s (.vf p) = true ∧ t.keyCur ≠ none ∧ t.keyNext = none,
        endRotation p (send (.spdm (.vf p) 0xFE (.other (Config.content s.tick)))
          (setPar p (fun t => { t with keyNext := some s.nextId }) { s with nextId := s.nextId + 1 }))⟩
  | .frameReencrypt p frame => match parOf? s p, Cells.get? frame s.frames with
    | some t, some f => some ⟨f.part = p ∧ t.keyNext ≠ none ∧ f.nextKey = false,
        endRotation p { s with frames := Cells.insert frame { f with nextKey := true } s.frames }⟩
    | _, _ => none
  | .debugPolicy p pol => match parOf? s p with
    | none => none
    | some t => some ⟨vfOpen s p = true ∧ pol.head.toNat % 2 ^ 16 = 0x4450 ∧ pol.head.toNat / 2 ^ 16 = p.toNat ∧
          t.nonce = some pol.nonce.toNat ∧ pol.grants.toNat < 2 ^ 5 ∧ pol.keyDigest = t.policyDigest ∧
          Config.signatureValid pol.keyDigest pol.head pol.nonce pol.grants pol.sig = true,
        setFn p (fun f => { f with dlock := pol.grants.setWidth 5 }) s⟩
  | .checkpointPermit p on => match parOf? s p with
    | none => none
    | some t =>
      let key := t.ckKey.getD s.nextId
      let u := setPar p (fun t => { t with ckPermit := on, ckKey := if on then some key else t.ckKey }) { s with nextId := s.nextId + 1 }
      some ⟨inSession s (.vf p) = true, if on = true then send (.keyWrapped p key) u else u⟩
  | .checkpointKeySupply p key => some ⟨inSession s (.vf p) = true, setPar p (fun t => { t with ckKey := some key }) s⟩
  | _ => none

/-- The operator's commands, firmware, and start (R286, R300, R343, R344, R348, R409): a change to a frozen item of a locked or
running partition also moves its TDI to ERROR, and quads taken from it stay its own until it has been scrubbed. -/
def operatorForm (s : State) : Instr → Option EventForm
  | .partitionCreate p => some ⟨s.pf.vfEnable = true ∧ parOf? s p = none,
      { s with pars := Cells.insert p.toNat { Partition.zero with bar := Config.barLayout p } s.pars }⟩
  | .partitionDestroy p => some ⟨True, startLeave p .destroy s⟩
  | .assignQuads p quads => some ⟨(∀ q ∈ quads, q < 192) ∧ (∀ t ∈ s.pars, t.1 ≠ p.toNat → ∀ q ∈ t.2.quads ++ t.2.heldQuads, q ∉ quads),
      toError p (setPar p (fun t =>
        { t with quads := quads.eraseDups
                 heldQuads := if t.tdi = .unlocked ∧ t.leaving = none then t.heldQuads else (t.heldQuads ++ t.quads).eraseDups }) s)⟩
  | .setQuantum p us => some ⟨250 ≤ us ∧ us ≤ 16000, toError p (setPar p (fun t => { t with quantum := us }) s)⟩
  | .setPoolSize p bytes => some ⟨0 < bytes ∧ bytes % 2097152 = 0, toError p (setPar p (fun t => { t with pool := bytes }) s)⟩
  | .firmwareUpdate img => some ⟨True, { s with fwVersion := Cells.insert (kindIndex img.kind) img.version s.fwVersion
                                                fwImage := Cells.insert (kindIndex img.kind) img.image s.fwImage }⟩
  | .deviceStart =>
    let bad := ([.sp, .mc, .microcode] : List FirmwareKind).filter fun k => !imageRuns s (kindIndex k)
    some ⟨True, { State.reset with
      inbox := s.inbox, tick := s.tick, nextId := s.nextId, fwVersion := s.fwVersion, fwImage := s.fwImage
      measures := [(1, Config.digest 1 0), (2, Config.versionDigest (imageOf s 0) (versionOf s 0)), (3, Config.digest 3 (imageOf s 1)),
                   (4, Config.digest 4 (imageOf s 2)), (5, Config.digest 5 0)]
      fwRuns := bad.isEmpty, ports := s.ports, peerMem := s.peerMem, tier := s.tier
      out := s.out ++ bad.map HostMsg.firmwareRefused }⟩
  | .peerAuthentication dev ok => some ⟨True, { s with peers := if ok = true then
        (if s.peers.contains dev.toNat then s.peers else s.peers ++ [dev.toNat]) else s.peers.filter fun d => d != dev.toNat }⟩
  | .linkCrcError link => some ⟨True, send (.linkRetrain link) s⟩
  | .ualinkPortRestored port => some ⟨True, { s with ports := s.ports ||| (1#8 <<< port.toNat) }⟩
  | _ => none

/-! ### Launches -/

/-- Admission, placement and completion of launches (R281 to R289, R305). -/
def launchForm (s : State) : Instr → Option EventForm
  | .launchAdmit p q => match (parOf? s p).bind fun t => Cells.get? q.toNat t.fetched, freeCtxId s with
    | some f, some c =>
      let ready := launching s p = true ∧ (flagAt f.words 35 = true → previousRuns s p q f.index = false)
      match admission p q f s with
      | .bad st d u => some ⟨ready, startDone p (recDone f.words).1 st d (recDone f.words).2.2 (recDone f.words).2.1 (dropFetched p q u)⟩
      | .ok k u =>
        let fits := poolUsed u p + areaOf c k.lr ≤ poolSize u p
        let v := makeContext c k (dropFetched p q u)
        if k.lr.coop = true then (placeAll c (clusterCount k.lr) v).map fun w => ⟨ready ∧ fits, w⟩ else some ⟨ready ∧ fits, v⟩
    | _, _ => none
  | .clusterPlace c => match ctxOf? s c with
    | none => none
    | some k => match nextSpot s [] c k with
      | none => none
      | some at_ => some ⟨k.lr.coop = false ∧ k.killed = none ∧ peerHeld s k.part = false ∧ k.unplaced < clusterCount k.lr,
          enterCluster c k at_ [] s⟩
  | .launchComplete c => match ctxOf? s c with
    | none => none
    | some k => some ⟨launchDone s c k = true, startDone k.part k.lr.done.toNat 0x00 0 k.lr.tag k.lr.notify
        (freeCtx c (drainUpds (drainStores (fun q => q.ctx == c) s)))⟩
  | .doneWrite id => match s.dones.find? fun d => d.id == id with
    | none => none
    | some d => match doneReach s d with
      | .phys u pa _ _ _ =>
        let v := homeWrite 0 pa (toBytes 8 (d.status.toNat + d.detail.toNat * 2 ^ 8) ++ toBytes 8 d.tag.toNat)
          (drainUpds (advanceClock 0 u))
        let w := { v with dones := v.dones.filter fun x => x.id != id }
        some ⟨True, if d.notify = true then send (.irq d.part) w else w⟩
      | .bad c _ =>
        let v := mlRecord d.part (kind7 (BitVec.ofNat 8 c) d.status d.tag d.addr) (noteAt d.part d.addr s)
        some ⟨True, send (.irq d.part) { v with dones := v.dones.filter fun x => x.id != id }⟩
      | _ => none
  | _ => none
/-- The fetch of a launch record (R281): the record goes to the queue's slot for admission, or, where ATS refuses the read, into
the management log with an interrupt; either way the queue's CONS moves on by one. -/
def fetchForm (s : State) : Instr → Option EventForm
  | .launchFetch p q => match parOf? s p with
    | none => none
    | some t =>
      let r := lqOf s p q.toNat
      let slot := r.base.toNat + 128 * (r.cons.toNat % 2 ^ r.log.toNat)
      let u := lqSet p q.toNat (fun r => { r with cons := r.cons + 1 }) s
      some ⟨launching s p = true ∧ r.en = true ∧ r.cons ≠ r.prod ∧ Cells.get? q.toNat t.fetched = none,
        match hostBytes u p t slot 128 with
        | some d => setPar p (fun t => { t with fetched := Cells.insert q.toNat ⟨r.cons.toNat, bytesWords 16 d⟩ t.fetched }) u
        | none => send (.irq p) (mlRecord p (kind7 0x07 0x06 (BitVec.ofNat 64 (q.toNat + r.cons.toNat * 2 ^ 32)) slot)
            (noteAt p slot u))⟩
  | _ => none

/-! ### Memory commands and commands on contexts -/

/-- MCMD is open to a VF for a value with a certain OP (R331, R332). -/
abbrev mcmdOpen (s : State) (p : BitVec 6) (v : DWord) (op : Nat) : Prop :=
  vfOpen s p = true ∧ (fnOf s p).mbusy = false ∧ copying s p = false ∧ v.toNat % 16 = op
/-- The registers once a command has been taken: BUSY 1, and RESULT (R331). -/
def mcmdTaken (p : BitVec 6) (v : DWord) (result : BitVec 8) (s : State) : State :=
  setFn p (fun f => { f with mcmd := v &&& 0x3FF, mbusy := true, mresult := result }) s
/-- The command names a well-formed range in a region that holds pages (R331, R332). -/
abbrev mcmdPages (f : FnRegs) (v : DWord) : Prop :=
  mcmdMalformed v = false ∧ mcmdMisaligned f v = false ∧ (inOrdinary f = true ∨ inSequence f = true)
/-- Memory commands that pass their checks (R331 to R333, R337, R341, R349, R409). -/
def mcmdForm (s : State) : Instr → Option EventForm
  | .mcmdReserve p v => match parOf? s p with
    | none => none
    | some t =>
      let f := fnOf s p
      let pg : Page := { size := pgszBytes v, rd := v.getLsbD 6, wr := v.getLsbD 7, ex := v.getLsbD 8
                         kind := if v.getLsbD 9 then .seq else .ordinary, state := .touch }
      some ⟨mcmdOpen s p v 0 ∧ mcmdMalformed v = false ∧ mcmdMisaligned f v = false ∧
          (if v.getLsbD 9 then inSequence f = true else inOrdinary f = true) ∧ (v.getLsbD 7 = true → v.getLsbD 8 = false) ∧
          rangePages t f = [],
        (List.range (f.mlen.toNat / pgszBytes v)).foldl (fun s i => putPage p (f.mva.toNat + i * pgszBytes v) pg s)
          (mcmdTaken p v 0 s)⟩
  | .mcmdUnmap p v => match parOf? s p with
    | none => none
    | some t =>
      let f := fnOf s p
      some ⟨mcmdOpen s p v 1 ∧ mcmdPages f v ∧ (∀ x ∈ rangePages t f, x.2.size = pgszBytes v) ∧ liveWindow s p f = false,
        (rangePages t f).foldl (fun s x => dropPage p x.1 x.2 s)
          (invalidate p f.mva.toNat f.mlen.toNat (drainPart p (mcmdTaken p v 0 s)))⟩
  | .mcmdProtect p v => match parOf? s p with
    | none => none
    | some t =>
      let f := fnOf s p
      some ⟨mcmdOpen s p v 2 ∧ mcmdPages f v ∧ (∀ x ∈ rangePages t f, x.2.size = pgszBytes v ∧ x.2.kind ≠ .seq) ∧
          (v.getLsbD 7 = true → v.getLsbD 8 = false) ∧ f.mlen.toNat / pgszBytes v ≤ (rangePages t f).length,
        (rangePages t f).foldl (fun s x =>
          putPage p x.1 { x.2 with rd := v.getLsbD 6, wr := v.getLsbD 7, ex := v.getLsbD 8 } s)
          (invalidate p f.mva.toNat f.mlen.toNat (drainPart p (mcmdTaken p v 0 s)))⟩
  | .mcmdAdmit p v => match parOf? s p with
    | none => none
    | some t =>
      let f := fnOf s p
      some ⟨mcmdOpen s p v 3 ∧ mcmdPages f v ∧ (∀ x ∈ rangePages t f, x.2.size = pgszBytes v ∧ x.2.kind ≠ .seq) ∧
          poolUsed s p + admitBytes t f ≤ poolSize s p ∧ f.mlen.toNat / pgszBytes v ≤ (rangePages t f).length,
        (rangePages t f).foldl (fun s x => admitPage p x.1 x.2 s) (mcmdTaken p v 0 s)⟩
  | .mcmdReclaim p v => match parOf? s p with
    | none => none
    | some t =>
      let f := fnOf s p
      some ⟨mcmdOpen s p v 4 ∧ mcmdPages f v ∧
          (∀ x ∈ rangePages t f, x.2.size = pgszBytes v ∧ x.2.kind ≠ .seq ∧ x.2.state ≠ .touch) ∧ someExported t f = false ∧
          f.mlen.toNat / pgszBytes v ≤ (rangePages t f).length,
        (rangePages t f).foldl (fun s x => reclaimPage p x.1 x.2 s)
          (invalidate p f.mva.toNat f.mlen.toNat (drainPart p (mcmdTaken p v 0 s)))⟩
  | .mcmdInval p v => match parOf? s p with
    | none => none
    | some t =>
      let f := fnOf s p
      some ⟨mcmdOpen s p v 5 ∧ mcmdPages f v ∧ (∀ x ∈ rangePages t f, x.2.size = pgszBytes v),
        invalidate p f.mva.toNat f.mlen.toNat (drainPart p (mcmdTaken p v 0 s))⟩
  | .mcmdExport p v => match parOf? s p with
    | none => none
    | some t =>
      let f := fnOf s p
      let m := mpeerFields f
      some ⟨mcmdOpen s p v 6 ∧ mcmdPages f v ∧ (∀ x ∈ rangePages t f, x.2.size = pgszBytes v) ∧ m.1 ∈ s.peers, setPar p (fun t =>
        { t with exports := Cells.insert m.2.2 { dev := m.1, part := m.2.1, base := f.mva.toNat, len := f.mlen.toNat
                                                 rd := v.getLsbD 6, wr := v.getLsbD 7 } t.exports }) (mcmdTaken p v 0 s)⟩
  | .mcmdImport p v => match parOf? s p with
    | none => none
    | some _ =>
      let m := mpeerFields (fnOf s p)
      some ⟨mcmdOpen s p v 7 ∧ mcmdMalformed v = false ∧ m.1 ∈ s.peers,
        setPar p (fun t => { t with imports := Cells.insert m.1 m.2.1 t.imports }) (mcmdTaken p v 0 s)⟩
  | .mcmdRefusedOp p v => match parOf? s p with
    | none => none
    | some _ => some ⟨vfOpen s p = true ∧ (fnOf s p).mbusy = false ∧ copying s p = false ∧ 8 ≤ v.toNat % 16, mcmdTaken p v 0x01 s⟩
  | .mcmdComplete p => some ⟨copying s p = false ∧ mcmdWaits s p = false, setFn p (fun f => { f with mbusy := false }) (endClosing p s)⟩
  | _ => none

/-- CCMD is open to a VF for a value with a certain OP (R368). -/
abbrev ccmdOpen (s : State) (p : BitVec 6) (v : DWord) (op : Nat) : Prop :=
  vfOpen s p = true ∧ (fnOf s p).cbusy = false ∧ copying s p = false ∧ v.toNat % 16 = op
/-- The register once a command has been taken, and its RESULT. -/
def ccmdTaken (p : BitVec 6) (v : DWord) (s : State) : State := setFn p (fun f => { f with ccmd := v &&& 0x3FFFFFFFFF }) s
/-- RESULT of a command on a context. -/
def ccmdSays (p : BitVec 6) (result : BitVec 8) (s : State) : State := setFn p (fun f => { f with cresult := result }) s
/-- A stopped agent that runs on, at its instruction, with the table as it then stands (R54), or past it by NEXT (R359, R369). -/
def goesOn (a : Agent) (skip : Bool) (s : State) : State :=
  match thread? s a with
  | none => s
  | some t => setThread a (fun t' =>
      { t' with stop := .running
                pc := if skip then (t.pc + BitVec.ofNat 64 (if t.next = 0 then lengthAt s a t else t.next)) &&& 0xFFFFFFFFFFFFFF else t.pc
                ready := s.tick, ref := if skip then .free else .now t.pc }) s
/-- Commands on contexts that name what they act on (R368, R369, R375). -/
def ccmdForm (s : State) : Instr → Option EventForm
  | .killContext p v => match ctxOf? s (v.toNat / 2 ^ 8 % 256) with
    | none => none
    | some k => some ⟨ccmdOpen s p v 1 ∧ ccmdRefused v = false ∧ k.part = p,
        ccmdSays p 0x00 (killCtx (v.toNat / 2 ^ 8 % 256) 0x01 (ccmdTaken p v s))⟩
  | .resumePart p v =>
    let u := ccmdTaken p v s
    match ctxOf? s (ccmdCtx v), findPart u (ccmdCtx v) (ccmdCore v) (ccmdSlot v) (ccmdLane v) with
    | some k, some (pid, q) => some ⟨ccmdOpen s p v 2 ∧ ccmdRefused v = false ∧ k.part = p ∧
          (q.thr.stop = .noHandler ∨ q.thr.stop = .escalated),
        ccmdSays p 0x00 (match ccmdMode v with
          | 0 => goesOn (.part pid) false u
          | 1 => goesOn (.part pid) true u
          | 2 => endPart pid u
          | _ => endGroup q.gid u)⟩
    | _, _ => none
  | .resumeSequencerContext p v =>
    let u := ccmdTaken p v s
    match ctxOf? s (ccmdCtx v), findSeq u (ccmdCtx v) (ccmdCore v) (ccmdSlot v) with
    | some k, some (sc, q) => some ⟨ccmdOpen s p v 3 ∧ ccmdRefused v = false ∧ k.part = p ∧ q.thr.stop = .seqStopped ∧ q.ending = false,
        ccmdSays p 0x00 (match ccmdMode v with
          | 0 => goesOn (.seq sc) false u
          | 1 => goesOn (.seq sc) true u
          | _ => if q.ops = [] then endSeq sc u else setSeq sc (fun q => { q with ending := true }) u)⟩
    | _, _ => none
  | .ccmdRefusedOp p v => some ⟨vfOpen s p = true ∧ (fnOf s p).cbusy = false ∧ copying s p = false ∧ 4 ≤ v.toNat % 16,
      ccmdSays p 0x01 (ccmdTaken p v s)⟩
  | _ => none

/-! ### Checkpoint and debugger -/

/-- The operator's commands on CKCMD, and what ends them (R377 to R380). -/
def checkpointForm (s : State) : Instr → Option EventForm
  | .checkpoint v =>
    let u := { s with pf := { s.pf with ckcmd := v &&& 7 } }
    some ⟨v.toNat % 4 = 1 ∧ s.pf.ckbusy = false ∧ ckRefused s v = false ∧
        (∀ p ∈ ckParts s, (parOf? s p).map Partition.ckPermit = some true) ∧ tierOk s = true ∧ 3 ≤ portCount s,
      ckBegin false (v.getLsbD 2) u⟩
  | .restore v =>
    let u := { s with pf := { s.pf with ckcmd := v &&& 7 } }
    some ⟨v.toNat % 4 = 2 ∧ s.pf.ckbusy = false ∧ ckRefused s v = false ∧ tierOk s = true ∧ 3 ≤ portCount s, ckBegin true true u⟩
  | .checkpointAbort v =>
    let u := { s with pf := { s.pf with ckcmd := v &&& 7 } }
    some ⟨v.toNat % 4 = 3, if 8 ≤ v.toNat then { u with pf := { u.pf with ckresult := 0x01 } }
      else match s.ck with
        | none => u
        | some _ => ckEnd 0x05 0 none u⟩
  | .checkpointComplete => match s.ck with
    | none => none
    | some r =>
      let u := settleXfers r.parts s
      let new := makeImages u r.parts u.pf.ckbase.toNat
      some ⟨r.restore = false ∧ allSaved s r.parts = true,
        ckEnd 0x00 (BitVec.ofNat 64 (new.map fun i => i.size).sum) (some (!r.cont))
          (r.parts.foldl (fun s p => mlNote p s) (writeTier new u))⟩
  | .restoreComplete => match s.ck with
    | none => none
    | some r => match findImages s r.parts s.pf.ckbase.toNat with
      | none => none
      | some l => match restoreAll l s with
        | none => none
        | some u => some ⟨r.restore = true ∧ allSaved s r.parts = true ∧ fewQuads s l = false,
            ckEnd 0x00 (BitVec.ofNat 64 (l.map fun x => x.2.size).sum) (some false) (r.parts.foldl (fun s p => mlNote p s) u)⟩
  | .linkFailure port =>
    let u := { s with ports := s.ports &&& ~~~(1#8 <<< port.toNat) }
    some ⟨True, if s.ck.isSome = true ∧ portCount u < 3 then ckEnd 0x05 0 none u else u⟩
  | _ => none

/-- The debugger's window is open for a right of the tenant's policy (R350, R351). -/
abbrev dbgOpen (s : State) (p : BitVec 6) (bit : Nat) : Prop := vfOpen s p = true ∧ (fnOf s p).dlock.getLsbD bit = true
/-- DBGSTAT of an action. -/
def dbgSays (p : BitVec 6) (c : BitVec 8) (s : State) : State := setFn p (fun f => { f with dstat := c }) s
/-- ACT of DBGCTL as it is written (R393). -/
def dbgTakes (p : BitVec 6) (v : DWord) (s : State) : State := setFn p (fun f => { f with dact := v.setWidth 4 }) s
/-- Actions of a debugger on a context, and its accesses (R323, R351, R393, R394). -/
def debugForm (s : State) : Instr → Option EventForm
  | .debugStop p v => match selContext s p with
    | none => none
    | some _ => some ⟨dbgOpen s p 1 ∧ v.toNat % 16 = 1,
        dbgSays p 0x00 (setCtx (selCtx (fnOf s p).dsel) (fun k => { k with dbgStop := true }) (dbgTakes p v s))⟩
  | .debugResume p v => match selContext s p with
    | none => none
    | some k =>
      let c := selCtx (fnOf s p).dsel
      some ⟨dbgOpen s p 1 ∧ v.toNat % 16 = 2 ∧ (k.dbgStop = true ∨ brkpParts s c ≠ [] ∨ k.steps ≠ []),
        dbgSays p 0x00 ((brkpParts s c).foldl (fun s pid => setThread (.part pid) (fun t => { t with stop := .running, ready := s.tick }) s)
          (setCtx c (fun k => { k with dbgStop := false, steps := [] }) (dbgTakes p v s)))⟩
  | .debugStep p v => match selContext s p, selAgent s p with
    | some k, some (a, t) => some ⟨dbgOpen s p 1 ∧ v.toNat % 16 = 3 ∧ debugStopped k a t = true ∧
          t.stop ≠ .noHandler ∧ t.stop ≠ .escalated ∧ t.stop ≠ .seqStopped,
        dbgSays p 0x00 (setCtx (selCtx (fnOf s p).dsel) (fun k => { k with steps := k.steps ++ [a] })
          (setThread a (fun t => { t with stop := .running, ready := s.tick }) (dbgTakes p v s)))⟩
    | _, _ => none
  | .armBreakpoints p v => match selContext s p with
    | none => none
    | some _ => some ⟨dbgOpen s p 1 ∧ v.toNat % 16 = 4,
        dbgSays p 0x00 (setCtx (selCtx (fnOf s p).dsel) (fun k => { k with armed := true }) (dbgTakes p v s))⟩
  | .disarmBreakpoints p v => match selContext s p with
    | none => none
    | some _ => some ⟨dbgOpen s p 1 ∧ v.toNat % 16 = 5,
        dbgSays p 0x00 (setCtx (selCtx (fnOf s p).dsel) (fun k => { k with armed := false }) (dbgTakes p v s))⟩
  | .dbgregAccess p v => match selContext s p, selAgent s p with
    | some k, some (a, t) =>
      let u := setFn p (fun f => { f with dreg := v &&& 0x400000000FFFFFFF }) s
      let r := dbgRegister a t v (fnOf s p).ddata u
      some ⟨vfOpen s p = true ∧ (if v.toNat % 16 = 4 then (fnOf s p).dlock.getLsbD 0 = true else (fnOf s p).dlock.getLsbD 2 = true) ∧
          v.getLsbD 63 = true ∧ debugStopped k a t = true,
        setFn p (fun f => { f with dstat := r.1, ddata := r.2.1.getD f.ddata }) r.2.2⟩
    | _, _ => none
  | .dbgmemAccess p v => match selContext s p with
    | none => none
    | some k =>
      let u := setFn p (fun f => { f with dmem := v &&& 0x43FFFFFFFFFFFFFF }) s
      let ended (r : DbgRes) : State := setFn p (fun f => { f with dstat := r.1, ddata := r.2.1.getD f.ddata }) r.2.2
      if v.getLsbD 56 = true then (selAgent s p).map fun a => ⟨dbgOpen s p 3 ∧ v.getLsbD 63 = true,
        ended (dbgBox a.1 (v &&& 0xFFFFFFFFFFFFF) (v.getLsbD 57) (v.getLsbD 62) (fnOf s p).ddata u)⟩
      else some ⟨dbgOpen s p 3 ∧ v.getLsbD 63 = true,
        ended (dbgMemory p k (selCtx (fnOf s p).dsel) (v.toNat % 2 ^ 56) (v.getLsbD 62) (fnOf s p).ddata u)⟩
  | _ => none

/-! ### Memory, peers and pages -/

/-- Accesses in flight, line updates, the teller (R25, R208, R210, R219 to R222, R239). -/
def fabricForm (s : State) : Instr → Option EventForm
  | .dataLanding ticket => match s.lands.find? fun l => l.ticket == ticket with
    | none => none
    | some l => match l.dest with
      | .sreg a r v => some ⟨True, wakeIf (landWakes s l)
          (setThread a (fun t => { t with sregs := Cells.put SReg.zero r ⟨v, true, false⟩ t.sregs })
            { s with lands := s.lands.filter fun x => x.ticket != ticket })⟩
      | _ => some ⟨True, land l s⟩
  | .homeWrite ticket => match s.stores.find? fun q => q.ticket == ticket with
    | none => none
    | some q => some ⟨storeFirst s q = true, wakeIf (fun a w => w == .issueLimit && decide (a = q.who))
        (performStore q { s with stores := s.stores.filter fun x => x.ticket != ticket })⟩
  | .dieCopyUpdate ticket => match s.upds.find? fun u => u.ticket == ticket with
    | none => none
    | some u => some ⟨True, takeUpd u s⟩
  | .l1LineExpiry core ctx line =>
    some ⟨True, setCore core (fun c =>
      { c with
        l1 := c.l1.filter fun l => !(l.ctx == ctx && l.vline == line)
        l1i := c.l1i.filter fun l => !(l.ctx == ctx && l.vline == line) }) s⟩
  | .tellerApply ctx => match tellerTeam s ctx with
    | none => none
    | some (tid, t) =>
      let u := setCtx ctx (fun k => { k with tellerNext := k.tellerNext + 1 })
        (setTeam tid (fun t => { t with staged := [], view := [], undo := [], applied := true })
          (advanceClock (coreDie t.core) (if t.through = true then s
            else (tellerOrder s t.staged).foldl (fun v e =>
              applyEntry t.ctx (coreDie t.core) (ctxPart s t.ctx) e (noteAt (ctxPart s t.ctx) e.va v)) s)))
      some ⟨True, wakeStaging u⟩
  | _ => none
/-- An access of the host within one line of a partition's pages (R222, R334, R372): of a page that is with the host in host
memory, of a Device page at its home, but that a store to a live descriptor only marks it (R270). Anything else is no access. -/
def hostForm (s : State) (a : HostAccess) : EventForm :=
  let data := a.data.take a.len
  if a.len = 0 ∨ 128 < a.va % 128 + a.len ∨ region 0x80 ≤ a.va then ⟨True, s⟩
  else if hostOwned s a.part a.va = true then
    (if a.write = true then ⟨True, setPar a.part (fun t =>
        { t with hostMem := memWrite t.hostMem a.va data
                 hostPoison := t.hostPoison.filter fun q => !(decide (a.va ≤ q) && decide (q + 32 ≤ a.va + a.len)) }) s⟩
     else match parOf? s a.part with
      | none => ⟨True, s⟩
      | some t => ⟨True, send (.hostRead a.part a.va (memBytes t.hostMem a.va a.len)
          (t.hostPoison.any fun q => decide (q < a.va + a.len) && decide (a.va < q + 32))) s⟩)
  else match physOf s a.part a.va with
    | none => ⟨True, s⟩
    | some pa =>
      if a.write = false then ⟨True, send (.hostRead a.part a.va (memBytes s.mem pa a.len) (poisonedAt s pa a.len).isSome) s⟩
      else if onDescriptor s a.part a.va a.len = true then ⟨True, tamper a.part a.va a.len s⟩
      else ⟨True, homeWrite (physDie pa) pa data s⟩
/-- An access that a peer makes through an export, on the exporter's side (R335, R336, R349): what the page answers. A first touch
takes its frame beside the die of the port (R336). -/
def exportedForm (s : State) (a : PeerAccess) (va : Nat) : EventForm :=
  let reply (bytes : List Byte) (resident : Bool) (cause : Nat) (t : State) : EventForm :=
    ⟨True, send (.peerReply a.dev.toNat a.tag bytes resident cause) t⟩
  match reach s a.target (Config.portDie a.port).toNat (accKind a.kind) va a.len with
  | .phys u pa _ _ _ => match a.kind with
    | .read => if (poisonedAt u pa a.len).isSome then reply [] true 0x10 u else reply (memBytes u.mem pa a.len) true 0 u
    | .write => reply [] true 0 (homeWrite (physDie pa) pa (a.data.take a.len) u)
    | .atomic op _ => if (poisonedAt u pa a.len).isSome then reply [] true 0x10 u
        else reply (memBytes u.mem pa a.len) true 0
          (homeWrite (physDie pa) pa (atomNew op.toNat a.len (memBytes u.mem pa a.len) a.data) u)
  | .bad c _ => reply [] true c s
  | .beyond => reply (List.replicate a.len 0) false 0 s
  | _ => if a.kind = .read then reply (List.replicate a.len 0) false 0 (noteAt a.target va s)
    else reply [] true 0x07 (noteAt a.target va s)
/-- An access of a peer (R349): aligned, of up to 16 bytes, of an authenticated device; held while a checkpoint runs (R378), refused
with PROT outside every export. -/
def peerForm (s : State) (a : PeerAccess) : EventForm :=
  if a.len = 0 ∨ 16 < a.len ∨ a.offset % a.len ≠ 0 ∨ a.dev.toNat ∉ s.peers then ⟨True, s⟩
  else if peerHeld s a.target = true then ⟨True, { s with deferred := s.deferred ++ [.peer a] }⟩
  else match parOf? s a.target with
    | none => ⟨True, send (.peerReply a.dev.toNat a.tag [] true 0x08) s⟩
    | some t => match exportFor t a.dev a.part a.offset with
      | none => ⟨True, send (.peerReply a.dev.toNat a.tag [] true 0x08) s⟩
      | some e =>
        if a.offset + a.len ≤ e.len ∧ (if a.kind = .read then e.rd = true else e.wr = true) then exportedForm s a (e.base + a.offset)
        else ⟨True, send (.peerReply a.dev.toNat a.tag [] true 0x08) s⟩
/-- An answer to an outstanding page request (R337): with success the page becomes Device beside the die that first asked, and in any
case everything that asked is told. An answer to no request is nothing. -/
def priForm (s : State) (p : BitVec 6) (va : Nat) (ok : Bool) : EventForm :=
  match s.pris.find? fun r => r.part == p && r.page == va with
  | none => ⟨True, s⟩
  | some r =>
    let u := { s with pris := s.pris.erase r }
    match (parOf? s p).bind fun t => Cells.get? va t.pages with
    | none => ⟨True, tellAsked p va false u⟩
    | some pg =>
      if ok = true ∧ pg.state = .host then
        (match admitHost p r.die va pg u with
         | some w => ⟨True, tellAsked p va true w⟩
         | none => ⟨True, tellAsked p va false u⟩)
      else ⟨True, tellAsked p va (decide (ok = true ∧ pg.state ≠ .host)) u⟩
/-- A message of another device (R267, R268): it waits for the command that takes it, but that the first announcement of a device that
belongs to a round of `xred` that has failed goes with that round (the model's choice, log entry 22). -/
def arrivedState (s : State) (a : PeerCollective) : State :=
  if a.kind = 2 ∧ (a.dev, a.chan) ∈ s.stale then { s with stale := s.stale.erase (a.dev, a.chan) }
  else { s with arrivals := s.arrivals ++ [a] }
/-- Accesses from the host and from peers, messages of other devices, and answers to page requests (R222, R267, R268, R270, R334, R337,
R349). -/
def accessForm (s : State) : Instr → Option EventForm
  | .hostMemoryAccess a => some (hostForm s a)
  | .peerAccess a => some (peerForm s a)
  | .peerCollectiveArrival a => some ⟨True, arrivedState s a⟩
  | .priResponse p va ok => some (priForm s p va ok)
  | _ => none

/-- HOST_MEMORY_ACCESS completes (R222, R334, R335): within a line of the partition's pages, an access reads or writes the host's
memory where the host owns the page, else the page's frame, descriptors excepted. -/
def hostAccessCompletes : Prop :=
  ∀ s a, a.len ≠ 0 → a.va % 128 + a.len ≤ 128 → a.va < region 0x80 →
    (hostOwned s a.part a.va = true →
      (a.write = true → exec (.hostMemoryAccess a) s = .next (setPar a.part (fun t =>
        { t with hostMem := memWrite t.hostMem a.va (a.data.take a.len)
                 hostPoison := t.hostPoison.filter fun q => !(decide (a.va ≤ q) && decide (q + 32 ≤ a.va + a.len)) }) s)) ∧
      ∀ t, a.write = false → parOf? s a.part = some t → exec (.hostMemoryAccess a) s =
        .next (send (.hostRead a.part a.va (memBytes t.hostMem a.va a.len)
          (t.hostPoison.any fun q => decide (q < a.va + a.len) && decide (a.va < q + 32))) s)) ∧
    ∀ pa, hostOwned s a.part a.va = false → physOf s a.part a.va = some pa →
      (a.write = false → exec (.hostMemoryAccess a) s =
        .next (send (.hostRead a.part a.va (memBytes s.mem pa a.len) (poisonedAt s pa a.len).isSome) s)) ∧
      (a.write = true → onDescriptor s a.part a.va a.len = false →
        exec (.hostMemoryAccess a) s = .next (homeWrite (physDie pa) pa (a.data.take a.len) s))
/-- PEER_ACCESS completes (R349): an aligned access of up to 16 bytes of an authenticated device, that an export allows on a page
that answers, reads, writes or combines the bytes at the exporter and replies. -/
def peerAccessCompletes : Prop :=
  ∀ s a t e u pa b z w, a.len ≠ 0 → a.len ≤ 16 → a.offset % a.len = 0 → a.dev.toNat ∈ s.peers → peerHeld s a.target = false →
    parOf? s a.target = some t → exportFor t a.dev a.part a.offset = some e → a.offset + a.len ≤ e.len →
    reach s a.target (Config.portDie a.port).toNat (accKind a.kind) (e.base + a.offset) a.len = .phys u pa b z w →
    poisonedAt u pa a.len = none →
    let old := memBytes u.mem pa a.len
    let reply (bytes : List Byte) (v : State) : Host.Outcome State Fault Refusal :=
      .next (send (.peerReply a.dev.toNat a.tag bytes true 0) v)
    (a.kind = .read → e.rd = true → exec (.peerAccess a) s = reply old u) ∧
    (a.kind = .write → e.wr = true → exec (.peerAccess a) s = reply [] (homeWrite (physDie pa) pa (a.data.take a.len) u)) ∧
    ∀ op x, a.kind = .atomic op x → e.wr = true →
      exec (.peerAccess a) s = reply old (homeWrite (physDie pa) pa (atomNew op.toNat a.len old a.data) u)
/-- PRI_RESPONSE completes (R337): the answer to an outstanding request for a Host page ends the request; with success the page
enters the device beside the die that first asked, and the askers learn the answer. -/
def priResponseCompletes : Prop :=
  ∀ s p va r t pg, (s.pris.find? fun q => q.part == p && q.page == va) = some r → parOf? s p = some t →
    Cells.get? va t.pages = some pg → pg.state = .host →
    let u := { s with pris := s.pris.erase r }
    exec (.priResponse p va false) s = .next (tellAsked p va false u) ∧
    ∀ w, admitHost p r.die va pg u = some w → exec (.priResponse p va true) s = .next (tellAsked p va true w)

/-! ### The engine, waits, units, faults of the hardware -/

/-- What the arbiter, the engine and the command engines do (R120 to R128, R187, R262, R266, R304). -/
def engineEventForm (s : State) : Instr → Option EventForm
  | .passGrant quad => match bestPass (passList s quad) with
    | none => none
    | some (_, _, _, sc, o) => match Cells.get? sc s.seqs with
      | none => none
      | some q =>
        let aged (t : State) : State := (quadCores quad).foldl (fun s k => countProf k q.ctx 10 1 s)
          (((passList s quad).filter fun x => x.2.2.2.2.id != o.id).foldl (fun s x =>
            setOp x.2.2.2.1 x.2.2.2.2.id (fun e => { e with age := e.age + 1 }) s) t)
        match grantPass sc q o s with
        | .ok (es, u) => some ⟨True, setQuad quad (fun k => { k with busy := some sc })
            (setOp sc o.id (fun e => { e with granted := true, popped := es.1, heads := es.2 }) (aged u))⟩
        | .error t => some ⟨True, settleOps sc (failSoon sc o t (aged s))⟩
  | .passComplete sc =>
    let u := runSteps sc 2 s
    match grantedOp u sc with
    | none => some ⟨hasArray s sc = true, settleOps sc u⟩
    | some (_, o) => some ⟨hasArray s sc = true, settleOps sc (setSeqChit sc o.chit false
        (setSeq sc (mergeSeqAfl o.flags) (dropOp sc o.id (setQuad (sc / 8) (fun k => { k with busy := none }) u))))⟩
  | .engineOpComplete sc op => match Cells.get? sc s.seqs with
    | none => none
    | some q => match q.ops.find? fun o => decide (sc < 4096) && o.id == op && opDue q o with
      | none => none
      | some o => match runOp sc q o s with
        | .ok u f => some ⟨True, settleOps sc (setSeqChit sc o.chit false (setSeq sc (mergeSeqAfl f) (dropOp sc o.id u)))⟩
        | _ => none
  | .sequencerContextAutoEnd sc => match Cells.get? sc s.seqs with
    | none => none
    | some q => some ⟨sc < 4096 ∧ q.thr.wait = .monitor .fifoEntry ∧ q.thr.stop = .running ∧ q.ended = false ∧ q.ops = [] ∧
          fifoFront s sc q.ctx = none ∧ (∀ t ∈ s.teams, t.2.uid = q.uid → coreQuad t.2.core = sc / 8 → t.2.exited = true),
        setSeq sc (fun q => { q with ended := true, thr := { q.thr with wait := .none, stop := .running } }) s⟩
  | .commandComplete ticket => match s.cmds.find? fun m => m.ticket == ticket with
    | none => none
    | some c => match runCmd c s with
      | .ok u => some ⟨cmdRuns s c = true ∧ c.failed = none, markEligible (coreQuad c.core) (endCmd c u)⟩
      | _ => none
  | .outlierQueuePush ticket => match s.cmds.find? fun m => m.ticket == ticket with
    | none => none
    | some c => match c.kind with
      | .cpyq a w => match runCpyq (enginePlace s c.core c.ctx) c.ticket a w 4 s with
        | .ok u => some ⟨cmdRuns s c = true ∧ c.failed = none, markEligible (coreQuad c.core) (endCmd c u)⟩
        | _ => none
      | _ => none
  | _ => none
/-- The ends of waits (R292 to R297, R306, R307, R366). -/
def waitForm (s : State) : Instr → Option EventForm
  | .monitorWake a => some ⟨wakeable s a = true, setThread a (fun t => { t with wait := .none, woken := t.wait, ready := s.tick }) s⟩
  | .barrierComplete b =>
    let u := setBar b (fun x => { phase := x.phase + 1, marks := [] }) s
    some ⟨barComplete s b = true, wakeIf (fun _ w => w == .monitor (.barrier b (barOf s b).phase)) (match b with
      | .grid _ _ => ([0, 1, 2, 3] : List Nat).foldl (fun s d => joinAll d s) u
      | _ => u)⟩
  | .reseatExchange core => match reseatHead s core with
    | none => none
    | some (pid, _) =>
      let sit := setPart pid (fun p =>
        { p with seated := true, issued := 0, thr := if p.thr.wait = .none then { p.thr with ready := s.tick } else p.thr })
      if seatedOn s core < 64 then some ⟨True, sit s⟩
      else match reseatVictim s core with
        | none => none
        | some (v, _) => some ⟨True, countProf core ((agentCtx s (.part v)).getD 0) 12 1
            (sit (setPart v (fun q =>
              { q with seated := false, issued := 0
                       thr := if q.thr.wait = .none then { q.thr with ready := s.tick } else q.thr }) s))⟩
  | .wedgeDetect ctx => match ctxOf? s ctx with
    | none => none
    | some k =>
      let ps := s.parts.filter fun p => agentCtx s (.part p.1) == some ctx
      match wedgePart s ps with
      | some (pid, p) => some ⟨wedged s ctx k = true, takeTrap (.part pid) (waitLen s (.part pid) p.thr)
          (Trap.plain cWEDGE (if ps.any fun p => p.2.thr.wait == .staging then 0x03 else 0x01)) (withdraw pid s)⟩
      | none => match wedgeSeq (s.seqs.filter fun q => q.2.ctx == ctx && !q.2.ended) with
        | some (sc, q) => some ⟨wedged s ctx k = true, takeTrap (.seq sc) (waitLen s (.seq sc) q.thr) (Trap.plain cWEDGE 0x01) s⟩
        | none => none
  | .pendingRecordWrite id => match s.recs.find? fun r => r.id == id with
    | none => match s.kills.find? fun k => k.id == id with
      | none => match s.notes.find? fun n => n.id == id with
        | none => none
        | some n => some ⟨True, match n.ctx with
          | none => mlWrite n s
          | some c => ctxWrite c n s⟩
      | some k => some ⟨True, driveKill k s⟩
    | some r => match ctxOf? s r.ctx with
      | none => none
      | some k => match driveRec k r (r.words.length / 7 + 1) r.words s with
        | (_, u, .ok _) =>
          let v := { u with recs := u.recs.filter fun q => q.id != id }
          some ⟨True, retryFailed (wakeIf (ringWakes v r) v)⟩
        | _ => none
  | _ => none
/-- Units, soft errors and heat (R4, R300, R302, R371, R373, R376). -/
def unitForm (s : State) : Instr → Option EventForm
  | .quantumBoundary p => some ⟨True, passQuantum p
      (if s.thermalStop = true ∨ launching s p = false then s else (waitingUnits s p).foldl (fun s w => serve p w s) s)⟩
  | .bankSwap unit => match Cells.get? unit s.clus with
    | none => none
    | some u =>
      let coming := (unitOf s unit).filter fun v => (Cells.get? v s.clus).map Cluster.res == some .loading
      some ⟨u.res = .loading,
        if coming.all (stillMatches s u.evicts) = true then
          let t := u.evicts.foldl (fun s v => settleUnit v s) s
          if u.evicts.any (unitHeld t) = true then u.evicts.foldl (fun s v => signalUnit v s) t
          else coming.foldl (fun s v => swapIn v s) (u.evicts.foldl (fun s v => swapOut v s) t)
        else coming.foldl (fun s v => setCluster v (fun x => { x with res := .saved, evicts := [] }) s) s⟩
  | .unitSaved unit => match Cells.get? unit s.clus with
    | none => none
    | some u => some ⟨u.res = .saving ∨ (u.res = .resident ∧ stopping s u.ctx = true),
        if u.res = .resident then leaveUnit unit s else saveUnit unit s⟩
  | .scrubberRead loc err => match scrubPart s loc with
    | none => none
    | some p => some ⟨True, match loc, err with
        | _, .clean => s
        | .tlbEntry quad i, _ => dropTlb quad i (countLog p 32 s)
        | _, .correctable => countLog p 32 s
        | _, .uncorrectable => poisonLoc loc (countLog p 36 s)⟩
  | .thermalLimit => some ⟨s.thermalStop = false, if 1800 < s.clockMhz then { s with clockMhz := max 1800 (s.clockMhz - 100) }
      else send .thermalTrip (noteAll (stopUnits (fun _ => true) { s with thermalStop := true }))⟩
  | .thermalResume => some ⟨s.thermalStop = true, noteAll { s with thermalStop := false }⟩
  | .thermalSaveTimeout unit => match Cells.get? unit s.clus with
    | none => none
    | some u => some ⟨s.thermalStop = true ∧ (u.res = .saving ∨ u.res = .resident),
        if copying s (ctxPart s u.ctx) = true then { s with deferred := s.deferred ++ [.kill (ctxPart s u.ctx) u.ctx 0x03] }
        else killNow u.ctx 0x03 s⟩
  | _ => none

/-! ### Waiting, joining, ending, stopping -/

/-- A barrier form: what it does, its barrier, and whether the launch requested that barrier (R309, R325). -/
def barrierNamed (s : State) (pid : Nat) (g : Group) (c : Context) : Instr → Option (BarOp × Barrier × Prop)
  | .tbarArrive o => some (.arrive, .team g.tid o.num.toNat, o.num.toNat < c.lr.tbars)
  | .tbarWait o => some (.wait, .team g.tid o.num.toNat, o.num.toNat < c.lr.tbars)
  | .tbarSync o => some (.sync, .team g.tid o.num.toNat, o.num.toNat < c.lr.tbars)
  | .cbarArrive o => (agentUnit s (.part pid)).map fun u => (.arrive, .cluster u o.num.toNat, o.num.toNat < c.lr.cbars)
  | .cbarWait o => (agentUnit s (.part pid)).map fun u => (.wait, .cluster u o.num.toNat, o.num.toNat < c.lr.cbars)
  | .cbarSync o => (agentUnit s (.part pid)).map fun u => (.sync, .cluster u o.num.toNat, o.num.toNat < c.lr.cbars)
  | .gbarSync o => (agentCtx s (.part pid)).map fun n => (.sync, .grid n o.num.toNat, o.num.toNat < c.lr.gbars)
  | _ => none
/-- The phase that a wait names: the one it already waits for, else the part's pending one, else the current one (R326). -/
def phaseNamed (s : State) (p : Part) (op : BarOp) (b : Barrier) : Nat :=
  (latched p b).getD (match op with
    | .wait => (pendOf p b).getD (barOf s b).phase
    | _ => (barOf s b).phase)
/-- The state in which a part has gone past a barrier's phase (R326): an acquire, its pending phase consumed. -/
def pastBarrier (s : State) (pid : Nat) (b : Barrier) (ph : Nat) : State :=
  setPart pid (fun q => { (if pendOf q b = some ph then dropPend b q else q) with latch := none })
    (acquireAt (placeOf s (.part pid)) (barScope b) s)
/-- Barrier forms that complete, and `watch` once its value has changed (R324 to R326). -/
def waitingForm (s : State) (pid : Nat) (p : Part) (g : Group) (i : Instr) : Option PartForm :=
  match i with
  | .watch o =>
    let n := if o.is64 then 8 else 4
    let addr := (sVal p.thr o.sa).toNat
    let r := reachChecked s (placeOf s s.agent) .read .home addr n
    let u := drainLine (agentCore s s.agent) r s
    match homeValue u (reachChecked u (placeOf s s.agent) .read .home addr n) n with
    | none => none
    | some v => plainForm s p (hitCause true r = none ∧ v ≠ (sVal p.thr o.sb).toNat % 2 ^ (8 * n)) [] [o.sa, o.sb] [o.sd]
        (writeS s.agent o.sd (BitVec.ofNat 64 v) u)
  | i => match (agentCtx s s.agent).bind (ctxOf? s) with
    | none => none
    | some c => match barrierNamed s pid g c i with
      | none => none
      | some (op, b, named) => match op with
        | .arrive => plainForm s p named [] [] [] (arrive pid p b s)
        | .wait => plainForm s p (named ∧ phaseNamed s p .wait b < (barOf s b).phase) [] [] []
            (pastBarrier s pid b (phaseNamed s p .wait b))
        | .sync => plainForm s p (named ∧ latched p b ≠ none ∧ phaseNamed s p .sync b < (barOf s b).phase) [] [] []
            (pastBarrier s pid b (phaseNamed s p .sync b))
/-- A debugger has armed the breakpoints of a context, and the tenant's policy still opens them (R323, R351). -/
def armedIn (s : State) (k : Context) : Bool := k.armed && (fnOf s k.part).dlock.getLsbD 1
/-- A breakpoint that a debugger armed, and a table load (R55, R323, R388). -/
def loadTableForm (s : State) (pid : Nat) (p : Part) (_ : Group) : Instr → Option PartForm
  | .brkp _ => plainForm s p (∃ c, (agentCtx s s.agent).bind (ctxOf? s) = some c ∧ armedIn s c = true) [] [] []
      (setThread s.agent (fun t => { t with stop := .brkp }) s)
  | .dload o =>
    let addr := (sVal p.thr o.sa).toNat
    let v := (sVal p.thr o.sb).toNat
    let first := v % 2 ^ 7
    let count := v / 2 ^ 8 % 2 ^ 8
    let core := agentCore s s.agent
    let ctx := (agentCtx s s.agent).getD 0
    match readWords s.agent (placeOf s s.agent) true ((List.range count).map fun i => addr + 8 * i) s, ctxOf? s ctx with
    | (es, u, none), some c => plainForm s p ((sVal p.thr o.sb &&& ~~~0xFF7F#64 = 0 ∧ addr % 8 = 0 ∧ 0 < count ∧ first + count ≤ 128) ∧
          badEntry c.lr first es = none) [] [o.sa, o.sb] []
        (setPart pid (fun q => { q with unfenced := true })
          (setCore core (fun k =>
            { k with tableCtx := some ctx, table := loadTable first es k.table, olds := replaced u.tick ctx k }) u))
    | _, _ => none
  | _ => none

/-- A part takes a trap of its own in its handler (R355): what it is raised as, the frame, the report. -/
def handlerPart (s : State) (k : Context) (p : Part) (cause detail : Nat) : Part :=
  let rep : Report := ⟨BitVec.ofNat 64 (cause + detail * 2 ^ 8 + (k.serial + 1).toNat * 2 ^ 32), 0, 0, []⟩
  { p with
    issued := p.issued + 1, last := s.tick
    tstack := { pc := p.thr.pc, next := s.iss.len, em := p.em, wb := p.wb, priv := p.priv, rep := rep } :: p.tstack
    priv := true, latch := none
    thr := { p.thr with pc := k.tvec, report := rep, wait := .none, asked := [], ref := .free, woken := .none, ready := s.tick } }
/-- The cause and detail that a form raises of itself (R323, R354, R384). -/
def ownTrap (armed : Bool) : Instr → Option (Nat × Nat)
  | .trap o => some (0x0E, o.code.toNat)
  | .brkp o => if armed then none else some (0x0D, o.code.toNat)
  | _ => none
/-- From s to t only part pid, the serial count of its context, and profiling counts change. -/
structure OnlyTrap (s t : State) (pid c : Nat) (k : Context) (p' : Part) : Prop where
  part : Cells.get? pid t.parts = some p'
  otherParts : ∀ q, q ≠ pid → Cells.get? q t.parts = Cells.get? q s.parts
  ctx : Cells.get? c t.ctxs = some { k with serial := k.serial + 1 }
  otherCtxs : ∀ d, d ≠ c → Cells.get? d t.ctxs = Cells.get? d s.ctxs
  cores : CoresKept s t
  rest : { t with parts := s.parts, ctxs := s.ctxs, cores := s.cores } = s

/-! ### Records and stops -/

/-- Who a record is about: core, slot, team slot, whether a sequencer context, trap stack depth (R364). -/
structure RecordWho where
  core : Nat
  slot : Nat
  team : Nat
  seq : Bool
  depth : Nat
/-- Words W1 to W7 of a record of the fault ring for one page of several (R362, R364). -/
structure RecordWords (w : List DWord) (who : RecordWho) (cause detail kind index count lane : Nat) (wr : Bool) (size ctx serial : Nat)
    (pc : DWord) (base : Nat) (lanes addr : DWord) (accm : BitVec 4) (chit : Option (BitVec 6)) : Prop where
  length : w.length = 7
  code : bitsOf (w.getD 0 0) 0 8 = cause ∧ bitsOf (w.getD 0 0) 8 8 = detail ∧ bitsOf (w.getD 0 0) 16 4 = kind
  pages : bitsOf (w.getD 0 0) 20 6 = index ∧ bitsOf (w.getD 0 0) 26 6 = count - 1
  access : bitsOf (w.getD 0 0) 32 6 = lane ∧ bitsOf (w.getD 0 0) 38 1 = (if wr then 1 else 0)
  agent : bitsOf (w.getD 0 0) 39 1 = (if who.seq then 1 else 0) ∧ bitsOf (w.getD 0 0) 40 3 = who.depth ∧
    bitsOf (w.getD 0 0) 48 6 = who.slot ∧ bitsOf (w.getD 0 0) 54 2 = who.team ∧ bitsOf (w.getD 0 0) 56 8 = ctx
  pgsz : bitsOf (w.getD 0 0) 43 2 = (if size = 65536 then 1 else if size = 2097152 then 2 else 0) ∧ bitsOf (w.getD 0 0) 45 3 = 0
  place : bitsOf (w.getD 1 0) 0 32 = serial ∧ bitsOf (w.getD 1 0) 32 10 = who.core ∧ bitsOf (w.getD 1 0) 42 22 = 0
  pc : (w.getD 2 0).toNat = pc.toNat % 2 ^ 56
  page : (w.getD 3 0).toNat = base % 2 ^ 56
  lanes : w.getD 4 0 = lanes
  addr : (w.getD 5 0).toNat = addr.toNat % 2 ^ 56
  engine : bitsOf (w.getD 6 0) 0 4 = accm.toNat ∧ bitsOf (w.getD 6 0) 11 53 = 0 ∧ (match chit with
    | some c => bitsOf (w.getD 6 0) 4 6 = c.toNat ∧ bitsOf (w.getD 6 0) 10 1 = 1
    | none => bitsOf (w.getD 6 0) 4 7 = 0)
/-- An agent as its records name it (R364). -/
def AgentIs (s : State) (a : Agent) (who : RecordWho) : Prop :=
  (who.core < 1024 ∧ who.slot < 64 ∧ who.team < 4 ∧ who.depth < 8) ∧
  match a with
  | .none => False
  | .part pid => ∃ p g t, Cells.get? pid s.parts = some p ∧ Cells.get? p.gid s.groups = some g ∧ Cells.get? g.tid s.teams = some t ∧
      who = ⟨t.core, g.gslot, t.tslot, false, p.tstack.length⟩
  | .seq sc => sc < 1536 ∧ who = ⟨quadCore (sc / 8), sc % 8, 0, true, 0⟩
/-- The translation page of an address, or its 4 KiB page where no translation exists (R330, R362): base and size. -/
def pageFor (s : State) (part : BitVec 6) (a : Nat) : Nat × Nat :=
  match (parOf? s part).bind fun t => pageOf t a with
  | some q => (q.1, q.2.size)
  | none => (a / 4096 * 4096, 4096)
/-- A cause of lanes that names an address: ALIGN, NOPAGE, PROT or SEQW, with the address of each lane that failed, in ascending order
of lanes (R354, R361). -/
structure LaneCause (t : Trap) : Prop where
  cause : t.cause.toNat ∈ [0x06, 0x07, 0x08, 0x0A]
  paged : t.paged = true
  some : t.addrs ≠ []
  rising : t.addrs.Pairwise fun x y => x.1 < y.1
  lanes : ∀ x ∈ t.addrs, x.1 < 64
  mask : ∀ l < 64, t.mask.getLsbD l = true ↔ ∃ x ∈ t.addrs, x.1 = l
/-- The records of a cause of lanes (R362): one for each page that a lane touched, in the order of the lowest lane that touched it. -/
def PageRecords (s : State) (c : Nat) (t : Trap) (who : RecordWho) (serial : BitVec 32) (pc : DWord) (kind : Nat) (cause detail : BitVec 8)
    (rs : List (List DWord)) : Prop :=
  let page (x : Nat × DWord) := pageFor s (ctxPart s c) x.2.toNat
  ∃ low : Nat → Nat × DWord,
    (∀ i < rs.length, low i ∈ t.addrs ∧ (∀ x ∈ t.addrs, (page x).1 = (page (low i)).1 → (low i).1 ≤ x.1) ∧
      ∃ lanes, (∀ l < 64, lanes.getLsbD l = true ↔ ∃ x ∈ t.addrs, x.1 = l ∧ (page x).1 = (page (low i)).1) ∧
        RecordWords (rs.getD i []) who cause.toNat detail.toNat kind i rs.length (t.addrs.headD (0, 0)).1 t.wr (page (low i)).2 c
          serial.toNat pc (page (low i)).1 lanes (low i).2 t.accm t.chit) ∧
    (∀ i j, i < j → j < rs.length → (low i).1 < (low j).1) ∧
    ∀ x ∈ t.addrs, ∃ i < rs.length, (page x).1 = (page (low i)).1
/-- A sequencer context that stops at a cause (R367): its uniform registers, accumulators, operations and PC stay. -/
def seqStop (s : State) (sc len : Nat) (q : SeqCtx) (k : Context) (rep : Report) : State :=
  { s with
    ctxs := Cells.modify q.ctx (fun k => { k with serial := k.serial + 1 }) s.ctxs
    seqs := Cells.modify sc (fun q =>
      { q with thr := { q.thr with stop := .seqStopped, wait := .none, report := rep, asked := [], woken := .none, next := len } }) s.seqs }

/-- Forms that only groups execute, those of the lane, mask, box, command, sequence and control families (R48). -/
def onlyGroups (i : Instr) : Prop :=
  (integerForm i).isSome ∨ (floatForm i).isSome ∨ (binnedForm i).isSome ∨ (groupForm i).isSome ∨ (maskForm i).isSome ∨
    match i with
    | .ld _ | .st _ | .atom _ | .lda _ | .stl _ | .fenceFull _ | .fenceAcq _ | .fenceRel _ | .fenceEng _ | .pgreq _ | .pfch _
    | .bld _ | .bst _ | .batom _ | .bxnew _ | .bxfree _ | .bxgive _ | .bxtake _ | .bxlend _ | .settle _ | .bxinfo _ | .bxrecall _
    | .cpy _ | .cpyx _ | .cpyq _ | .xsend _ | .xrecv _ | .xred _ | .menc _ | .mdec _ | .mpost _ | .vread _ | .kget _ | .emget _
    | .emset _ | .emand _ | .sqmint _ | .sqres _ | .sqcom _ | .sqlen _ | .sqwait _ | .sqfork _ | .sqbind _ | .sqdrop _ | .sqext _
    | .sqsum _ | .sqaddr _ | .sqinfo _ | .bk _ | .bkany _ | .bkall _ | .bknone _ | .call _ | .callr _ | .ret | .join _ | .brkp _
    | .watch _ | .tbarArrive _ | .tbarWait _ | .tbarSync _ | .cbarArrive _ | .cbarWait _ | .cbarSync _ | .gbarSync _ | .tret _
    | .tfence | .dload _ | .dfence | .dget _ | .prof _ | .fltget _ | .fltgetMask _ => True
    | _ => False
/-- Forms that only sequencer contexts execute (R48). -/
def onlySequencers : Instr → Prop
  | .mma _ | .mmb _ | .mzero _ | .mdrain _ | .mstore _ | .mscale _ | .mwait _ | .msig _ | .mpick _ | .mrel _ => True
  | _ => False

/-- An ordinary page on the device maps n aligned bytes at va to pa for an access (R329, R335, R336). Poison there is no cause of the
translation (R372). -/
structure Mapped (s : State) (pl : Place) (k : AccessKind) (va n pa b : Nat) (pg : Page) : Prop where
  aligned : va % n = 0
  space : va < region 0x80 ∨ region 0xC0 ≤ va ∧ va < region 0xE0
  page : ∃ t, parOf? s pl.part = some t ∧ pageOf t va = some (b, pg)
  clean : s.tablePoison.contains (pl.part, b) = false
  kind : pg.kind ≠ .seq
  right : allowed pg k = true
  descriptor : k.stores = true → onDescriptor s pl.part va n = false
  device : ∃ ph, pg.state = .device ph ∧ inPool s pl.part ph pg.size = true ∧ pa = ph + (va - b)

/-- A byte of HBM4 lies in an allocated frame (R336). -/
def InFrame (s : State) (a : Nat) : Prop := ∃ f ∈ s.frames, f.1 ≤ a ∧ a < f.1 + f.2.size

/-- Memory as a reader finds it: no store accepted, no byte of an allocated frame or of a peer changed (R244, R336). -/
structure MemoryKept (s t : State) : Prop where
  stores : t.stores = s.stores
  peer : t.peerMem = s.peerMem
  bytes : ∀ a, InFrame s a → memByte t.mem a = memByte s.mem a

/-! ### What accesses deliver -/

/-- The number that n little-endian bytes from an address spell (R35). -/
def littleEndian (m : Nat → Byte) (a n : Nat) : Nat := ((List.range n).map fun i => (m (a + i)).toNat * 256 ^ i).sum
/-- An access of n bytes meets them at their home alone: an ordinary page on the device maps them, no ordered range holds them, its core
has queued no store, neither that core nor its die holds a copy of their line, and no sector of theirs is poisoned. -/
structure AtHome (s : State) (pl : Place) (k : AccessKind) (va n pa : Nat) : Prop where
  mapped : ∃ b pg, Mapped s pl k va n pa b pg
  place : pa % n = 0 ∧ n ≤ 128
  plain : stagingTeam s s.agent pl.ctx va = none
  queue : ∀ q ∈ s.stores, q.core ≠ pl.core
  l1 : ∀ l ∈ (coreOf s pl.core).l1, l.pline ≠ pa / 128
  copies : ∀ c ∈ s.copies, c.die = pl.die → c.line ≠ pa / 128
  sound : ∀ i < n, poisonedAt s ((pa + i) / 32 * 32) 32 = none
/-- Values of n bytes, one for each active lane in ascending order, are on their way to the registers from v of their lanes: word by word,
zeros above. Until they land those registers are empty (R25, R247). -/
structure LandsIn (s t : State) (p : Part) (g : Group) (pk : BitVec 2) (v : BitVec 6) (n : Nat) (vals : List Nat) (load store : Bool) :
    Prop where
  quiet : actives p g pk = [] → t.lands = s.lands
  lands : actives p g pk ≠ [] → ∃ k, t.lands = s.lands ++ [k] ∧ k.who = s.agent ∧ k.load = load ∧ k.store = store ∧
    k.dest = .lanes p.gid (((actives p g pk).zip vals).flatMap fun q => (List.range (sizeRegs n)).map fun r =>
      (physReg g p.wb (v.toNat + r) * 64 + q.1, BitVec.ofNat 32 (q.2 / 2 ^ (32 * r))))
  empty : ∃ g', Cells.get? p.gid t.groups = some g' ∧
    ∀ l ∈ actives p g pk, ∀ r < sizeRegs n, (laneWord g' p.wb (v.toNat + r) l).full = false
/-- A value of a uniform load is on its way to its register, which is empty until it lands (R25). -/
structure UniLandsIn (s t : State) (sd : BitVec 5) (v : Nat) : Prop where
  lands : ∃ k, t.lands = s.lands ++ [k] ∧ k.who = s.agent ∧ k.load = true ∧ k.store = false ∧
    k.dest = .sreg s.agent sd.toNat (BitVec.ofNat 64 v)
  empty : ∃ th, thread? t s.agent = some th ∧ (sregOf th sd.toNat).full = false
/-- The operand bytes of an atomic of a lane, in k registers (R250, R255). -/
def operandOf (p : Part) (g : Group) (v : BitVec 6) (k l : Nat) : List Byte :=
  (List.range k).flatMap fun r => (List.range 4).map fun i =>
    BitVec.ofNat 8 ((laneVal g p.wb (v.toNat + r) l).toNat / 2 ^ (8 * i))
/-- Atomics of n bytes at some addresses, one after another (R101, R102): the old values and the bytes that they leave. -/
def atomRun (op n : Nat) : (Nat → Byte) → List (Nat × List Byte) → List Nat × (Nat → Byte)
  | m, [] => ([], m)
  | m, (a, opd) :: r =>
    let new := atomNew op n ((List.range n).map fun i => m (a + i)) opd
    let x := atomRun op n (fun b => if a ≤ b ∧ b < a + n then new.getD (b - a) 0 else m b) r
    (littleEndian m a n :: x.1, x.2)
/-- An offset of a box at which a lane's access of n bytes lies inside it (R254). -/
def fits (b : Box) (off n : Nat) : Prop := off + n ≤ b.bytes
/-- A lane's offset in a box. -/
def boxOffset (p : Part) (g : Group) (va : BitVec 6) (l : Nat) : Nat := (laneVal g p.wb va.toNat l).toNat

/-! ### Faulting accesses -/

/-- A part takes a trap at its instruction, whose count of lanes is n (R353, R355). -/
def raised (s : State) (n : Nat) (tr : Trap) (u : State) : State := takeTrap s.agent s.iss.len tr (countRaise s.agent n tr u)
/-- An access of lanes whose checks find a cause: the registers that must be ready, and the state in which that cause has been raised
(R244). `mask` is the residency mask that a `st` sets for its failing lanes (R248). -/
def faultOf (s : State) (p : Part) (g : Group) (pk : BitVec 2) (room : Prop) (srcs dsts : List Nat) (unis : List (BitVec 5))
    (tr : Option Trap) (mask : Trap → State) : Option PartForm :=
  tr.map fun t =>
    let n := (lanesOf 64 (activeMask p g pk)).length
    { ok := room, lanes := actives p g pk, srcs := srcs, dsts := dsts, masks := [pk.toNat], unis := unis, udsts := [], count := n
      pc := p.thr.pc, next := raised s n t (mask t) }
/-- Accesses of lanes that fault: global ones (R243, R244, R247 to R250) and those of boxes (R254, R255). A `ld` takes no cause from a
page that is not resident; the others do, and a `st` then sets the residency mask that it names (R248). -/
def faultForm (s : State) (p : Part) (g : Group) : Instr → Option PartForm
  | .ld o =>
    let n : Nat := 2 ^ o.size.toNat
    faultOf s p g o.pk (roomFor s s.agent true false = true) (regsFrom o.va 2) (regsFrom o.vt (sizeRegs n)) []
      (laneTrap false false ((laneReads s p g o false none).2.1.map Prod.fst))
      fun _ => noteLanes (placeOf s s.agent).part (laneReads s p g o false none).1 s
  | .lda o =>
    let n : Nat := 2 ^ o.size.toNat
    faultOf s p g o.pk (roomFor s s.agent true false = true) (regsFrom o.va 2) (regsFrom o.vt (sizeRegs n)) []
      (laneTrap true false ((laneReads s p g o true (some (o.kr.toNat + 1))).2.1.map Prod.fst))
      fun _ => noteLanes (placeOf s s.agent).part (laneReads s p g o true (some (o.kr.toNat + 1))).1 s
  | .st o =>
    let n : Nat := 2 ^ o.size.toNat
    faultOf s p g o.pk (roomFor s s.agent false true = true) (regsFrom o.va 2 ++ regsFrom o.vt (sizeRegs n)) [] []
      (laneTrap true true (laneHits s p g o.pk o.va (o.x.toInt * n) .write .none n).1)
      fun t =>
        let u := noteLanes (placeOf s s.agent).part (laneHits s p g o.pk o.va (o.x.toInt * n) .write .none n).1 s
        if t.cause = 0x07 ∧ trapHeld u s.agent t = false then setKr p.gid o.kr t.mask u else u
  | .stl o =>
    let n : Nat := 2 ^ o.size.toNat
    faultOf s p g o.pk (roomFor s s.agent false true = true) (regsFrom o.va 2 ++ regsFrom o.vt (sizeRegs n)) [] []
      (laneTrap true true (laneHits s p g o.pk o.va (o.x.toInt * n) .write .none n).1)
      fun _ => noteLanes (placeOf s s.agent).part (laneHits s p g o.pk o.va (o.x.toInt * n) .write .none n).1 s
  | .atom o =>
    let n : Nat := 2 ^ o.size.toNat
    faultOf s p g o.pk (roomFor s s.agent true true = true) (regsFrom o.va 2 ++ regsFrom o.vt (atomRegs o.x n))
      (regsFrom o.vt (sizeRegs n)) [] (laneTrap true true (laneHits s p g o.pk o.va 0 .write .old n).1)
      fun _ => noteLanes (placeOf s s.agent).part (laneHits s p g o.pk o.va 0 .write .old n).1 s
  | .bld o =>
    let n : Nat := 2 ^ o.size.toNat
    faultOf s p g o.pk (roomFor s s.agent true false = true) [o.va.toNat] (regsFrom o.vt (sizeRegs n)) [boxReg o.sh]
      (boxLaneTrap false (boxHits p g o.pk o.va ((heldBox s p.gid g (sVal p.thr (boxReg o.sh))).map Prod.snd) false true (o.kr != 0) n))
      fun _ => s
  | .bst o =>
    let n : Nat := 2 ^ o.size.toNat
    faultOf s p g o.pk (roomFor s s.agent false true = true) (o.va.toNat :: regsFrom o.vt (sizeRegs n)) [] [boxReg o.sh]
      (boxLaneTrap true (boxHits p g o.pk o.va ((heldBox s p.gid g (sVal p.thr (boxReg o.sh))).map Prod.snd) true false (o.kr != 0) n))
      fun _ => s
  | .batom o =>
    let n := if o.op = 13 then 16 else 4
    faultOf s p g o.pk (roomFor s s.agent true true = true) (o.va.toNat :: regsFrom o.vt (if o.op = 9 then 2 else sizeRegs n))
      (regsFrom o.vt (sizeRegs n)) [boxReg o.sh]
      (boxLaneTrap true (boxHits p g o.pk o.va ((heldBox s p.gid g (sVal p.thr (boxReg o.sh))).map Prod.snd) true true false n))
      fun _ => s
  | _ => none
/-- A uniform store of n bytes whose checks find a cause (R243, R246). -/
def uniStoreFault (s : State) (th : Thread) (o : OpV) (n : Nat) : Option AgentForm :=
  let addr := uniformAddress th o n
  (hitCause true (reachChecked s (placeOf s s.agent) .write .none addr n)).map fun c =>
    ⟨roomFor s s.agent false true = true, [o.sa, o.sd], [], th.pc, raised s 0 (uniTrap true addr c) s⟩
/-- A uniform load of n bytes whose checks find a cause, or that reads poison (R243, R246, R372). -/
def uniLoadFault (s : State) (th : Thread) (o : OpV) (n : Nat) (acq : Bool) : Option AgentForm :=
  let pl := placeOf s s.agent
  let addr := uniformAddress th o n
  let r := reachChecked s pl .read .none addr n
  let u := touched r s
  let poison : Option (Nat × Nat) := match (readHit s.agent pl addr n r (if acq then acquireAt pl 3 u else u)).1 with
    | none => some (0x10, 0x02)
    | some _ => none
  (hitCause true r <|> poison).map fun c =>
    ⟨roomFor s s.agent true false = true, [o.sa], [o.sd], th.pc, raised s 0 (uniTrap false addr c) s⟩
/-- Uniform accesses that fault. -/
def uniFaultForm (s : State) (th : Thread) : Instr → Option AgentForm
  | .sld64 o => uniLoadFault s th o 8 false
  | .sld32 o => uniLoadFault s th o 4 false
  | .slda o => uniLoadFault s th o 8 true
  | .sst64 o => uniStoreFault s th o 8
  | .sst32 o => uniStoreFault s th o 4
  | .sstl o => uniStoreFault s th o 8
  | _ => none
/-- The predicate of an access of lanes and the register fields that it reads, each with its wait bit (R44, R137). -/
def accessFields : Instr → Option (BitVec 2 × List (List Nat × Bool))
  | .ld o => some (o.pk, [(regsFrom o.va 2, o.wa)])
  | .lda o => some (o.pk, [(regsFrom o.va 2, o.wa)])
  | .st o => some (o.pk, [(regsFrom o.va 2, o.wa), (regsFrom o.vt (sizeRegs (2 ^ o.size.toNat)), o.wt)])
  | .stl o => some (o.pk, [(regsFrom o.va 2, o.wa), (regsFrom o.vt (sizeRegs (2 ^ o.size.toNat)), o.wt)])
  | .atom o => some (o.pk, [(regsFrom o.va 2, o.wa), (regsFrom o.vt (atomRegs o.x (2 ^ o.size.toNat)), o.wt)])
  | .bld o => some (o.pk, [([o.va.toNat], o.wa)])
  | .bst o => some (o.pk, [([o.va.toNat], o.wa), (regsFrom o.vt (sizeRegs (2 ^ o.size.toNat)), o.wt)])
  | .batom o => some (o.pk, [([o.va.toNat], o.wa), (regsFrom o.vt (if o.op = 9 then 2 else if o.op = 13 then 4 else 1), o.wt)])
  | _ => none
/-- The box register that an access of lanes reads, if any. -/
def accessBox : Instr → Option (BitVec 5)
  | .bld o => some (boxReg o.sh)
  | .bst o => some (boxReg o.sh)
  | .batom o => some (boxReg o.sh)
  | _ => none

/-! ### Accumulators -/

/-- An element of an accumulator. -/
def accWord (q : SeqCtx) (a i j : Nat) : Word := Cells.get 0 (a * 4096 + i * 64 + j) q.acc
/-- A row of a dense operand over 32 columns from k0: BF16 values, row by row, little-endian (R112, R119). -/
def denseRow (b : Box) (off cols k0 r : Nat) : List Num.EVal :=
  (List.range 32).map fun k => Num.evalBf16 (ofBytes (memBytes b.front (off + r * 2 * cols + 2 * (k0 + k)) 2))
/-- The steps of a granted pass over its boxes, in order: the accumulator, the rows and columns, the rows of A and of B (R117 to
R119). The tiles of a split pass are those whose headers passed its checks, patched with the entries that it popped. -/
def stepsOf (o : EngOp) (ba bb : Box) : List (Nat × Nat × (Nat → List Num.EVal) × (Nat → List Num.EVal)) :=
  match o.kind with
  | .pass true shape a b =>
    let d := denseShape shape
    d.2.2.map fun k0 => (accOf o, d.1, denseRow ba (descOff a) d.2.1 k0, denseRow bb (descOff b) d.2.1 k0)
  | .pass false shape a b =>
    let ts := heldTiles ba bb a b (passPops shape) o.heads none none
    let rows := fun n r => match ts[n]?, o.popped[n]? with
      | some t, some e => (Num.tileValues t.head t.bytes e.recs).getD r []
      | _, _ => []
    (splitSteps shape).map fun st => (accOf o + st.1, 64, rows st.2.1, rows st.2.2)
  | _ => []
/-- Nothing that a granted pass reads is poisoned, and a split pass has a tile and an entry for each pop (R121). -/
def passSound (q : SeqCtx) (o : EngOp) (ba bb : Box) : Prop :=
  (∀ st ∈ stepsOf o ba bb, accPoisoned q st.1 st.2.1 = false) ∧
  match o.kind with
  | .pass true shape a b =>
    let n := (denseShape shape).1 * (denseShape shape).2.1 * 2
    boxPoison ba (descOff a) n = none ∧ boxPoison bb (descOff b) n = none
  | .pass false shape a b =>
    let ts := heldTiles ba bb a b (passPops shape) o.heads none none
    ts.length = (passPops shape).length ∧ o.popped.length = (passPops shape).length ∧ (∀ t ∈ ts, t.poison = none) ∧
      ∀ e ∈ o.popped, e.poison = false
  | _ => False
/-- The operation of a sequencer context that may run now. -/
def dueOp (s : State) (sc op : Nat) (q : SeqCtx) (o : EngOp) : Prop :=
  Cells.get? sc s.seqs = some q ∧ (q.ops.find? fun o => decide (sc < 4096) && o.id == op && opDue q o) = some o
/-- An operation o of a sequencer context has ended in u: it is gone, other operations and registers stand. -/
structure OpEnded (u : State) (sc : Nat) (q q' : SeqCtx) (o : EngOp) : Prop where
  now : Cells.get? sc u.seqs = some q'
  ops : q'.ops = q.ops.filter fun e => e.id != o.id
  thr : q'.thr = q.thr

/-! ### Numbers by their codes -/

/-- A code of a format is finite (R68, R70): its exponent field is not all ones, or in E4M3 it is neither NaN. Bits above the format
are ignored (R69). -/
def finiteCode (t : Num.Fmt) (c : Nat) : Bool := decide (c % t.signBit < t.inf)
/-- A code of an infinity, which E4M3 has not (R68, R70). -/
def infCode (t : Num.Fmt) (c : Nat) : Bool := t != .e4m3 && c % t.signBit == t.inf
/-- A code of a NaN. -/
def nanCode (t : Num.Fmt) (c : Nat) : Bool := !finiteCode t c && !infCode t c
/-- The sign bit of a code. -/
def negCode (t : Num.Fmt) (c : Nat) : Bool := decide (c / t.signBit % 2 = 1)
/-- A signalling NaN: its quiet bit is 0, and the format has more than 8 bits (R70, R82). -/
def sigCode (t : Num.Fmt) (c : Nat) : Bool := nanCode t c && decide (2 < t.mbits) && c / 2 ^ (t.mbits - 1) % 2 == 0
/-- The magnitude of a finite code in units of 2^-149, of which the values of every format are multiples (R67, R68, R70). -/
def magnitude (t : Num.Fmt) (c : Nat) : Nat :=
  let x := c % t.signBit
  let e := x / 2 ^ t.mbits
  (if e = 0 then x else (2 ^ t.mbits + x % 2 ^ t.mbits) * 2 ^ (e - 1)) * 2 ^ (150 - t.bias - t.mbits)
/-- The value of a finite code in units of 2^-149. -/
def valueOf (t : Num.Fmt) (c : Nat) : Int := if negCode t c then -(magnitude t c : Int) else magnitude t c
/-- A canonical NaN, with INV where an operand is signalling (R81, R82). -/
def nanResult (t : Num.Fmt) (sig : Bool) : Nat × Flags := (t.nan, if sig then Num.fINV else fNone)
/-- An infinity of a sign. -/
def infResult (t : Num.Fmt) (neg : Bool) : Nat × Flags := (t.inf + (if neg then t.signBit else 0), fNone)
/-- A zero of a sign. -/
def zeroResult (t : Num.Fmt) (neg : Bool) : Nat × Flags := (if neg then t.signBit else 0, fNone)

/-- A mode rounds to nearest. -/
def toNearest : Num.Mode → Bool
  | .rne => true
  | .rneSat => true
  | _ => false
/-- A mode rounds magnitudes of a sign up (R78). -/
def awayFromZero (mode : Num.Mode) (neg : Bool) : Bool :=
  match mode with
  | .rdn => neg
  | .rup => !neg
  | _ => false
/-- r is the exact result of sign neg and magnitude n / d, in units of 2^-149, rounded once to a format under a mode, with its flags
(R76, R78 to R80). It overflows where, rounded with unbounded exponent range, it exceeds the largest finite magnitude. Else it is a
finite code of that sign, and no other finite code is nearer (the even code on a tie), or nearer on the side to which the mode rounds;
UNF stands for a tiny inexact result, INX for an inexact one. -/
def Rounded (t : Num.Fmt) (mode : Num.Mode) (neg : Bool) (n d : Nat) (r : Nat × Flags) : Prop :=
  let top := magnitude t t.maxCode
  let ulp := 2 ^ (t.maxCode / 2 ^ t.mbits - 1) * 2 ^ (150 - t.bias - t.mbits)
  let sign := if neg then t.signBit else 0
  let beyond : Prop :=
    if toNearest mode = true then (2 * top + ulp) * d < 2 * n ∨ (2 * top + ulp) * d = 2 * n ∧ t.maxCode % 2 = 1
    else if awayFromZero mode neg = true then top * d < n
    else (top + ulp) * d ≤ n
  (beyond → r = (if mode = .rne ∨ awayFromZero mode neg = true then (if t = .e4m3 then t.nan else t.inf + sign) else t.maxCode + sign,
    if mode = .rneSat then Num.fSAT else Num.fOVF ||| Num.fINX)) ∧
  (¬ beyond → let m := magnitude t r.1
    finiteCode t r.1 = true ∧ r.1 / t.signBit = (if neg then 1 else 0) ∧
    (∀ c, finiteCode t c = true → let x := magnitude t c
      if toNearest mode = true then
        ((m * d : Int) - n).natAbs ≤ ((x * d : Int) - n).natAbs ∧
          (((m * d : Int) - n).natAbs = ((x * d : Int) - n).natAbs → x ≠ m → r.1 % 2 = 0)
      else if awayFromZero mode neg = true then n ≤ m * d ∧ (n ≤ x * d → m ≤ x)
      else m * d ≤ n ∧ (x * d ≤ n → x ≤ m)) ∧
    r.2 = (if n < 2 ^ (150 - t.bias) * d ∧ m * d ≠ n then Num.fUNF else fNone) ||| (if m * d ≠ n then Num.fINX else fNone))
/-- y is the magnitude n / d of sign neg rounded to an integer under a mode (R78, R86). -/
def RoundedInt (mode : Num.Mode) (neg : Bool) (n d y : Nat) : Prop :=
  if toNearest mode = true then 2 * ((y * d : Int) - n).natAbs ≤ d ∧ (2 * ((y * d : Int) - n).natAbs = d → y % 2 = 0)
  else if awayFromZero mode neg = true then n ≤ y * d ∧ y * d < n + d
  else y * d ≤ n ∧ n < (y + 1) * d
/-- The sign of an exact sum: that of a zero only where every term is a zero of sign minus (R84). -/
def sumSign (v : Int) (zero : Bool) : Bool := if v = 0 then zero else decide (v < 0)

/-- r is the sum of two codes (R76, R81 to R84). -/
def IsSum (t : Num.Fmt) (a b : Nat) (r : Nat × Flags) : Prop :=
  let v := valueOf t a + valueOf t b
  if nanCode t a || nanCode t b then r = nanResult t (sigCode t a || sigCode t b)
  else if infCode t a && infCode t b then r = if negCode t a = negCode t b then infResult t (negCode t a) else nanResult t true
  else if infCode t a then r = infResult t (negCode t a)
  else if infCode t b then r = infResult t (negCode t b)
  else Rounded t .rne (sumSign v (negCode t a && negCode t b)) v.natAbs 1 r
/-- r is the product of two codes (R76, R81 to R84). -/
def IsProduct (t : Num.Fmt) (a b : Nat) (r : Nat × Flags) : Prop :=
  let neg := negCode t a != negCode t b
  if nanCode t a || nanCode t b then r = nanResult t (sigCode t a || sigCode t b)
  else if infCode t a || infCode t b then
    r = if magnitude t a = 0 ∨ magnitude t b = 0 then nanResult t true else infResult t neg
  else Rounded t .rne neg (magnitude t a * magnitude t b) (2 ^ 149) r
/-- r is the fused product of two codes plus a third (R76, R81 to R84): a product of 0 and an infinity is invalid beside a NaN too. -/
def IsFused (t : Num.Fmt) (a b c : Nat) (r : Nat × Flags) : Prop :=
  let neg := negCode t a != negCode t b
  let v := valueOf t a * valueOf t b + valueOf t c * 2 ^ 149
  let inf := infCode t a || infCode t b
  let bad := inf && !nanCode t a && !nanCode t b && (magnitude t a == 0 || magnitude t b == 0)
  if nanCode t a || nanCode t b || nanCode t c || bad then r = nanResult t (sigCode t a || sigCode t b || sigCode t c || bad)
  else if inf && infCode t c then r = if neg = negCode t c then infResult t neg else nanResult t true
  else if inf then r = infResult t neg
  else if infCode t c then r = infResult t (negCode t c)
  else Rounded t .rne (sumSign v (neg && negCode t c)) v.natAbs (2 ^ 149) r
/-- r is the quotient of two F32 codes (R76, R81 to R84). -/
def IsQuotient (a b : Nat) (r : Nat × Flags) : Prop :=
  let t := Num.Fmt.f32
  let neg := negCode t a != negCode t b
  if nanCode t a || nanCode t b then r = nanResult t (sigCode t a || sigCode t b)
  else if infCode t a then r = if infCode t b then nanResult t true else infResult t neg
  else if infCode t b then r = zeroResult t neg
  else if magnitude t b = 0 then r = if magnitude t a = 0 then nanResult t true else ((infResult t neg).1, Num.fDZ)
  else Rounded t .rne neg (magnitude t a * 2 ^ 149) (magnitude t b) r
/-- r is the reciprocal of an F32 code (R76, R81 to R84). -/
def IsReciprocal (a : Nat) (r : Nat × Flags) : Prop :=
  let t := Num.Fmt.f32
  if nanCode t a then r = nanResult t (sigCode t a)
  else if infCode t a then r = zeroResult t (negCode t a)
  else if magnitude t a = 0 then r = ((infResult t (negCode t a)).1, Num.fDZ)
  else Rounded t .rne (negCode t a) (2 ^ 298) (magnitude t a) r
/-- r is the finite F32 code whose magnitude is nearest to the square root of n / d in units of 2^-149, which is no tie of two codes, with
INX where it is not that root (R76, R80, R83). -/
def RootRounded (n d : Nat) (r : Nat × Flags) : Prop :=
  let m := magnitude .f32 r.1
  r.1 < 0x7F800000 ∧ (∀ c, finiteCode .f32 c = true → let x := magnitude .f32 c
    (m < x → 4 * n ≤ (m + x) ^ 2 * d) ∧ (x < m → (m + x) ^ 2 * d ≤ 4 * n)) ∧
  r.2 = if m ^ 2 * d = n then fNone else Num.fINX
/-- r is the square root of an F32 code (R76, R81 to R84). -/
def IsRoot (a : Nat) (r : Nat × Flags) : Prop :=
  let t := Num.Fmt.f32
  if nanCode t a then r = nanResult t (sigCode t a)
  else if infCode t a then r = if negCode t a then nanResult t true else infResult t false
  else if magnitude t a = 0 then r = zeroResult t (negCode t a)
  else if negCode t a then r = nanResult t true
  else RootRounded (magnitude t a * 2 ^ 149) 1 r
/-- r is the reciprocal square root of an F32 code (R76, R81 to R84). -/
def IsRecipRoot (a : Nat) (r : Nat × Flags) : Prop :=
  let t := Num.Fmt.f32
  if nanCode t a then r = nanResult t (sigCode t a)
  else if infCode t a then r = if negCode t a then nanResult t true else zeroResult t false
  else if magnitude t a = 0 then r = ((infResult t (negCode t a)).1, Num.fDZ)
  else if negCode t a then r = nanResult t true
  else RootRounded (2 ^ 447) (magnitude t a) r
/-- A lane result as a code and flags. -/
def laneResult (x : Word × Flags) : Nat × Flags := (x.1.toNat, x.2)
/-- A packed result: each half is a result of its elements, and the flags are merged (R69, R103). -/
def Packed (f : Nat → Nat × Flags → Prop) (x : Word × Flags) : Prop :=
  ∃ r q, f 0 r ∧ f 1 q ∧ x = (BitVec.ofNat 32 (r.1 + q.1 * 2 ^ 16), r.2 ||| q.2)
/-- An element of a packed register (R69). -/
def packedElem (a : Word) (e : Nat) : Nat := a.toNat / 2 ^ (16 * e) % 2 ^ 16
/-- A conversion of an F32, BF16, F16, E4M3 or E5M2 code to another of these formats (R85). -/
def IsConverted (f g : Num.Fmt) (mode : Num.Mode) (a : Nat) (r : Nat × Flags) : Prop :=
  if nanCode f a then r = nanResult g (sigCode f a)
  else if infCode f a then
    r = if g = .e4m3 then (if mode = .rneSat then (g.maxCode + (if negCode f a then g.signBit else 0), Num.fSAT) else nanResult g true)
      else infResult g (negCode f a)
  else Rounded g mode (negCode f a) (magnitude f a) 1 r
/-- A conversion of a floating-point code to an integer between lo and hi (R86). -/
def IsInteger (f : Num.Fmt) (lo hi : Int) (mode : Num.Mode) (a : Nat) (x : Word × Flags) : Prop :=
  if nanCode f a then x = (0, Num.fINV)
  else if infCode f a then x = (BitVec.ofInt 32 (if negCode f a then lo else hi), Num.fINV ||| Num.fSAT)
  else ∃ y, RoundedInt mode (negCode f a) (magnitude f a) (2 ^ 149) y ∧
    let v : Int := if negCode f a then -(y : Int) else y
    x = if v < lo then (BitVec.ofInt 32 lo, Num.fINV ||| Num.fSAT)
      else if hi < v then (BitVec.ofInt 32 hi, Num.fINV ||| Num.fSAT)
      else (BitVec.ofInt 32 v, if y * 2 ^ 149 = magnitude f a then fNone else Num.fINX)
/-- The place of a code that is no NaN among exact numbers and infinities: minus and plus 0 are equal (R89). -/
def orderOf (t : Num.Fmt) (c : Nat) : Int := if infCode t c then (if negCode t c then -(2 ^ 500) else 2 ^ 500) else valueOf t c
/-- A code lies below another in the total order, where minus 0 lies below plus 0 (R89). -/
def below (t : Num.Fmt) (a b : Nat) : Bool :=
  decide (orderOf t a < orderOf t b) || (decide (orderOf t a = orderOf t b) && negCode t a && !negCode t b)
/-- A condition of `fcmp` (R89, R157). -/
def relation (t : Num.Fmt) (cond : BitVec 3) (a b : Nat) : Bool :=
  let un := nanCode t a || nanCode t b
  let x := orderOf t a
  let y := orderOf t b
  match cond.toNat with
  | 0 => !un && decide (x = y)
  | 1 => un || decide (x ≠ y)
  | 2 => !un && decide (x < y)
  | 3 => !un && decide (x ≤ y)
  | 4 => !un && decide (y < x)
  | 5 => !un && decide (y ≤ x)
  | 6 => un
  | _ => !un
/-- An index search takes code a before code b, whatever their lanes (R91): all NaNs share one rank, the highest of a maximum and the
lowest of a minimum. -/
def outranks (t : Num.Fmt) (max : Bool) (a b : Nat) : Bool :=
  if nanCode t a then !nanCode t b else if nanCode t b then false else if max then below t b a else below t a b
/-- The operations of `redux` and the scans (R174). -/
def reductionOp (op : Nat) (a b : Word) : Word × Flags :=
  match op with
  | 0 => (a + b, fNone)
  | 1 => (if b.toInt < a.toInt then b else a, fNone)
  | 2 => (if b.toNat < a.toNat then b else a, fNone)
  | 3 => (if a.toInt < b.toInt then b else a, fNone)
  | 4 => (if a.toNat < b.toNat then b else a, fNone)
  | 5 => (a &&& b, fNone)
  | 6 => (a ||| b, fNone)
  | 7 => (a ^^^ b, fNone)
  | 8 => faddW a b
  | 9 => fminmaxW false false a b
  | _ => fminmaxW true false a b
/-- The identities of the reductions (R93). -/
def reductionId (op : Nat) : Word :=
  [0, 0x7FFFFFFF, 0xFFFFFFFF, 0x80000000, 0, 0xFFFFFFFF, 0, 0, 0x80000000, 0x7F800000, 0xFF800000].getD op 0
/-- Element i of the tree of R92 after k levels: each level combines neighbours. -/
def treeAt (f : Word → Word → Word × Flags) (leaf : Nat → Word) : Nat → Nat → Word
  | 0, i => leaf i
  | k + 1, i => (f (treeAt f leaf k (2 * i)) (treeAt f leaf k (2 * i + 1))).1

/-! ### The split path by its codes -/

/-- Magnitudes of body codes in halves (R71, R72). -/
def halves (f4 : Bool) (m : Nat) : Nat := if f4 then [0, 1, 2, 3, 4, 6, 8, 12].getD m 0 else [0, 2, 4, 8].getD m 0
/-- Values of SE35 codes in units of 2^-7 (R73). -/
def scaleUnits (c : Nat) : Nat := if c < 32 then c else (32 + c % 32) * 2 ^ (c / 32 - 1)
/-- The largest body magnitude (R72). -/
def bodyTop (f4 : Bool) : Nat := if f4 then 6 else 4
/-- x is element (r, c) of a tile (R107 to R111): its body value, in units of 2^-157 the product of the code in its planes, the scale of
its block and β, plus the values of the records of its patch that name it. Terms that are not finite decide it; records of both infinities
make a quiet NaN (DESIGN CHOICE, log entry 72). -/
def IsElement (h : Num.TileHead) (b : Array Byte) (recs : List Word) (r c : Nat) (x : Num.EVal) : Prop :=
  let n := if h.f4 then 4 else 3
  let bit (p : Nat) : Nat := (b.getD (832 + 512 * p + 8 * r + c / 8) 0).toNat / 2 ^ (c % 8) % 2
  let mag := ((List.range (n - 1)).map fun p => bit p * 2 ^ p).sum
  let units := halves h.f4 mag * scaleUnits (b.getD (64 + 8 * r + c / 8) 0).toNat * magnitude .bf16 h.beta
  let body : Int := if bit (n - 1) = 1 then -(units : Int) else units
  let patch := r / 16 * 4 + c / 16
  let here := ((recs.drop (h.nout.take patch).sum).take (h.nout.getD patch 0)).filter fun w =>
    w.toNat / 2 ^ 20 % 16 == r % 16 && w.toNat / 2 ^ 16 % 16 == c % 16
  let codes := here.map fun w => w.toNat % 2 ^ 16
  let inf (neg : Bool) : Bool := codes.any fun k => infCode .bf16 k && negCode .bf16 k == neg
  if codes.any (nanCode .bf16) = true ∨ inf false = true ∧ inf true = true then x = .nan (codes.any (sigCode .bf16))
  else if inf false = true then x = .inf false
  else if inf true = true then x = .inf true
  else ∃ v, x = .fin v ∧
    let y := body + (codes.map fun k => valueOf .bf16 k * 2 ^ 8).sum
    v.m * 2 ^ (v.e + 157).toNat = y * 2 ^ (-(v.e + 157)).toNat
/-- An element value rounded to BF16 (R192). -/
def IsNarrowed (x : Num.EVal) (r : Nat × Flags) : Prop :=
  match x with
  | .nan s => r = nanResult .bf16 s
  | .inf n => r = infResult .bf16 n
  | .fin v => Rounded .bf16 .rne (decide (v.m < 0)) (v.m.natAbs * 2 ^ (v.e + 149).toNat) (2 ^ (-(v.e + 149)).toNat) r
/-- Kinds of element values. -/
def isNan : Num.EVal → Bool
  | .nan _ => true
  | _ => false
def isSig : Num.EVal → Bool
  | .nan s => s
  | _ => false
def isInf : Num.EVal → Bool
  | .inf _ => true
  | _ => false
def isZero : Num.EVal → Bool
  | .fin v => v.m == 0
  | _ => false
def isNeg : Num.EVal → Bool
  | .fin v => decide (v.m < 0)
  | .inf n => n
  | .nan _ => false
/-- A finite element value in units of 2^-u. -/
def inUnits (u : Nat) : Num.EVal → Int
  | .fin v => v.m * 2 ^ (v.e + u).toNat
  | _ => 0
/-- r is an accumulator element after a step over two rows, whose finite values are multiples of 2^-u (R118 to R120): the exact sum of
their products is rounded once, added to the element, and rounded again; of the flags INV and OVF count. -/
def IsStep (u acc : Nat) (a b : List Num.EVal) (r : Nat × Flags) : Prop :=
  let ps := a.zip b
  let bad := ps.any fun p => isZero p.1 && isInf p.2 || isInf p.1 && isZero p.2
  let nan := ps.any fun p => isNan p.1 || isNan p.2
  let sig := ps.any fun p => isSig p.1 || isSig p.2
  let inf (neg : Bool) : Bool := ps.any fun p => (isInf p.1 || isInf p.2) && !isNan p.1 && !isNan p.2 && !isZero p.1 && !isZero p.2 &&
    (isNeg p.1 != isNeg p.2) == neg
  let both := inf false && inf true
  let sum := (ps.map fun p => inUnits u p.1 * inUnits u p.2).sum
  ∃ t y, (if nan || bad || both then t = nanResult .f32 (sig || bad || both)
      else if inf false then t = infResult .f32 false
      else if inf true then t = infResult .f32 true
      else if sum = 0 then t = (0, fNone)
      else Rounded .f32 .rne (decide (sum < 0)) (sum.natAbs * 2 ^ 149) (2 ^ (2 * u)) t) ∧
    IsSum .f32 acc t.1 y ∧ r = (y.1, (t.2 ||| y.2) &&& (Num.fINV ||| Num.fOVF))

/-- A candidate for the outlier lists (R114). -/
def candidate (p : Num.EncPar) (c : Nat) : Prop :=
  finiteCode .bf16 c = false ∨ finiteCode .bf16 p.tau = true ∧ magnitude .bf16 p.tau < magnitude .bf16 c
/-- The patch of an element by its index in the tile (R107). -/
def patchOf (e : Nat) : Nat := e / 64 / 16 * 4 + e % 64 / 16
/-- L is the candidates of a patch in the order in which they become outliers (R114). -/
structure RankedList (p : Num.EncPar) (x : Nat → Nat) (patch : Nat) (L : List Nat) : Prop where
  once : L.Nodup
  all : ∀ e, e ∈ L ↔ e < 4096 ∧ patchOf e = patch ∧ candidate p (x e)
  order : L.Pairwise fun e f =>
    if finiteCode .bf16 (x e) = true then finiteCode .bf16 (x f) = true ∧
      (magnitude .bf16 (x f) < magnitude .bf16 (x e) ∨ magnitude .bf16 (x e) = magnitude .bf16 (x f) ∧ e < f)
    else finiteCode .bf16 (x f) = true ∨ e < f
/-- beta is the band scale of a tile (R114). -/
def IsBeta (p : Num.EncPar) (x : Nat → Nat) (beta : Nat) : Prop :=
  let mag (e : Nat) := magnitude .bf16 (x e)
  let plain (e : Nat) : Prop := e < 4096 ∧ ¬ candidate p (x e)
  beta < 0x7F80 ∧ ((∀ e, plain e → mag e = 0) → beta = 0x3F80) ∧
  ∀ e, plain e → mag e ≠ 0 → ∃ i, 16 ≤ i ∧ magnitude .bf16 beta = 2 ^ i ∧
    (∀ f, plain f → mag f ≤ 2 ^ i * bodyTop p.f4 * 16) ∧ (16 < i → ∃ f, plain f ∧ 2 ^ (i - 1) * bodyTop p.f4 * 16 < mag f)
/-- Block k, whose elements are 8k to 8k + 7, is quantised beside some outliers with a scale, codes and an underflow count
(quantise_block of R114, with R77). -/
structure Quantised (p : Num.EncPar) (x : Nat → Nat) (beta : Nat) (outs : List Nat) (k scale : Nat) (code : Nat → Nat) (under : Nat) :
    Prop where
  empty : (∀ j < 8, 8 * k + j ∉ outs → ¬ candidate p (x (8 * k + j)) → magnitude .bf16 (x (8 * k + j)) = 0) → scale = 0
  least : ∀ j < 8, 8 * k + j ∉ outs → ¬ candidate p (x (8 * k + j)) → magnitude .bf16 (x (8 * k + j)) ≠ 0 →
    scale < 256 ∧ (∀ i < 8, 8 * k + i ∉ outs → ¬ candidate p (x (8 * k + i)) →
      magnitude .bf16 (x (8 * k + i)) * 2 ^ 7 ≤ scaleUnits scale * magnitude .bf16 beta * bodyTop p.f4) ∧
    ∀ c < scale, ∃ i < 8, 8 * k + i ∉ outs ∧ ¬ candidate p (x (8 * k + i)) ∧
      scaleUnits c * magnitude .bf16 beta * bodyTop p.f4 < magnitude .bf16 (x (8 * k + i)) * 2 ^ 7
  nearest : ∀ j < 8,
    let e := 8 * k + j
    let top := if p.f4 then 8 else 4
    let signed (m : Nat) : Nat := if m = 0 then 0 else if negCode .bf16 (x e) then m + top else m
    let off (m : Nat) : Nat := ((halves p.f4 m * scaleUnits scale * magnitude .bf16 beta : Int) - magnitude .bf16 (x e) * 2 ^ 8).natAbs
    (e ∈ outs ∨ scale = 0 ∨ nanCode .bf16 (x e) = true → code e = 0) ∧
    (e ∉ outs → scale ≠ 0 → infCode .bf16 (x e) = true → code e = signed (top - 1)) ∧
    (e ∉ outs → scale ≠ 0 → finiteCode .bf16 (x e) = true → ∃ m < top, code e = signed m ∧
      ∀ c < top, off m ≤ off c ∧ (off m = off c → c ≠ m → m % 2 = 0))
  lost : under = ((List.range 8).filter fun j => !outs.contains (8 * k + j) && finiteCode .bf16 (x (8 * k + j)) &&
    magnitude .bf16 (x (8 * k + j)) != 0 && code (8 * k + j) == 0).length
/-- The blocks of a patch, in order (R107). -/
def blocksOf (patch : Nat) : List Nat := (List.range 32).map fun i => (patch / 4 * 16 + i / 2) * 8 + patch % 4 * 2 + i % 2
/-- The outliers of a patch: of its candidates as many as its lists hold, then, with ADAPT, the largest element of each block whose count of
underflows was too high, while there is room (R114, R116). -/
def IsOutliers (p : Num.EncPar) (x : Nat → Nat) (under : Nat → Nat) (patch : Nat) (L : List Nat) (outs : List (Nat × Bool)) : Prop :=
  let first := L.take p.cap
  let full := ((blocksOf patch).filter fun k => p.adapt && decide (p.ulim < under k)).take (p.cap - first.length)
  ∃ more : List Nat, outs = first.map (fun e => (e, false)) ++ more.map (fun e => (e, true)) ∧ more.length = full.length ∧
    ∀ i < full.length, let e := more.getD i 0
      e / 8 = full.getD i 0 ∧ e ∉ first ∧ ∀ f, f / 8 = e / 8 → f ∉ first → f ≠ e →
        magnitude .bf16 (x f) < magnitude .bf16 (x e) ∨ magnitude .bf16 (x f) = magnitude .bf16 (x e) ∧ e < f
/-- A record of an outlier (R111). -/
def recordOf (x : Nat → Nat) (o : Nat × Bool) : Nat :=
  (if nanCode .bf16 (x o.1) then 0x7FC0 else x o.1) + o.1 % 16 * 2 ^ 16 + o.1 / 64 % 16 * 2 ^ 20 + (if o.2 then 2 ^ 24 else 0) +
    (if finiteCode .bf16 (x o.1) then 0 else 2 ^ 25)
/-- out is the tile that the encoder makes of 4,096 codes, with its flags and its overflow (R109 to R111, R113 to R116). -/
def IsEncoded (p : Num.EncPar) (x : Nat → Nat) (out : Num.EncOut) : Prop :=
  let n := if p.f4 then 4 else 3
  let byte (i : Nat) : Nat := (out.bytes.getD i 0).toNat
  let number (i k : Nat) : Nat := ((List.range k).map fun j => byte (i + j) * 256 ^ j).sum
  let field (lo k : Nat) : Nat := number 0 64 / 2 ^ lo % 2 ^ k
  ∃ (beta : Nat) (L : Nat → List Nat) (under : Nat → Nat) (outs : Nat → List (Nat × Bool)) (scale : Nat → Nat) (code : Nat → Nat) (low : Nat → Nat),
    IsBeta p x beta ∧ (∀ t < 16, RankedList p x t (L t)) ∧
    (∀ t < 16, ∀ k ∈ blocksOf t, ∃ s c, Quantised p x beta ((L t).take p.cap) k s c (under k)) ∧
    (∀ t < 16, IsOutliers p x under t (L t) (outs t)) ∧
    (∀ t < 16, ∀ k ∈ blocksOf t, Quantised p x beta ((outs t).map Prod.fst) k (scale k) code (low k)) ∧
    let excess (t : Nat) : Nat := (L t).length - (p.cap + p.spill)
    let spilled := (List.range 16).filter fun t => decide (0 < excess t)
    let clamped := (List.range 16).any fun t => decide (p.cap < (L t).length)
    let recs := (List.range 16).flatMap fun t => (outs t).map (recordOf x)
    out.bytes.length = 832 + 512 * n + 64 * p.cap ∧
    (field 0 16 = 0x5A53 ∧ field 16 4 = (if p.f4 then 1 else 0) ∧ field 20 4 = 0 ∧ field 24 5 = p.cap ∧ field 29 3 = 0) ∧
    (field 32 2 = p.spill ∧ field 34 4 = p.ulim ∧ field 38 1 = (if p.adapt then 1 else 0) ∧ field 39 1 = 0 ∧ field 40 16 = p.tensor) ∧
    (field 56 16 = beta ∧ field 72 16 = p.tau ∧ field 88 1 = (if clamped then 1 else 0) ∧ field 89 1 = (if spilled = [] then 0 else 1)) ∧
    (field 90 1 = (if (List.range 16).any fun t => (outs t).any Prod.snd then 1 else 0) ∧ field 91 5 = 0 ∧ field 96 8 = spilled.headD 0xFF ∧
      field 104 9 = (match spilled with
        | [] => 0
        | t :: _ => excess t) ∧ field 113 7 = 0 ∧ field 120 16 = ((List.range 16).map excess).sum ∧ field 136 120 = 0) ∧
    (∀ t < 16, field (256 + 8 * t) 8 = (outs t).length) ∧ field 384 128 = 0 ∧
    (∀ k < 512, byte (64 + k) = scale k ∧ byte (576 + k / 2) / 16 ^ (k % 2) % 16 = low k) ∧
    (∀ q < n, ∀ e < 4096, byte (832 + 512 * q + e / 8) / 2 ^ (e % 8) % 2 = code e / 2 ^ q % 2) ∧
    (∀ i < recs.length, number (832 + 512 * n + 4 * i) 4 = recs.getD i 0) ∧
    (∀ i, 832 + 512 * n + 4 * recs.length ≤ i → byte i = 0) ∧
    out.flags = (if clamped then Num.fSAT else fNone) ||| (if spilled = [] then fNone else Num.fOOV) ∧
    out.ovf = match spilled with
      | [] => none
      | t :: _ => some (t, excess t)
/-- Parameters that the encoder takes (R113). -/
structure EncoderFits (p : Num.EncPar) : Prop where
  cap : p.cap ∈ [0, 1, 2, 4, 8, 16]
  small : p.spill < 4 ∧ p.ulim ≤ 8 ∧ p.tau < 2 ^ 16 ∧ p.tensor < 2 ^ 16

/-- An FB128 value is finite (R75). -/
def fbFinite (x : BitVec 128) : Bool := x.toNat / 2 ^ 96 != 0x7FFFFFFF && x.toNat / 2 ^ 96 != 0x80000000
/-- The three codes of FB128 that are produced (R75). -/
def fbNanCode : BitVec 128 := 0x80000000000000000000000000000000
def fbInfCode (neg : Bool) : BitVec 128 := if neg then 0x80000000000000000000000000000002 else 0x80000000000000000000000000000001
/-- An FB128 value is a NaN (R75). -/
def fbNan (x : BitVec 128) : Bool := !fbFinite x && x != fbInfCode false && x != fbInfCode true
/-- The finite range of FB128 (R75). -/
def fbHolds (v : Int) : Prop := -(2 ^ 127 - 2 ^ 96) ≤ v ∧ v ≤ 2 ^ 127 - 2 ^ 96 - 1
/-- One term of a binned sum under a block exponent (R97). -/
def IsBinned (x : Nat) (e : Int) (r : BitVec 128 × Flags) : Prop :=
  let t := Num.Fmt.f32
  if e < -126 ∨ 127 < e then r = (fbNanCode, Num.fINV)
  else if nanCode t x then r = (fbNanCode, if sigCode t x then Num.fINV else fNone)
  else if infCode t x then r = (fbInfCode (negCode t x), fNone)
  else
    let n := magnitude t x * 2 ^ (-61 - e).toNat
    let d := 2 ^ (61 + e).toNat
    ∃ y, RoundedInt .rne (negCode t x) n d y ∧
      let v : Int := if negCode t x then -(y : Int) else y
      (fbHolds v → r = (BitVec.ofInt 128 v, if y * d = n then fNone else Num.fINX)) ∧
      (¬ fbHolds v → r = (fbInfCode (negCode t x), Num.fBOVF))
/-- The sum of two FB128 values (R98). -/
def IsBinnedSum (a b : BitVec 128) (r : BitVec 128 × Flags) : Prop :=
  let v := a.toInt + b.toInt
  if fbNan a || fbNan b then r = (fbNanCode, fNone)
  else if fbFinite a && fbFinite b then
    (fbHolds v → r = (BitVec.ofInt 128 v, fNone)) ∧ (¬ fbHolds v → r = (fbInfCode (decide (v < 0)), Num.fBOVF))
  else if fbFinite a then r = (b, fNone)
  else if fbFinite b then r = (a, fNone)
  else r = if a = b then (a, fNone) else (fbNanCode, Num.fINV)
/-- The end of a binned sum (R99). An E outside -126 to 127 comes before the infinity codes (DESIGN CHOICE, log entry 97). -/
def IsBinnedEnd (a : BitVec 128) (e : Int) (r : Nat × Flags) : Prop :=
  let t := Num.Fmt.f32
  if e < -126 ∨ 127 < e then r = nanResult t true
  else if fbNan a then r = nanResult t false
  else if fbFinite a then
    Rounded t .rne (decide (a.toInt < 0)) (a.toInt.natAbs * 2 ^ (61 + e).toNat) (2 ^ (-61 - e).toNat) r
  else r = infResult t (a == fbInfCode true)

/-- The class of an F32 code (R155). -/
def classBit (c : Nat) : Nat :=
  let neg := negCode .f32 c
  if nanCode .f32 c then (if sigCode .f32 c then 8 else 9)
  else if infCode .f32 c then (if neg then 0 else 7)
  else if magnitude .f32 c = 0 then (if neg then 3 else 4)
  else if magnitude .f32 c < 2 ^ 23 then (if neg then 2 else 5)
  else if neg then 1 else 6
/-- r is exp2_arch of an F32 code (R95): in units of 2^-149, its integral part is n, and f = x - n goes through the three fused steps,
each rounded to F32; 2^n then scales their result, rounded once. -/
def IsExp2 (c : Nat) (r : Nat × Flags) : Prop :=
  let t := Num.Fmt.f32
  let one : Nat := 2 ^ 149
  let x := valueOf t c
  let n := x / (one : Int)
  let f := (x - n * (one : Int)).toNat
  let step (a : Nat) (b : Nat) (y : Nat) : Prop := ∃ fl, Rounded t .rne false (magnitude t a * f + magnitude t b * one) one (y, fl)
  if nanCode t c then r = nanResult t (sigCode t c)
  else if infCode t c = true ∧ negCode t c = true then r = (0, fNone)
  else if infCode t c = true ∨ 128 * (one : Int) ≤ x then r = (t.inf, Num.fOVF ||| Num.fINX)
  else if x < -150 * (one : Int) then r = (0, Num.fUNF ||| Num.fINX)
  else ∃ a b p fl, step 0x3DA2B18D 0x3E65E1D7 a ∧ step a 0x3F32314C b ∧ step b 0x3F800000 p ∧
    Rounded t .rne false (magnitude t p * 2 ^ n.toNat) (2 ^ (-n).toNat) (r.1, fl) ∧
    r.2 = if fl &&& (Num.fOVF ||| Num.fUNF) = fNone then fNone else (fl &&& (Num.fOVF ||| Num.fUNF)) ||| Num.fINX

/-! ### What a store leaves -/

/-- The state in which a store takes effect: after its release, if it makes one (R210). -/
def releasedFor (pl : Place) (scope : Option Nat) (s : State) : State :=
  match scope with
  | some c => releaseAt pl c s
  | none => s
/-- A byte of memory, or of the windows of other devices. -/
def anyByte (s : State) (peer : Bool) (b : Nat) : Byte := if peer then memByte s.peerMem b else memByte s.mem b
/-- Bytes that a store of n bytes changes as it issues: those of a slot of a sequence (R232), and those of an ordered range once its team
writes through (R240). -/
def StoresAtOnce (v : State) (pl : Place) (a : Agent) (n : Nat) (h : LaneHit) (peer : Bool) (b : Nat) : Prop :=
  (stagingTeam v a pl.ctx h.addr = none ∧ (seqAt v pl.part h.addr).isSome = true ∧ peer = false ∧
    ∃ w pa pg z wr, h.hit = .phys w pa pg z wr ∧ pa ≤ b ∧ b < pa + n) ∨
  ((stagingTeam v a pl.ctx h.addr).isSome = true ∧ (∃ x, agentTeam v a = some x ∧ x.2.through = true) ∧
    ∃ pa, locate v pl.part h.addr = some (peer, pa) ∧ pa ≤ b ∧ b < pa + n)
/-- What stores leave over the state v in which they take effect (R209, R232, R237): the queue accepts, in order, those outside ordered
ranges and slots; the team's staged stores grow by those of ordered ranges; slots hold their bytes; every other byte is as in v. -/
structure Stored (v t : State) (pl : Place) (a : Agent) (gid n : Nat) (hs : List LaneHit) (data : Nat → List Byte) : Prop where
  queue : t.stores.map (fun q => (q.peer, q.addr, q.data)) = v.stores.map (fun q => (q.peer, q.addr, q.data)) ++
    hs.filterMap fun h => if (stagingTeam v a pl.ctx h.addr).isSome then none else match h.hit with
      | .phys _ pa _ _ _ => if (seqAt v pl.part h.addr).isSome then none else some (false, pa, data h.lane)
      | .peer pa => some (true, pa, data h.lane)
      | _ => none
  staged : ((agentTeam v a).bind fun x => Cells.get? x.1 t.teams).map Team.staged = (agentTeam v a).map fun x => x.2.staged ++
    ((wholeLanes n hs).filter fun h => (stagingTeam v a pl.ctx h.1.addr).isSome).map fun h =>
      ⟨gid, h.1.addr, data h.1.lane, none, n, h.2⟩
  kept : ∀ peer b, (∀ h ∈ hs, ¬ StoresAtOnce v pl a n h peer b) → anyByte t peer b = anyByte v peer b
  slots : ∀ h ∈ hs, stagingTeam v a pl.ctx h.addr = none → (seqAt v pl.part h.addr).isSome = true →
    ∀ w pa pg z wr, h.hit = .phys w pa pg z wr → ∀ i < n, (∀ k ∈ hs, k ≠ h → ¬ StoresAtOnce v pl a n k false (pa + i)) →
      memByte t.mem (pa + i) = (data h.lane).getD i 0
/-- No store has been accepted or performed, and no byte of an allocated frame has changed. -/
def SameStores (s v : State) : Prop := v.stores = s.stores ∧ ∀ a, InFrame s a → memByte v.mem a = memByte s.mem a

/-! ### Causes that instructions raise -/

/-- One check of an instruction: when it fails, the cause it raises, and the state in which it does. -/
abbrev Check := Prop × Trap × State
/-- The checks of an instruction in order, with the registers that it waits for before them and the lanes it counts. -/
structure CauseForm where
  lanes : List Nat
  srcs : List Nat
  unis : List (BitVec 5)
  udsts : List (BitVec 5)
  count : Nat
  checks : List Check
/-- Registers of a form can be used at once (R25, R137, R166, R372). -/
structure CauseReady (F : CauseForm) (p : Part) (g : Group) : Prop where
  srcs : ∀ n ∈ F.srcs, ∀ l ∈ F.lanes, (laneWord g p.wb n l).full = true ∧ (laneWord g p.wb n l).poison = false
  unis : ∀ r ∈ F.unis, (sregOf p.thr r.toNat).full = true ∧ (sregOf p.thr r.toNat).poison = false
  udsts : ∀ r ∈ F.udsts, (sregOf p.thr r.toNat).full = true
/-- The checks of a form that waits for uniform registers only. -/
def causes (unis udsts : List (BitVec 5)) (checks : List Check) : Option CauseForm :=
  some { lanes := [], srcs := [], unis := unis, udsts := udsts, count := 0, checks := checks }
/-- The target of a jump (R314). -/
def targetChecks (s : State) (x : DWord) : List Check :=
  [(x.toNat % 2 = 1, Trap.at 0x06 0x00 x.toNat, s), (2 ^ 56 ≤ x.toNat, Trap.at 0x08 0x01 x.toNat, s)]
/-- The window of a call that spills (R315). -/
def windowChecks (s : State) (p : Part) (g : Group) (slide : Nat) : List Check :=
  let out := spillList g.vregs ((p.wb + slide) % g.vregs) (⟨past s p.thr, slide⟩ :: p.wstack)
  [(out ≠ [] ∧ p.wsp = 0, Trap.plain 0x12 0x01, s), (out ≠ [] ∧ 2 ^ 32 ≤ p.spc + out.length, Trap.plain 0x12 0x03, s)]
/-- A `dload` (R55, R388): its range word, its address, its range, its reads, then the lowest entry that is neither undefined nor valid. -/
def imageChecks (s : State) (k : Launch) (addr : Nat) (rng : DWord) : List Check :=
  let first := rng.toNat % 2 ^ 7
  let count := rng.toNat / 2 ^ 8 % 2 ^ 8
  [(2 ^ 16 ≤ rng.toNat ∨ rng.getLsbD 7 = true, Trap.at 0x03 0xFF addr, s), (addr % 8 ≠ 0, Trap.at 0x06 0x00 addr, s),
   (count = 0 ∨ 128 < first + count, Trap.at 0x03 0xFF addr, s)] ++
  match readWords s.agent (placeOf s s.agent) true ((List.range count).map fun i => addr + 8 * i) s with
  | (_, _, some t) => [(True, t, s)]
  | (es, _, none) => es.mapIdx fun i e =>
      (e.getLsbD 63 = true ∧ entryValid k e = false, Trap.at 0x03 (BitVec.ofNat 8 (first + i)) addr, s)
/-- The executing group holds the box of a handle, and it is as said. -/
def heldWith (s : State) (p : Part) (g : Group) (h : DWord) (f : Nat → Box → Prop) : Prop :=
  ∃ uid b, heldBox s p.gid g h = some (uid, b) ∧ f uid b
/-- Box management of a box that the group must hold (R256). -/
def boxChecks (s : State) (p : Part) (g : Group) (h : DWord) (more : List ((Nat → Box → Prop) × BitVec 8)) : List Check :=
  (heldBox s p.gid g h = none, Trap.plain 0x09 0x01, s) :: more.map fun c => (heldWith s p g h c.1, Trap.plain 0x09 c.2, s)
/-- The quad of a cluster that a rank names (R260). -/
def quadRank (s : State) (g : Group) (k : Nat) : Option Nat :=
  (partUnit s g).bind fun x => (ctxOf? s x.2.2.ctx).bind fun c => (rectQuads c.lr.shape x.2.2.die x.2.2.qx x.2.2.qy)[k]?
/-- The box operand of a command: held, its range inside it, and not lent where the command writes it (R190 to R192, R256, R264). -/
def operandChecks (s : State) (p : Part) (g : Group) (d : DWord) (leaves : Box → Prop) (wr : Bool) : List Check :=
  let tr (c : BitVec 8) : Trap := { Trap.box 0x09 c (descOff d) with wr := wr }
  [(heldBox s p.gid g (descHandle d) = none, tr 0x01, s), (heldWith s p g (descHandle d) fun _ b => leaves b, tr 0x02, s),
   (wr = true ∧ heldWith s p g (descHandle d) fun _ b => b.lends ≠ [], tr 0x03, s)]
/-- Reserved bits and values out of range (R262). -/
def valueCheck (s : State) (ok : Prop) : Check := (¬ ok, Trap.plain 0x13 0x06, s)
/-- The chit of a command, tested last (R262; DESIGN CHOICE, log entry 86). -/
def chitCheck (s : State) (g : Group) (f : Bool) (c : BitVec 6) : Check := (¬ chitFits s g f c, Trap.plain 0x13 0x07, s)
/-- `xsend` and `xrecv` (R267). -/
def transferChecks (s : State) (p : Part) (g : Group) (o : OpX2) : Option CauseForm :=
  let a := sVal p.thr o.sa
  let w := sVal p.thr o.sb
  let n := w.toNat / 2 ^ 16 % 2 ^ 32
  causes [o.sa, o.sb] [] ([valueCheck s (w.toNat < 2 ^ 48 ∧ 0 < n ∧ n % 128 = 0 ∧ (w.getLsbD 15 = true → descOk a = true)),
    (ofDomain (w.setWidth 9) = false, Trap.plain 0x13 0x0B, s)] ++
    (if w.getLsbD 15 = true then operandChecks s p g a (fun b => b.bytes < descOff a + n) false else []) ++ [chitCheck s g o.f o.chit])
/-- An encoding or decoding of n bytes at the box descriptor c into m bytes at d (R191, R192). -/
def tileChecks (s : State) (p : Part) (g : Group) (c d : DWord) (ok : Prop) (n m : Nat) : List Check :=
  [(descOff c % 128 ≠ 0, Trap.box 0x06 0x00 (descOff c), s), (descOff d % 128 ≠ 0, { Trap.box 0x06 0x00 (descOff d) with wr := true }, s),
   valueCheck s (descOk c = true ∧ descOk d = true ∧ ok)] ++ operandChecks s p g c (fun b => b.bytes < descOff c + n) false ++
  operandChecks s p g d (fun b => b.bytes < descOff d + m) true ++
  [(descHandle c = descHandle d ∧ descOff c < descOff d + m ∧ descOff d < descOff c + n,
    { Trap.box 0x09 0x04 (descOff d) with wr := true }, s)]
/-- A field of three bits of a copy descriptor's CTRL. -/
def copyField (d : CpyDesc) (lo : Nat) : Nat := d.ctrl.toNat / 2 ^ lo % 8
/-- A copy descriptor that R263 and R264 admit. With CVT = 0 its format fields are not read (DESIGN CHOICE, log entry 86). -/
structure CopyLegal (d : CpyDesc) (n : Nat) : Prop where
  reserved : d.ctrl.toNat / 2 ^ 22 % 4 = 0 ∧ d.ctrl.toNat / 2 ^ 48 = 0
  size : copyField d 5 ≤ 4
  formats : d.ctrl.getLsbD 8 = true →
    copyField d 5 = 0 ∧ copyField d 9 ≠ 7 ∧ copyField d 12 ≠ 7 ∧ copyField d 9 ≠ copyField d 12 ∧ copyField d 15 ≤ 4
  used : ∀ k < n, d.count.getD k 0 ≠ 0
  unused : ∀ k < 8, n ≤ k → d.count.getD k 0 = 0 ∧ d.valid.getD k 0 = 0 ∧ d.sstride.getD k 0 = 0 ∧
    (d.ctrl.getLsbD 19 = false → d.dstride.getD k 0 = 0)
  order : (∀ k < n, ∃ j < n, copyField d (24 + 3 * j) = k) ∧ ∀ j < 8, n ≤ j → copyField d (24 + 3 * j) = 0
  boxes : (d.ctrl.getLsbD 0 = true → descOk d.src = true) ∧ (d.ctrl.getLsbD 1 = true → descOk d.dst = true)
  param : if d.ctrl.getLsbD 19 = true then (encParam d.param).isSome = true else d.param = 0
/-- Some element of a strided range of n dimensions leaves the bytes of a box (R264). -/
def copyLeaves (n bytes start z : Nat) (count : List Nat) (stride : List Int) : Prop :=
  ∃ i : Nat → Nat, (∀ k < n, i k < count.getD k 0) ∧
    let a : Int := start + ((List.range n).map fun k => (i k : Int) * stride.getD k 0).sum
    a < 0 ∨ (bytes : Int) < a + z
/-- A `cpy` with the descriptor d, read at the address at_ (R263, R264). -/
def copyChecks (s : State) (p : Part) (g : Group) (at_ : Nat) (d : CpyDesc) : List Check :=
  let n := copyField d 2 + 1
  let z := cpySizes d
  let enc := d.ctrl.getLsbD 19
  let sbox := d.ctrl.getLsbD 0
  let dbox := d.ctrl.getLsbD 1
  let start (box : Bool) (v : DWord) : Nat := if box then descOff v else v.toNat
  let align (box : Bool) (v : DWord) : Trap := if box then Trap.box 0x06 0x00 (descOff v) else Trap.at 0x06 0x00 v.toNat
  let uneven (z : Nat) (x : List Int) : Prop := ∃ k < n, x.getD k 0 % (z : Int) ≠ 0
  [(¬ CopyLegal d n, Trap.at 0x13 0x06 at_, s),
   (start sbox d.src % z.1 ≠ 0 ∨ uneven z.1 d.sstride, align sbox d.src, s),
   (start dbox d.dst % z.2 ≠ 0 ∨ enc = false ∧ uneven z.2 d.dstride, { align dbox d.dst with wr := true }, s)] ++
  (if sbox then operandChecks s p g d.src (fun b => copyLeaves n b.bytes (descOff d.src) z.1
    ((List.range 8).map fun k => min (d.valid.getD k 0) (d.count.getD k 0)) d.sstride) false else []) ++
  (if dbox then operandChecks s p g d.dst (fun b => enc = false ∧ copyLeaves n b.bytes (descOff d.dst) z.2 d.count d.dstride) true else []) ++
  [(enc = true ∧ ¬ (n = 2 ∧ d.count.getD 0 0 = 64 ∧ d.count.getD 1 0 = 64 ∧ z.2 = 2 ∧ (d.ctrl.getLsbD 8 = true → copyField d 12 = 1) ∧
      dbox = true ∧ ∃ e, encParam d.param = some e ∧
        heldWith s p g (descHandle d.dst) fun _ b => descOff d.dst + Num.tileBytes e.f4 e.cap ≤ b.bytes), Trap.at 0x13 0x06 at_, s)]
/-- A configuration that `sqmint` and `sqfork` accept (R270). -/
structure LegalConfig (t : Partition) (cfg : DWord) (cap win wmax : Nat) : Prop where
  sizes : 4 ≤ cfgEsz cfg ∧ cfgEsz cfg ≤ 16 ∧ 2 ≤ cfgG cfg ∧ cfgG cfg ≤ 16 ∧ 12 ≤ cfgEsz cfg + cfgG cfg
  reserved : cfg.toNat / 2 ^ 11 % 2 ^ 5 = 0 ∧ cfg.toNat < 2 ^ 32
  columns : if cfgSummary cfg = true then 1 ≤ cfgCols cfg ∧ cfgCols cfg ≤ 32768 ∧ 2 * cfgCols cfg ≤ 2 ^ cfgEsz cfg else cfgCols cfg = 0
  lengths : cap % 2 ^ cfgG cfg = 0 ∧ cap ≤ wmax ∧ wmax % 2 ^ cfgG cfg = 0
  window : win < 2 ^ 56 ∧ win % 2 ^ (cfgEsz cfg + cfgG cfg) = 0 ∧ seqCovered t win (wmax * 2 ^ cfgEsz cfg) = true
/-- The handle of a sequence instruction (R278): a sequence that was dropped while the instruction waited, one that is not live, and a
descriptor that was changed from outside, once. -/
def handleChecks (s : State) (pid h : Nat) (waits : Bool) : List Check :=
  let pt := (placeOf s s.agent).part
  [(waits = true ∧ ⟨pid, h⟩ ∈ s.dropped, Trap.at 0x0B 0x06 h, { s with dropped := s.dropped.filter fun d => d.pid != pid }),
   (liveSq s pt h = none, Trap.at 0x0B 0x01 h, s),
   (∃ q, liveSq s pt h = some q ∧ q.tampered = true, Trap.at 0x0B 0x01 h, setSq pt h (fun q => { q with tampered := false }) s)]
/-- A live sequence is as said. -/
def liveWith (s : State) (h : Nat) (f : Sq → Prop) : Prop := ∃ q, liveSq s (placeOf s s.agent).part h = some q ∧ f q
/-- Forms whose checks a group's instruction makes, in order (R55, R190 to R192, R256 to R260, R264 to R268, R270 to R278, R315, R317,
R386, R388). -/
def causeForm (s : State) (pid : Nat) (p : Part) (g : Group) : Instr → Option CauseForm
  | .callr o => causes [o.sa] [] (targetChecks s (sVal p.thr o.sa) ++ windowChecks s p g (o.frame.toNat * 8))
  | .call o => causes [] [] (windowChecks s p g (o.frame.toNat * 8))
  | .ret => causes [] [] [(p.wstack = [] ∧ p.spc = 0, Trap.plain 0x12 0x02, s)]
  | .tfence => causes [] []
      [(s.cmds.any (mergesFlags s.agent) = false ∧ g.afl &&& g.aen ≠ 0, Trap.plain 0x0C (g.afl &&& g.aen), s)]
  | .dload o => match ctxOf? s (placeOf s s.agent).ctx with
    | none => none
    | some c => causes [o.sa, o.sb] [] (imageChecks s c.lr (sVal p.thr o.sa).toNat (sVal p.thr o.sb))
  | .bxnew o =>
    let z := (sVal p.thr o.sa).toNat
    causes [o.sa] [o.sd] [(¬ (0 < z ∧ z ≤ 1048576 ∧ z % 4096 = 0), Trap.plain 0x09 0x05, s)]
  | .bxfree o => causes [o.sa] [] (boxChecks s p g (sVal p.thr o.sa) [])
  | .bxrecall o => causes [o.sa] [] (boxChecks s p g (sVal p.thr o.sa) [])
  | .settle o => causes [o.sa] [] (boxChecks s p g (sVal p.thr o.sa) [(fun _ b => b.escrow = false, 0x06)])
  | .bxgive o =>
    let w := (sVal p.thr o.sb).toNat
    causes [o.sa, o.sb] [] (boxChecks s p g (sVal p.thr o.sa)
      [(fun uid _ => 2 ^ 8 ≤ w ∨ ∀ h ∈ s.groups, ∀ t, Cells.get? h.2.tid s.teams = some t →
          ¬ (h.2.grp = w / 16 ∧ t.uid = uid ∧ t.rank = w % 16), 0x07),
       (fun _ b => b.lends ≠ [], 0x03)])
  | .bxlend o =>
    let q := quadRank s g (sVal p.thr o.sb).toNat
    causes [o.sa, o.sb] [] (boxChecks s p g (sVal p.thr o.sa)
      [(fun _ _ => q = none, 0x07), (fun _ b => ∃ l ∈ b.lends, q = some l.quad, 0x08),
       (fun _ _ => ∃ t, Cells.get? g.tid s.teams = some t ∧ (chitRange t).getLsbD o.chit.toNat = false, 0x09)])
  | .cpy o =>
    let a := (sVal p.thr o.sa).toNat
    causes [o.sa] [] ((a % 128 ≠ 0, Trap.at 0x06 0x00 a, s) ::
      match readWords s.agent (placeOf s s.agent) false ((List.range 16).map fun i => a + 8 * i) s with
      | (_, _, some t) => [(True, t, s)]
      | (w, u, none) => (copyChecks u p g a (cpyDesc w) ++ [chitCheck u g o.f o.chit]).map fun c => (c.1, c.2.1, s))
  | .cpyx o =>
    let d := sVal p.thr o.sa
    let base := (sVal p.thr o.sb).toNat
    let w := sVal p.thr (o.sb + 1)
    let blk := w.toNat % 2 ^ 11 * 128
    some { lanes := actives p g 0, srcs := [o.vi.toNat], unis := [o.sa, o.sb, o.sb + 1], udsts := [], count := (lanesOf 64 p.em).length
           checks := [valueCheck s (descOk d = true ∧ w.toNat / 2 ^ 11 % 2 ^ 5 = 0 ∧ w.toNat < 2 ^ 50 ∧ 0 < blk ∧ blk ≤ 131072),
               (base % 128 ≠ 0, Trap.at 0x06 0x00 base, s)] ++
             operandChecks s p g d (fun b => ∃ l, p.em.getLsbD l = true ∧ b.bytes < descOff d + (l + 1) * blk) true ++ [chitCheck s g o.f o.chit] }
  | .cpyq o =>
    let a := sVal p.thr o.sa
    let w := sVal p.thr o.sb
    causes [o.sa, o.sb] [] ([valueCheck s (w.toNat < 2 ^ 7 ∧ (w.getLsbD 4 = true → descOk a = true)),
      (ownsQueue s (coreQuad (agentCore s s.agent)) ((agentCtx s s.agent).getD 0) (w.toNat % 16) = false, Trap.plain 0x13 0x05, s)] ++
      (if w.getLsbD 4 = true then operandChecks s p g a (fun _ => False) false else []) ++ [chitCheck s g o.f o.chit])
  | .xsend o => transferChecks s p g o
  | .xrecv o => transferChecks s p g o
  | .xred o =>
    let a := (sVal p.thr o.sa).toNat
    let w := (sVal p.thr o.sb).toNat
    let n := w / 2 ^ 9 % 2 ^ 10
    causes [o.sa, o.sb] [] [valueCheck s (w < 2 ^ 58 ∧ 0 < n ∧ w % 2 ^ 9 + n ≤ 512 ∧ 0 < w / 2 ^ 26 % 2 ^ 32),
      (a % 128 ≠ 0, Trap.at 0x06 0x00 a, s), chitCheck s g o.f o.chit]
  | .menc o =>
    let w := sVal p.thr o.sp
    let m := match encParam w with
      | some e => Num.tileBytes e.f4 e.cap
      | none => 0
    causes [o.sa, o.sb, o.sp] [] (tileChecks s p g (sVal p.thr o.sb) (sVal p.thr o.sa)
      (w.toNat / 2 ^ 43 = 0 ∧ w.toNat / 2 ^ 33 % 8 ≤ 5 ∧ w.toNat / 2 ^ 38 % 16 ≤ 8) 8192 m ++ [chitCheck s g o.f o.chit])
  | .mdec o =>
    let c := sVal p.thr o.sb
    let n := match heldBox s p.gid g (descHandle c) with
      | some (_, b) => tileAt b (descOff c)
      | none => 64
    causes [o.sa, o.sb] [] (tileChecks s p g c (sVal p.thr o.sa) True n 8192 ++ [chitCheck s g o.f o.chit])
  | .sqmint o =>
    let h := (sVal p.thr o.sa).toNat
    let pl := placeOf s s.agent
    causes [o.sa] [] ((h % 64 ≠ 0 ∨ liveSq s pl.part h ≠ none, Trap.at 0x0B 0x05 h, s) :: match readDesc pl h s, parOf? s pl.part with
      | (.error c, _), _ => [(True, uniTrap false h c, s)]
      | (.ok (w, die), u), some t =>
        [(¬ LegalConfig t (BitVec.ofNat 64 (w.getD 0 0)) (w.getD 1 0) (w.getD 4 0) (w.getD 5 0), Trap.at 0x0B 0x05 h, s),
         (mapTables pl.part die (BitVec.ofNat 64 (w.getD 0 0)) (w.getD 5 0) (releaseSq pl h u) = none, Trap.at 0x0B 0x07 h, s)]
      | (.ok _, _), none => [])
  | .sqdrop o => causes [o.sa] [] (handleChecks s pid (sVal p.thr o.sa).toNat false)
  | .sqres o =>
    let h := (sVal p.thr o.sa).toNat
    let n := (sVal p.thr o.sb).toNat
    causes [o.sa, o.sb] [o.sd] (handleChecks s pid h true ++ [(n = 0 ∨ 65536 < n, Trap.at 0x0B 0x02 h, s)])
  | .sqcom o =>
    let h := (sVal p.thr o.sa).toNat
    let a := (sVal p.thr o.sb).toNat
    let n := (sVal p.thr o.sn).toNat
    causes [o.sa, o.sb, o.sn] [] (handleChecks s pid h false ++ [(liveWith s h fun q => n = 0 ∨ 65536 < n ∨ a < q.cl ∨ q.rl < a + n ∨
      ∃ r ∈ q.committed, r.1 < a + n ∧ a < r.2, Trap.at 0x0B 0x03 h, s)])
  | .sqlen o => if o.loc = true then none else causes [o.sa] [o.sd] (handleChecks s pid (sVal p.thr o.sa).toNat false)
  | .sqwait o => if o.loc = true then none else causes [o.sa, o.sb] [o.sd] (handleChecks s pid (sVal p.thr o.sa).toNat true)
  | .sqbind o => if o.off = true then none else causes [o.sa] [] (handleChecks s pid (sVal p.thr o.sa).toNat false)
  | .sqext o =>
    let h := (sVal p.thr o.sa).toNat
    let n := (sVal p.thr o.sb).toNat
    causes [o.sa, o.sb] [] (handleChecks s pid h false ++
      [(liveWith s h fun q => q.cap < n ∧ (q.wmax < n ∨ n % 2 ^ cfgG q.cfg ≠ 0), Trap.at 0x0B 0x05 h, s)])
  | .sqsum o => causes [o.sa, o.sb] [o.sd] (handleChecks s pid (sVal p.thr o.sa).toNat false)
  | .sqaddr o => causes [o.sa, o.sb] [o.sd] (handleChecks s pid (sVal p.thr o.sa).toNat false)
  | .sqinfo o => causes [o.sa] [o.sd] (handleChecks s pid (sVal p.thr o.sa).toNat false)
  | .sqfork o =>
    let h := (sVal p.thr o.sa).toNat
    let len := (sVal p.thr o.sb).toNat
    let d := (sVal p.thr o.sn).toNat
    let pl := placeOf s s.agent
    causes [o.sa, o.sb, o.sn] [] (handleChecks s pid h true ++ ((d % 64 ≠ 0 ∨ liveSq s pl.part d ≠ none, Trap.at 0x0B 0x05 d, s) ::
      match readDesc pl d s, parOf? s pl.part with
      | (.error c, _), _ => [(True, uniTrap false d c, s)]
      | (.ok (w, die), u), some t =>
        [(liveWith s h fun q => ¬ LegalConfig t (q.cfg &&& ~~~(1#64 <<< 32)) q.cap (w.getD 4 0) (w.getD 5 0), Trap.at 0x0B 0x05 d, s),
         (liveWith s h fun q => q.cl < len, Trap.at 0x0B 0x04 h, s),
         (liveWith s h fun q => ¬ (len % 2 ^ cfgG q.cfg ≠ 0 ∧ freeSegs s q = 0) ∧ mapTables pl.part die q.cfg (w.getD 5 0) u = none,
          Trap.at 0x0B 0x07 d, s)]
      | (.ok _, _), none => []))
  | _ => none
/-- The first check of a list that fails is c. -/
def FirstFails (cs : List Check) (c : Check) : Prop := ∃ pre post, cs = pre ++ c :: post ∧ (∀ x ∈ pre, ¬ x.1) ∧ c.1

/-! ### What commands and engine operations leave -/

/-- A command that may take its next step. -/
def commandRuns (s : State) (ticket : Nat) (c : Cmd) : Prop :=
  (s.cmds.find? fun m => m.ticket == ticket) = some c ∧ cmdRuns s c = true ∧ c.failed = none
/-- Every piece of a range reaches a frame through an ordinary resident page that allows an engine's access, at the addresses that loc
gives; for a read its bytes are sound and at home on the engine's die (R329, R335, R336). -/
def EngineReaches (s : State) (pl : Place) (k : AccessKind) (va n : Nat) (loc : Nat → Nat) : Prop :=
  ∀ q ∈ pieces va n, (q.1 < region 0x80 ∨ region 0xC0 ≤ q.1 ∧ q.1 < region 0xE0) ∧
    (∃ t b pg ph, parOf? s pl.part = some t ∧ pageOf t q.1 = some (b, pg) ∧ s.tablePoison.contains (pl.part, b) = false ∧
      pg.kind ≠ .seq ∧ allowed pg k = true ∧ pg.state = .device ph ∧ inPool s pl.part ph pg.size = true ∧
      ∀ j < q.2, loc (q.1 + j) = ph + (q.1 - b) + j) ∧
    (k = .engineWrite → onDescriptor s pl.part q.1 q.2 = false) ∧
    (k = .engineRead → ∀ j < q.2, poisonedAt s (loc (q.1 + j) / 32 * 32) 32 = none ∧ physDie (loc (q.1 + j)) = pl.die)
/-- A range of an operand of a command, in its box or in memory, can be read. -/
def OperandReads (s : State) (c : Cmd) (box : Bool) (d : DWord) (a n : Nat) (loc : Nat → Nat) : Prop :=
  if box = true then ∃ x, teamBox s c.tid (descHandle d) = some x ∧ a + n ≤ x.2.bytes ∧ boxPoison x.2 a n = none
  else EngineReaches s (enginePlace s c.core c.ctx) .engineRead a n loc
/-- A range of an operand of a command can be written. -/
def OperandWrites (s : State) (c : Cmd) (box : Bool) (d : DWord) (a n : Nat) (loc : Nat → Nat) : Prop :=
  if box = true then ∃ x, teamBox s c.tid (descHandle d) = some x ∧ a + n ≤ x.2.bytes
  else EngineReaches s (enginePlace s c.core c.ctx) .engineWrite a n loc
/-- A byte of an operand: of the front copy of its box, or of memory. -/
def operandByte (s : State) (c : Cmd) (box : Bool) (d : DWord) (loc : Nat → Nat) (a : Nat) : Byte :=
  if box then ((teamBox s c.tid (descHandle d)).map fun x => memByte x.2.front a).getD 0 else memByte s.mem (loc a)
/-- Bytes of an operand. -/
def operandBytes (s : State) (c : Cmd) (box : Bool) (d : DWord) (loc : Nat → Nat) (a n : Nat) : List Byte :=
  (List.range n).map fun i => operandByte s c box d loc (a + i)
/-- Bytes written from an address upward. -/
def bytesAt (a : Nat) (d : List Byte) (x : Nat) : Option Byte := if a ≤ x then d[x - a]? else none
/-- A box of a cluster. -/
def boxIn (s : State) (uid : Nat) (h : DWord) : Option Box := (Cells.get? uid s.clus).bind fun u => boxAt u h
/-- An engine has written bytes of a box: in the escrow copy where there is one (R226). The other copy, the box's other fields, every
other box and memory stand. -/
structure BoxHolds (s u : State) (uid : Nat) (h : DWord) (b : Box) (w : Nat → Option Byte) : Prop where
  box : ∃ b', boxIn u uid h = some b' ∧
    { b' with front := b.front, back := b.back, frontPoison := b.frontPoison, backPoison := b.backPoison } = b ∧
    (b.escrow = true → b'.front = b.front ∧ ∀ x, memByte b'.back x = (w x).getD (memByte b.back x)) ∧
    (b.escrow = false → b'.back = b.back ∧ ∀ x, memByte b'.front x = (w x).getD (memByte b.front x))
  others : ∀ v k, (v ≠ uid ∨ k ≠ boxKey h) →
    ((Cells.get? v u.clus).bind fun x => Cells.get? k x.boxes) = ((Cells.get? v s.clus).bind fun x => Cells.get? k x.boxes)
  mem : u.mem = s.mem ∧ u.peerMem = s.peerMem
/-- Bytes of virtual addresses written to memory at the addresses that loc gives; every other byte and every box stand. -/
structure MemoryHolds (s u : State) (loc : Nat → Nat) (w : Nat → Option Byte) : Prop where
  written : ∀ a v, w a = some v → memByte u.mem (loc a) = v
  kept : ∀ pa, (∀ a v, w a = some v → loc a ≠ pa) → memByte u.mem pa = memByte s.mem pa
  rest : u.clus = s.clus ∧ u.peerMem = s.peerMem
/-- What a command has written of its operand. -/
def OperandHolds (s u : State) (c : Cmd) (box : Bool) (d : DWord) (loc : Nat → Nat) (w : Nat → Option Byte) : Prop :=
  if box = true then ∀ uid b, teamBox s c.tid (descHandle d) = some (uid, b) → BoxHolds s u uid (descHandle d) b w
  else MemoryHolds s u loc w
/-- Addresses of a range stand at different places. -/
def Apart (loc : Nat → Nat) (p : Nat → Prop) : Prop := ∀ a b, p a → p b → loc a = loc b → a = b
/-- Where a strided operand starts. -/
def copyStart (box : Bool) (v : DWord) : Nat := if box then descOff v else v.toNat
/-- The address of an index tuple of a copy (R264). -/
def copyAddr (start n : Nat) (stride : List Int) (i : Nat → Nat) : Nat :=
  (BitVec.ofInt 64 ((start : Int) + ((List.range n).map fun k => (i k : Int) * stride.getD k 0).sum)).toNat
/-- The place of an index tuple in loop order, innermost level fastest (R264). -/
def copyOrder (d : CpyDesc) (n : Nat) (i : Nat → Nat) : Nat :=
  ((List.range n).map fun j => i (copyField d (24 + 3 * j)) *
    ((List.range j).map fun m => d.count.getD (copyField d (24 + 3 * m)) 0).foldl (· * ·) 1).sum
/-- An element that `mstore` stores (R201, R202): the exact product clamped, then rounded once. E4M3 has a NaN for an infinite product
(DESIGN CHOICE, log entry 90). -/
def IsStored (t : Num.Fmt) (a c : Nat) (clamp : Bool) (bound : Nat) (r : Nat × Flags) : Prop :=
  let f := Num.Fmt.f32
  let neg := negCode f a != negCode f c
  let lim := bound % 2 ^ 15
  let clamps := clamp = true ∧ finiteCode .bf16 lim = true
  let clamped := ∃ x, Rounded t .rne neg (magnitude .bf16 lim) 1 x ∧ r = (x.1, x.2 ||| Num.fSAT)
  if nanCode f a ∨ nanCode f c then r = nanResult t (sigCode f a || sigCode f c)
  else if infCode f a ∨ infCode f c then
    if (infCode f a = true ∧ infCode f c = false ∧ magnitude f c = 0) ∨ (infCode f c = true ∧ infCode f a = false ∧ magnitude f a = 0) then r = nanResult t true
    else (clamps → clamped) ∧ (¬ clamps → r = if t = .e4m3 then nanResult t false else infResult t neg)
  else
    let beyond := magnitude .bf16 lim * 2 ^ 149 < magnitude f a * magnitude f c
    (clamps ∧ beyond → clamped) ∧ (¬ (clamps ∧ beyond) → Rounded t .rne neg (magnitude f a * magnitude f c) (2 ^ 149) r)

end Sys2Proof.Claim

open Sys2Proof Sys2Proof.Machine Sys2Proof.Claim

/-- R38, R141 to R151: every integer lane form writes its result to vd in every active lane, merges SAT where iaddsat saturates, retires,
and changes nothing else. Counts of bits, reversals, shifts by a constant, and fields of n bits from bit b are given bit by bit. `bfi`
follows the definition of R144, against the value that its example prints (DEDUCED, log entry 33). -/
def Obligations.IntegerLaneForms : Prop :=
  LaneFamily integerForm ∧
  (∀ a : Word, (clzW a).toNat ≤ 32 ∧ (∀ i, 32 - (clzW a).toNat ≤ i → a.getLsbD i = false) ∧
    ((clzW a).toNat < 32 → a.getLsbD (31 - (clzW a).toNat) = true)) ∧
  (∀ a : Word, (popcW a).toNat = ((List.range 32).map fun i => if a.getLsbD i then 1 else 0).sum) ∧
  (∀ (a : Word) i, i < 32 → (brevW a).getLsbD i = a.getLsbD (31 - i)) ∧
  (∀ (d a b : Word) i, i < 32 →
    let pos := b.toNat % 32
    let n := fieldLen b
    (bfxI a b).getLsbD i = (if i < n then a.getLsbD (pos + i) else decide (0 < n) && a.getLsbD (pos + n - 1)) ∧
    (bfiW d a b).getLsbD i = if pos ≤ i ∧ i < pos + n then a.getLsbD (i - pos) else d.getLsbD i) ∧
  ∀ (k : BitVec 2) (a : Word) (c : Nat) i, c < 32 → i < 32 → (shiftKind k a c).getLsbD i =
    match k.toNat with
    | 0 => decide (c ≤ i) && a.getLsbD (i - c)
    | 1 => a.getLsbD (i + c)
    | 2 => a.getLsbD (min (i + c) 31)
    | _ => a.getLsbD ((i + 32 - c) % 32)
/-- R38, R152 to R162: every floating-point lane form writes its result to vd in every active lane, merges its flags into AFL, retires, and
changes nothing else. `fcvt` sets INV for an 8-bit NaN that becomes an integer and for a signalling NaN of a conversion that is exact
(DEDUCED, log entry 88), and `exp2` follows the steps and constants of R95, not its prose on p(1) (DEDUCED, log entry 33). -/
def Obligations.FloatLaneForms : Prop := LaneFamily floatForm
/-- R163: bexp, bcvt, badd and bfin complete: the block exponent, and FB128 values in four registers. -/
def Obligations.BinnedLaneForms : Prop := LaneFamily binnedForm
/-- R170 to R178: shuffles, ballot, topk, reductions, scans, index searches, mask counts and broadcasts complete with their results over the
active lanes. -/
def Obligations.GroupLaneForms : Prop := LaneFamily groupForm
/-- R22, R148, R157, R175, R178: comparisons and mask operations complete: they write the active lanes' bits of one mask, k0 discards the
write, and nothing else changes. -/
def Obligations.MaskForms : Prop :=
  ∀ i F s pid p g, maskForm i = some F → Runs s pid p g → MaskReady F p g →
    ∃ t g', exec i s = .next t ∧ OnlyPart s t pid p (retired s p) g' ∧ MaskWritten F p g g'
/-- R180, R181: uniform arithmetic completes in a part and in a sequencer context: it writes sd, full, and changes no other register. -/
def Obligations.UniformForms : Prop :=
  ∀ i F s th, uniForm i = some F → thread? s s.agent = some th →
    (∀ r ∈ F.srcs, (sregOf th r.toNat).full = true ∧ (sregOf th r.toNat).poison = false) →
    (sregOf th F.sd.toNat).full = true →
    ∃ t th', exec i s = .next t ∧ OnlyThread s t s.agent th' ∧ SregWritten s th th' F.sd (F.val (sVal th))

/-- R55, R57, R178, R179, R323, R386, R388 to R392: vread, kget, emget, emset and emand, and tfence, dload, dfence, dget, prof, fltget, and
an armed brkp complete. That `prof` answers the counters of cycles and stalls with a free value, and that a `dload` keeps the states of the
table that it replaces, are the model's choices (DESIGN CHOICE, log entries 11 and 21). -/
def Obligations.SystemForms : Prop :=
  PartFamily fun s pid p g i => bridgeForm s pid p g i <|> systemForm s pid p g i <|> loadTableForm s pid p g i
/-- R26 to R30, R387: sget and sset complete in parts and sequencer contexts. What `sget` reads stands field by field: in a part, and in a
sequencer context its own registers, the chits of its quad's first core, and zeros where R26 gives it none. That a read of CYC adds a free
amount to the core's counter is the model's choice (DESIGN CHOICE, log entry 10). -/
def Obligations.SpecialRegisterForms : Prop :=
  AgentFamily specialForm ∧
  (∀ s pid p g t c, Runs s pid p g → Cells.get? g.tid s.teams = some t → ctxOf? s t.ctx = some c → GeometryFits t c →
    g.gslot < 64 → g.w ≤ 64 → g.groups ≤ 16 → g.vregs ≤ 256 → g.grp < 16 → p.wb < g.vregs → p.tstack.length ≤ 4 →
    let tab := if (coreOf s t.core).tableCtx = some t.ctx then (coreOf s t.core).table else .empty
    tab.ndef ≤ 128 → PartFields p g t c tab (specialOf s s.agent)) ∧
  ∀ s sc q x c, s.agent = .seq sc → sc < 1536 → Cells.get? sc s.seqs = some q → ctxOf? s q.ctx = some c → q.ctx < 256 →
    (s.teams.find? fun t => t.2.uid == q.uid && t.2.core == quadCore (sc / 8)) = some x → GeometryFits x.2 c →
    SeqFields s sc q x.2 c (specialOf s s.agent)
/-- R311, R312, R314 to R317, R319, R359: branches, calls, returns, a join of a lone part and returns from traps complete. The PC that a
fill reads is taken even whatever the record holds (DEDUCED, log entry 67); spills go through the core's queue and fills take their bytes as
the instruction issues (DESIGN CHOICE, log entries 5 and 4). -/
def Obligations.ControlForms : Prop := PartFamily controlForm
/-- R269, R313, R314, R322: bs, jmp, jmpr, yield and the chit instructions complete in parts and sequencer contexts. -/
def Obligations.BranchAndChitForms : Prop := AgentFamily fun s th i => branchForm s th i <|> chitForm s th i
/-- R246: uniform loads and stores complete. A load whose bytes no cache and no queue holds brings the little-endian number at its page's
frame, zero-extended, to sd. That a load takes its bytes in the step in which it issues and a store is accepted in its core's queue are the
model's choices (DESIGN CHOICE, log entries 4 and 5). -/
def Obligations.UniformMemoryForms : Prop :=
  AgentFamily uniMemForm ∧
  ∀ i o n s th pa, (i = .sld64 o ∧ n = 8 ∨ i = .sld32 o ∧ n = 4 ∨ i = .slda o ∧ n = 8) → thread? s s.agent = some th →
    (sregOf th o.sa.toNat).full = true → (sregOf th o.sa.toNat).poison = false → (sregOf th o.sd.toNat).full = true →
    roomFor s s.agent true false = true → AtHome s (placeOf s s.agent) .read (uniformAddress th o n) n pa →
    ∃ t, exec i s = .next t ∧ UniLandsIn s t o.sd (littleEndian (memByte s.mem) pa n)
/-- R101, R102, R217 to R219, R246 to R253: lane loads, stores, atomics, fences, pgreq and pfch complete. A load whose bytes no cache and no
queue holds brings to each active lane the little-endian number at its page's frame, zero-extended, in the registers from vt; an atomic
leaves there, lane after lane, its new values of the old bytes, changes no other byte, and brings the old values back. That loads take their
bytes and atomics act at issue, that stores wait in the core's queue, and how die copies and their updates stand are the model's choices
(DESIGN CHOICE, log entries 4, 5 and 6). -/
def Obligations.LaneMemoryForms : Prop :=
  PartFamily memoryForm ∧
  (∀ i o F s pid p g (pa : Nat → Nat), (i = .ld o ∨ i = .lda o) → Runs s pid p g → memoryForm s pid p g i = some F → PartReady F p g →
    roomFor s s.agent true false = true →
    let n : Nat := 2 ^ o.size.toNat
    (∀ l ∈ actives p g o.pk, AtHome s (placeOf s s.agent) .read (laneAddress p g o.va (o.x.toInt * n) l) n (pa l)) →
    ∃ t, exec i s = .next t ∧
      LandsIn s t p g o.pk o.vt n ((actives p g o.pk).map fun l => littleEndian (memByte s.mem) (pa l) n) true false) ∧
  ∀ o F s pid p g (pa : Nat → Nat), Runs s pid p g → memoryForm s pid p g (.atom o) = some F → PartReady F p g → roomFor s s.agent true true = true →
    let n : Nat := 2 ^ o.size.toNat
    (∀ l ∈ actives p g o.pk, AtHome s (placeOf s s.agent) .write (laneAddress p g o.va 0 l) n (pa l)) →
    let x := atomRun o.x.toNat n (memByte s.mem) ((actives p g o.pk).map fun l => (pa l, operandOf p g o.vt (atomRegs o.x n) l))
    ∃ t, exec (.atom o) s = .next t ∧ (∀ a, memByte t.mem a = x.2 a) ∧ LandsIn s t p g o.pk o.vt n x.1 true true
/-- R101, R102, R254, R255: box loads, stores and atomics complete in a group that holds the box. A load brings each active lane the
little-endian number at its offset, or 0 where that leaves the box; an atomic leaves in the front copy, lane after lane, its new values of
the old bytes, and brings the old values back. That loads and atomics take the bytes of the box in the step in which they issue and deliver
all lanes in one landing, and that the upper bits of a handle's register are ignored, are the model's choices (DESIGN CHOICE, log entries 4
and 95), and so is that counter 8 takes one access for the instruction (DESIGN CHOICE, log entry 82). -/
def Obligations.BoxAccessForms : Prop :=
  PartFamily boxAccessForm ∧
  (∀ o F s pid p g uid b, Runs s pid p g → boxAccessForm s pid p g (.bld o) = some F → F.ok → PartReady F p g →
    heldBox s p.gid g (sVal p.thr (boxReg o.sh)) = some (uid, b) →
    let n : Nat := 2 ^ o.size.toNat
    ∃ t, exec (.bld o) s = .next t ∧ LandsIn s t p g o.pk o.vt n ((actives p g o.pk).map fun l =>
      if boxOffset p g o.va l + n ≤ b.bytes then littleEndian (memByte b.front) (boxOffset p g o.va l) n else 0) true false) ∧
  ∀ o F s pid p g uid b, Runs s pid p g → boxAccessForm s pid p g (.batom o) = some F → F.ok → PartReady F p g →
    heldBox s p.gid g (sVal p.thr (boxReg o.sh)) = some (uid, b) →
    let n := if o.op = 13 then 16 else 4
    let x := atomRun o.op.toNat n (memByte b.front)
      ((actives p g o.pk).map fun l => (boxOffset p g o.va l, operandOf p g o.vt (if o.op = 9 then 2 else sizeRegs n) l))
    ∃ t b', exec (.batom o) s = .next t ∧ boxIn t uid (sVal p.thr (boxReg o.sh)) = some b' ∧ (∀ a, memByte b'.front a = x.2 a) ∧
      LandsIn s t p g o.pk o.vt n x.1 true true
/-- R224 to R227, R258 to R261: box management completes. Which team a box is charged to at `bxnew` and `bxfree` and that the generation is
counted per slot of the vault are the model's readings (DEDUCED, log entries 38 and 80); the slot of a new box, and the lines of a drain in
flight at a `settle`, are free, and the upper bits of a handle's register are ignored (DESIGN CHOICE, log entries 32 and 95). -/
def Obligations.BoxForms : Prop := PartFamily boxForm
/-- R231, R270 to R277: sequence instructions complete. That an advance of CL reaches the bound registers at once, where the tables of a
sequence stand, that the words which software should have written as 0 are ignored, and what a poisoned summary does, are the model's
choices (DESIGN CHOICE, log entries 65, 19, 60 and 85); with which clocks answers and summaries are read is its reading (DEDUCED, log entry
84). -/
def Obligations.SequenceForms : Prop := PartFamily fun s pid p g i => seqForm s pid p g i <|> forkForm s pid p g i
/-- R190 to R193, R262 to R268: a command that passes its checks is handed over with its operands; with f = 1 the part goes on, with f = 0
it waits for the command. The bounds of `cpy` and the length that `mdec` checks are the model's readings (DEDUCED, log entries 45 and 46),
and the place of the chit's check and the fields that CVT = 0 leaves unread are its choices (DESIGN CHOICE, log entry 86). -/
def Obligations.CommandForms : Prop :=
  ∀ i F s pid p g, Runs s pid p g → commandForm s pid p g i = some F → F.ok → CmdReady F p g →
    exec i s = .next (if F.f = true then retireAt s.agent F.count (past s p.thr) (handedOver s pid p g F)
      else F.mark (hold s.agent (.command F.read.nextId s.iss.len) (countIssue s.agent F.count (handedOver s pid p g { F with mark := id }))))
/-- R187, R195 to R206: engine instructions of a sequencer context complete. -/
def Obligations.EngineForms : Prop :=
  ∀ i F s sc q, s.agent = .seq sc → Cells.get? sc s.seqs = some q → engineForm s sc q i = some F → F.ok →
    (∀ r ∈ F.unis, (sregOf q.thr r.toNat).full = true ∧ (sregOf q.thr r.toNat).poison = false) →
    (∀ r ∈ F.udsts, (sregOf q.thr r.toNat).full = true) →
    exec i s = .next (retire s.agent 0 F.next)
/-- R194, R195, R298, R324 to R326: watch completes once its value has changed, barrier arrivals at once, barrier waits once the phase they
name has completed, mpost while the quad's FIFO has room for its target. -/
def Obligations.WaitingForms : Prop := PartFamily fun s pid p g i => waitingForm s pid p g i <|> postForm s pid p g i

/-- A part is gone (R294, R321): its lanes count as arrived, and what was under way for its uniform registers and its requests to
sequences go; the rest stays. -/
def departed (pid : Nat) (p : Part) (s : State) : State :=
  { s with
    parts := Cells.erase pid s.parts
    groups := Cells.modify p.gid (fun g => { g with gone := g.gone ||| p.own }) s.groups
    lands := s.lands.filter fun l => match l.dest with
      | .sreg (.part q) _ _ => q != pid
      | .fromLane (.part q) _ _ _ => q != pid
      | _ => true
    sqs := s.sqs.map fun q => { q with queue := q.queue.filter fun r => match r with
      | .res a _ => a != pid
      | .waitFor a _ => a != pid
      | .fork a => a != pid }
    dropped := s.dropped.filter fun d => d.pid != pid }
/-- The groups once one has exited: its take queue is empty. -/
def groupsAfter (s : State) (gid : Nat) : Cells Group := Cells.modify gid (fun g => { g with exited := true, takeq := [] }) s.groups
/-- The boxes of a cluster after a group has exited: those in its take queue are gone (R259). -/
def boxesAfter (g : Group) (u : Cluster) : Cells Box := g.takeq.foldl (fun m h => Cells.erase (boxKey (h.setWidth 64)) m) u.boxes
/-- The boxes of a cluster after a team of it has exited too: the lends of its groups' boxes have ended without a chit, and boxes that an
exited team's group holds are gone, but for those with which an engine has begun (R225, R258; DEDUCED, log entry 64). -/
def boxesAtEnd (s : State) (tid uid : Nat) (m : Cells Box) : Cells Box :=
  let heldBy (ok : Nat → Bool) (b : Box) : Bool := match b.holder with
    | some gid => ((Cells.get? gid s.groups).map fun g => ok g.tid).getD false
    | none => false
  let m := (m.filter fun b => heldBy (fun x => x == tid) b.2).foldl (fun m b => Cells.modify b.1 (fun b => { b with lends := [] }) m) m
  (m.filter fun b => heldBy (fun x => x == tid || ((Cells.get? x s.teams).map Team.exited).getD false) b.2 && !boxInUse s uid b.1).foldl
    (fun m b => Cells.erase b.1 m) m
/-- A group exits (R259, R321): waits for boxes may end, and all that changes beside them is given. With a group of its team left it is
the group and its take queue; with none the team exits, with its chits, its boxes and, where no other team of the context is left there,
its core's table (R60), and counts as exited in its context (R305). -/
def GroupExits (s t : State) (gid : Nat) (g : Group) (tm : Team) : Prop :=
  ((∃ x ∈ groupsAfter s gid, x.2.tid = g.tid ∧ x.2.exited = false) →
    ∃ w, (w = id ∨ w = wakeBoxes) ∧ t = w { s with
      groups := groupsAfter s gid
      clus := Cells.modify tm.uid (fun u => { u with boxes := boxesAfter g u }) s.clus }) ∧
  ((∀ x ∈ groupsAfter s gid, x.2.tid = g.tid → x.2.exited = true) →
    ∃ w, (w = id ∨ w = wakeBoxes) ∧ t = w (dropTable tm.core tm.ctx { s with
      groups := groupsAfter s gid
      clus := Cells.modify tm.uid (fun u => { u with boxes := boxesAtEnd s g.tid tm.uid (boxesAfter g u) }) s.clus
      teams := Cells.modify g.tid (fun t => { t with exited := true, chr := 0, cherr := 0 }) s.teams
      ctxs := Cells.modify tm.ctx (fun k => { k with exitedTeams := k.exitedTeams + 1 }) s.ctxs }))
/-- R258, R259, R294, R321, R359: exit ends a part, or a sequencer context without engine operations; tret with bit 0 of its mode ends the
part, or with bit 1 too the whole group. The part is then gone, its lanes count as arrived, and what it had under way is dropped. While
another part of the group waits at no join, or where all do with one token, nothing else happens or these merge; with the last part its
group exits, and with the last group its team, whose boxes are recalled and freed, in an order and at a moment that are the model's reading
(DEDUCED, log entry 64). Memory, queues and the other agents stay as they are. -/
def Obligations.EndForms : Prop :=
  (∀ s pid p g, Runs s pid p g → exec .exit s = .next (endPart pid (countIssue s.agent 0 s))) ∧
  (∀ s sc q, s.agent = .seq sc → Cells.get? sc s.seqs = some q → q.ops = [] →
    exec .exit s = .next (setSeq sc (fun q => { q with ended := true, thr := { q.thr with wait := .none, stop := .running } }) s)) ∧
  (∀ o s pid p g, Runs s pid p g → p.priv = true → p.tstack ≠ [] → o.mode = 1 →
    exec (.tret o) s = .next (endPart pid (countIssue s.agent 0 s))) ∧
  (∀ o s pid p g, Runs s pid p g → p.priv = true → p.tstack ≠ [] → o.mode = 3 →
    exec (.tret o) s = .next (endGroup p.gid (countIssue s.agent 0 s))) ∧
  (∀ s pid p, Cells.get? pid s.parts = some p →
    let r := departed pid p s
    let rest := (groupParts s p.gid).filter fun q => q.1 != pid
    ((∃ q ∈ rest, joinOf q.2 = none) → endPart pid s = r) ∧
    (∀ tok, rest ≠ [] → (∀ q ∈ rest, (joinOf q.2).map Prod.fst = some tok) → endPart pid s = mergeParts rest r) ∧
    ∀ g tm, rest = [] → Cells.get? p.gid r.groups = some g → Cells.get? g.tid s.teams = some tm →
      GroupExits r (endPart pid s) p.gid g tm) ∧
  ∀ s gid,
    let r := (groupParts s gid).foldl (fun r q => ((Cells.get? q.1 r.parts).map fun p => departed q.1 p r).getD r) s
    (∀ q ∈ groupParts s gid, Cells.get? q.1 r.parts = none) ∧
    ∀ g tm, Cells.get? gid r.groups = some g → Cells.get? g.tid r.teams = some tm → GroupExits r (endGroup gid s) gid g tm
/-- R20, R293, R319, R320: a join in a group of several parts waits; once every other part waits at a join with its token the parts merge:
the part that owns the lowest lane stays, with the union of their lanes, the union of their EMs, its own registers and window and no trap
frame, past its join; the others are gone. It keeps its own barrier phases (DEDUCED, log entry 36), and a `tfence` of it waits for no
command of the others (DESIGN CHOICE, log entry 81). -/
def Obligations.JoinMerges : Prop :=
  (∀ o s pid p g, Runs s pid p g → (groupParts s p.gid).length ≠ 1 → p.tstack = [] →
    let u := hold s.agent (.join o.tok.toNat s.iss.len) (countIssue s.agent 0 s)
    exec (.join o) s = .next (checkJoins p.gid u) ∧
    (p.thr.stop = .running → (groupParts s p.gid).length ≠ 0 →
      (∀ q ∈ groupParts s p.gid, q.1 ≠ pid → (joinOf q.2).map Prod.fst = some o.tok.toNat) →
      (∀ q ∈ groupParts s p.gid, q.1 = pid → q.2 = p) →
      checkJoins p.gid u = mergeParts (groupParts u p.gid) u)) ∧
  ∀ s gid kid k tok n, (kid, k) ∈ groupParts s gid → joinOf k = some (tok, n) →
    (∀ q ∈ groupParts s gid, q.1 ≠ kid → lowLane k.own < lowLane q.2.own) → (∀ q ∈ groupParts s gid, q.1 = kid → q.2 = k) →
    let t := mergeParts (groupParts s gid) s
    Cells.get? kid t.parts = some { k with
      own := (groupParts s gid).foldl (fun m q => m ||| q.2.own) 0, em := (groupParts s gid).foldl (fun m q => m ||| q.2.em) 0
      tstack := []
      thr := { k.thr with pc := (k.thr.pc + BitVec.ofNat 64 n) &&& 0xFFFFFFFFFFFFFF, wait := .none, asked := [], ready := s.tick
                          woken := .none } } ∧
    (∀ q ∈ groupParts s gid, q.1 ≠ kid → Cells.get? q.1 t.parts = none) ∧
    (∀ q, (∀ r ∈ groupParts s gid, r.1 ≠ q) → Cells.get? q t.parts = Cells.get? q s.parts) ∧
    t.groups = s.groups ∧ t.mem = s.mem ∧ t.stores = s.stores
/-- R18, R311: a bk whose lanes disagree splits the part: the side with fewer lanes leaves as a fragment, the taken side on a tie, and the
executing part goes the other way. The fragment owns and has active the departed lanes, stands at its side's address and has a copy of the
part's registers, window, privilege and UNFENCED, without trap frames; the part loses the lanes. The fragment has no pending barrier phase
(DEDUCED, log entry 36), and a landing under way for a uniform register is doubled for its copy (DEDUCED, log entry 37). -/
def Obligations.BranchSplits : Prop :=
  (∀ o s pid p g, Runs s pid p g → (o.k ≠ 0 → o.k.toNat ∉ g.maskPoison) →
    let taken := p.em &&& maskVal g o.k.toNat
    let other := p.em &&& ~~~maskVal g o.k.toNat
    taken ≠ 0 → other ≠ 0 →
    exec (.bk o) s = .next (
      if (lanesOf 64 taken).length ≤ (lanesOf 64 other).length then
        retireAt s.agent 0 (past s p.thr) (fork pid taken (relPc p.thr.pc o.disp) s)
      else retireAt s.agent 0 (relPc p.thr.pc o.disp) (fork pid other (past s p.thr) s))) ∧
  ∀ s pid p lanes pc, Cells.get? pid s.parts = some p → s.nextId ≠ pid →
    let t := fork pid lanes pc s
    (∃ f, Cells.get? s.nextId t.parts = some f ∧ f.gid = p.gid ∧ f.own = lanes ∧ f.em = lanes ∧ f.thr.pc = pc ∧
      f.thr.sregs = p.thr.sregs ∧ f.wb = p.wb ∧ f.wsp = p.wsp ∧ f.spc = p.spc ∧ f.wstack = p.wstack ∧ f.priv = p.priv ∧
      f.unfenced = p.unfenced ∧ f.fenced = p.fenced ∧ f.tstack = [] ∧ f.pend = [] ∧ f.latch = none ∧ f.thr.wait = .none ∧
      f.thr.stop = .running ∧ f.seated = decide (seatedOn s (agentCore s (.part pid)) < 64)) ∧
    Cells.get? pid t.parts = some { p with own := p.own &&& ~~~lanes, em := p.em &&& ~~~lanes } ∧
    (∀ q, q ≠ pid → q ≠ s.nextId → Cells.get? q t.parts = Cells.get? q s.parts) ∧
    (∃ new, t.lands = s.lands ++ new ∧ new.map (fun l => (l.who, l.dest)) = s.lands.filterMap fun l => match l.dest with
      | .sreg a r v => if a = .part pid then some (.part s.nextId, .sreg (.part s.nextId) r v) else none
      | .fromLane a r d k => if a = .part pid then some (.part s.nextId, .fromLane (.part s.nextId) r d k) else none
      | _ => none) ∧
    t.groups = s.groups ∧ t.mem = s.mem ∧ t.stores = s.stores

/-- R355: trap, and brkp where no debugger armed it, enter the context's handler: the frame holds PC, the instruction's length, EM, WB and
PRIV, the report names the cause, PRIV becomes T1 and PC becomes TVEC. The bits of FLTINFO that no cause's row fills are the model's reading
(DEDUCED, log entry 62). -/
def Obligations.TrapEntersHandler : Prop :=
  ∀ i cause detail s pid p g c k, Runs s pid p g → agentCtx s s.agent = some c → Cells.get? c s.ctxs = some k →
    ownTrap (armedIn s k) i = some (cause, detail) → k.tvec ≠ 0 → p.tstack.length < 4 →
    ∃ t, exec i s = .next t ∧ OnlyTrap s t pid c k (handlerPart s k p cause detail)
/-- R307, R355, R357, R358, R361, R362, R364, R365, R367, R384: without a handler, or with four frames, the trap stops the part where it
stands and writes a record, KIND 0 with the cause, or KIND 1 with TSOVF and the cause as its detail. A sequencer context stops at any cause
and writes one record of KIND 2. A WEDGE writes one record of KIND 4, whether a handler takes it or not. A cause of lanes that names
addresses writes a record for each page; any other writes one with PAGE 0. The record that a ring takes is written there. LANE, WR and PC of
the record, and that the counters count the instruction, are the model's readings (DEDUCED, log entries 62 and 82). -/
def Obligations.TrapStopsPart : Prop :=
  (∀ i cause detail s pid p g c k, Runs s pid p g → agentCtx s s.agent = some c → Cells.get? c s.ctxs = some k →
    ownTrap (armedIn s k) i = some (cause, detail) → ringBusy s s.agent c = false →
    let core := agentCore s s.agent
    let tr := Trap.plain (BitVec.ofNat 8 cause) (BitVec.ofNat 8 detail)
    let rep : Report := ⟨BitVec.ofNat 64 (cause + detail * 2 ^ 8 + (k.serial + 1).toNat * 2 ^ 32), 0, 0, []⟩
    let v := countIssue s.agent 0 s
    let u := countProf core c 13 1 (setCtx c (fun k => { k with serial := k.serial + 1 }) v)
    let stopped (why : Stop) := setPart pid (fun q =>
      { q with latch := none, thr := { q.thr with stop := why, wait := .none, asked := [], ref := .free, woken := .none, next := s.iss.len
                                                  report := if q.tstack.isEmpty then rep else q.thr.report } }) u
    (k.tvec = 0 → exec i s = .next (emit c core s.agent
      (trapRecords v s.agent c (k.serial + 1) p.thr.pc 0 tr.cause tr.detail tr) (stopped .noHandler))) ∧
    (k.tvec ≠ 0 → p.tstack.length = 4 → exec i s = .next (emit c core s.agent
      (trapRecords v s.agent c (k.serial + 1) p.thr.pc 1 cTSOVF tr.cause tr) (stopped .escalated)))) ∧
  (∀ s sc q k len tr, Cells.get? sc s.seqs = some q → ctxOf? s q.ctx = some k → ringBusy s (.seq sc) q.ctx = false → tr.cause ≠ 0x07 →
    ∃ rep, takeTrap (.seq sc) len tr s = emit q.ctx (768 + sc / 8) (.seq sc)
        (trapRecords s (.seq sc) q.ctx (k.serial + 1) q.thr.pc 2 tr.cause tr.detail tr) (seqStop s sc len q k rep) ∧
      bitsOf rep.info 0 8 = tr.cause.toNat ∧ bitsOf rep.info 8 8 = tr.detail.toNat ∧ bitsOf rep.info 32 32 = (k.serial + 1).toNat) ∧
  (∀ (o : OpCode) s sc, s.agent = .seq sc → (thread? s (.seq sc)).isSome = true →
    exec (.trap o) s = .next (takeTrap (.seq sc) s.iss.len (Trap.plain 0x0E (o.code.setWidth 8)) s)) ∧
  (∀ s pid p c k len (d : BitVec 8), Cells.get? pid s.parts = some p →
    agentCtx s (.part pid) = some c → Cells.get? c s.ctxs = some k → ringBusy s (.part pid) c = false →
    let core := agentCore s (.part pid)
    let tr := Trap.plain 0x0F d
    let recs (cause detail : BitVec 8) := trapRecords s (.part pid) c (k.serial + 1) p.thr.pc 4 cause detail tr
    let u := countProf core c 13 1 (setCtx c (fun k => { k with serial := k.serial + 1 }) s)
    ∃ p', (k.tvec = 0 → takeTrap (.part pid) len tr s = emit c core (.part pid) (recs 0x0F d) (setPart pid (fun _ => p') u) ∧
        p'.thr.stop = .noHandler ∧ p'.thr.pc = p.thr.pc ∧ p'.thr.next = len ∧ p'.tstack = p.tstack) ∧
      (k.tvec ≠ 0 → p.tstack.length = 4 → takeTrap (.part pid) len tr s = emit c core (.part pid) (recs cTSOVF 0x0F)
          (setPart pid (fun _ => p') u) ∧
        p'.thr.stop = .escalated ∧ p'.thr.pc = p.thr.pc ∧ p'.thr.next = len ∧ p'.tstack = p.tstack) ∧
      (k.tvec ≠ 0 → p.tstack.length ≠ 4 → takeTrap (.part pid) len tr s = emit c core (.part pid) (recs 0x0F d)
          (setPart pid (fun _ => p') u) ∧
        p'.priv = true ∧ p'.thr.pc = k.tvec ∧ ∃ f, p'.tstack = f :: p.tstack ∧ f.pc = p.thr.pc ∧ f.next = len ∧ f.em = p.em ∧ f.wb = p.wb ∧
          f.priv = p.priv)) ∧
  (∀ s a c serial pc kind cause detail t who, LaneCause t → AgentIs s a who → c < 256 → kind < 16 →
    PageRecords s c t who serial pc kind cause detail (trapRecords s a c serial pc kind cause detail t)) ∧
  (∀ s a c serial pc kind cause detail t who, namesAddress t = false → AgentIs s a who → c < 256 → kind < 16 →
    ∃ w, trapRecords s a c serial pc kind cause detail t = [w] ∧
      RecordWords w who cause.toNat detail.toNat kind 0 1 (if t.mask = 0 then 0 else lowLane t.mask) t.wr 4096 c serial.toNat pc 0 t.mask
        t.fva t.accm t.chit) ∧
  ∀ c core who w s k u, ctxOf? s c = some k → ringWrite k.part (coreDie core) k.lr.fring.toNat k.lr.frlog w s = .ok u →
    emit c core who [w] s = u
/-- R356, R359, R385: tret restores EM, WB and PRIV from the top frame and resumes at its PC, or past its instruction. FLTINFO, FLTVA,
FLTMASK and the lane addresses then show the new top frame's report, or, with none left, that of the frame just popped. -/
def Obligations.TrapReturns : Prop :=
  ∀ o s pid p g f r, Runs s pid p g → p.priv = true → p.tstack = f :: r → o.mode = 0 ∨ o.mode = 2 →
    ∃ t p', exec (.tret o) s = .next t ∧ Cells.get? pid t.parts = some p' ∧ p'.em = f.em &&& p.own ∧ p'.wb = f.wb ∧
      p'.priv = f.priv ∧ p'.tstack = r ∧ p'.own = p.own ∧ p'.wstack = p.wstack ∧ p'.wsp = p.wsp ∧ p'.thr.sregs = p.thr.sregs ∧
      p'.thr.pc = (if o.mode = 2 then f.pc + BitVec.ofNat 64 f.next else f.pc) &&& 0xFFFFFFFFFFFFFF ∧
      p'.thr.report = ((r.head?).getD f).rep ∧ t.groups = s.groups ∧ t.ctxs = s.ctxs ∧ t.mem = s.mem
/-- R40, R47, R48, R354, R382, R385: tret in T0 raises PRIV with DETAIL 0x01, tret without a frame PRIV with DETAIL 0x02, and a write of
TVEC in T0 PRIV with DETAIL 0x01. A form of the other kind of context raises UNDEF, with DETAIL 0xFF where it was fetched directly; a
dictionary reference in a sequencer context raises it with the number of the entry. Which of them the counters count is the model's reading
(DEDUCED, log entry 82). -/
def Obligations.PrivilegeAndContextTraps : Prop :=
  (∀ o s pid p g, Runs s pid p g → p.priv = false →
    exec (.tret o) s = .next (takeTrap s.agent s.iss.len (Trap.plain 0x05 0x01) s)) ∧
  (∀ o s pid p g, Runs s pid p g → p.priv = true → p.tstack = [] →
    exec (.tret o) s = .next (raised s 0 (Trap.plain 0x05 0x02) s)) ∧
  (∀ o s pid p g, Runs s pid p g → p.priv = false → o.sel = 12 →
    exec (.sset o) s = .next (takeTrap s.agent s.iss.len (Trap.plain 0x05 0x01) s)) ∧
  (∀ i s sc q, s.agent = .seq sc → Cells.get? sc s.seqs = some q → s.iss.entry = none → onlyGroups i →
    exec i s = .next (takeTrap s.agent s.iss.len (Trap.plain 0x01 0xFF) s)) ∧
  (∀ i s pid p g, Runs s pid p g → s.iss.entry = none → onlySequencers i →
    exec i s = .next (takeTrap s.agent s.iss.len (Trap.plain 0x01 0xFF) s)) ∧
  ∀ o s sc q, s.agent = .seq sc → Cells.get? sc s.seqs = some q →
    exec (.dictionaryReference o) s = .next (takeTrap s.agent s.iss.len (Trap.plain 0x01 (o.entry.setWidth 8))
      { s with iss := ⟨s.iss.len, some o.entry⟩ })
/-- R53, R54, R57: a reference to a defined entry executes the filled instruction with the reference's PC and length; beside that only the
note of how the part's next reference is decoded changes. A retry takes the table as it stands, a reference that waits keeps its entry, any
other takes the table as it stands or one state that a `dload` has replaced since the part's last `dfence`: which one is free (DESIGN
CHOICE, log entry 21); with no such state it is the table as it stands. -/
def Obligations.ReferenceRunsEntry : Prop :=
  (∀ o i s pid p g, Runs s pid p g →
    let e := refEntry s pid o.entry
    e.poison = false → e.val.getLsbD 63 = true → decode32 (fillEntry e.val o.ha o.hb) = .ok i →
    ∃ t, exec i { s with iss := ⟨s.iss.len, some o.entry⟩ } = .next t ∧
      exec (.dictionaryReference o) s = .next (holdRef pid p.thr o.entry e t)) ∧
  (∀ pid th n e t, { holdRef pid th n e t with parts := t.parts } = t ∧
    (∀ q, q ≠ pid → Cells.get? q (holdRef pid th n e t).parts = Cells.get? q t.parts) ∧
    ∀ p, Cells.get? pid t.parts = some p → ∃ r, Cells.get? pid (holdRef pid th n e t).parts = some { p with thr := { p.thr with ref := r } }) ∧
  (∀ n s pid p g, Runs s pid p g →
    let core := agentCore s (.part pid)
    let ctx := (agentCtx s (.part pid)).getD 0
    (p.thr.ref = .free → refEntry s pid n = Cells.get ⟨0, false⟩ n.toNat (refTable s p core ctx).entries) ∧
    (p.thr.ref = .now p.thr.pc → refEntry s pid n = Cells.get ⟨0, false⟩ n.toNat (ctxTable s core ctx).entries) ∧
    ∀ e, p.thr.ref = .held p.thr.pc n e → refEntry s pid n = e) ∧
  (∀ s p core ctx, refTable s p core ctx = ctxTable s core ctx ∨
    ∃ q ∈ (coreOf s core).olds, p.fenced ≤ q.1 ∧ refTable s p core ctx = q.2) ∧
  (∀ s p core ctx, (∀ q ∈ (coreOf s core).olds, q.1 < p.fenced) → refTable s p core ctx = ctxTable s core ctx)

/-- R9, R222, R280, R331, R346, R351, R368, R377: register writes that are open take effect, and a request to a VF that is not open for it
changes no register and is answered as Unsupported Request, a command among them. A write is ignored of FEATREQ of the PF while VF Enable is
1, of LQBASE, LQCTL and MLCTL while EN is 1, of MVA, MLEN, MPEER and of a command register while BUSY is 1. FEATREQ of a VF is written under
IDE in CONFIG_LOCKED, a write in RUN changes nothing, and one in UNLOCKED or ERROR is an Unsupported Request (DEDUCED, log entry 69). The
model's choices: VF Enable is only a bit (DESIGN CHOICE, log entry 70), LQBASE takes any value (DESIGN CHOICE, log entry 102), what the
link's IDE and reads answer (DESIGN CHOICE, log entry 12), a log ring changed while it is in use (DEDUCED, log entry 63), a closed debug
register ignores its write (DEDUCED, log entry 30). -/
def Obligations.RegisterWrites : Prop := EventFamily registerForm
/-- R8, R342 to R344, R409: TDISP requests, keying of the link, and the end of a leave. That the scrub returns every register of the VF to 0
and the contents of the messages are the model's choices (DESIGN CHOICE, log entries 71 and 12). -/
def Obligations.InterfaceRequests : Prop := EventFamily tdispForm
/-- R347, R348: SPDM requests and measurements, with the algorithms and sizes of R347 and a certificate chain whose alias certificate and
key depend on measurement blocks 1 to 5. The model's choices, all of log entry 12: the order of the requests and the codes of the answers
(PRESUMED), and the other contents of the answers, which are free (DESIGN CHOICE). -/
def Obligations.SecureRequests : Prop := EventFamily spdmForm
/-- R345, R346, R350, R377, R379: key rotation, debug policies, checkpoint grants. That whether a signature verifies is a free predicate and
what the answers hold is free are the model's choices (DESIGN CHOICE, log entry 12), and so is that a policy's reserved bits must be 0
(DESIGN CHOICE, log entry 103). -/
def Obligations.TenantGrants : Prop := EventFamily grantForm
/-- R286, R300, R343, R344, R348, R349, R371, R377, R409: the operator's commands, firmware, device start, links. That quads which a
partition gives up stay held until its scrub, and what holds at power-on, are the model's choices (DESIGN CHOICE and DEDUCED, log entries 78
and 16); which image verifies and what the telemetry reads is free (DESIGN CHOICE, log entry 12). -/
def Obligations.OperatorCommands : Prop := EventFamily operatorForm
/-- R281 to R289, R305: launches are fetched, admitted or turned away, placed, and completed. The model's choices and readings: the bytes
that a context takes of the pool (DESIGN CHOICE, log entry 18), the numbers it takes (DESIGN CHOICE, log entry 32), how rings are read, in
which order a record is checked, and what a placement writes (DEDUCED, log entries 53, 54 and 55); what an agent holds at its start, and
which fields of a record are refused (DEDUCED, log entries 17 and 52); whether a fetch from a page that no table lists succeeds, and the die
beside which a first touch of the launch takes its frame (DESIGN CHOICE, log entries 31 and 92). -/
def Obligations.LaunchEvents : Prop := EventFamily fun s i => launchForm s i <|> fetchForm s i
/-- R331 to R333, R337, R341, R349, R368, R369, R375: memory commands that pass their checks act with RESULT 0x00, commands on contexts act,
and a refused OP answers 0x01. That a memory command acts in its step and stays BUSY until MCMD_COMPLETE, that CCMD acts in the step of its
write, and which RESULT stands where several apply, are the model's readings (DEDUCED, log entries 57 and 27); that SEQK counts for RESERVE
alone is its choice (DESIGN CHOICE, log entry 105). -/
def Obligations.MemoryAndContextCommands : Prop := EventFamily fun s i => mcmdForm s i <|> ccmdForm s i
/-- R377 to R380: checkpoint, restore, abort and a lost link. The form of an image is the model's choice (DESIGN CHOICE, log entry 23);
which contexts a restore kills, which RESULT it answers and when the image is taken are its readings (DEDUCED, log entries 29 and 58). That
an abort or a lost link leaves CKLEN 0 and a partition that an earlier command stopped stopped (DESIGN CHOICE, log entry 99), and that an
abort with a reserved bit set is refused while the running command goes on, with CKBASE as it stands when that completes (DESIGN CHOICE, log
entry 100), are its choices too. -/
def Obligations.CheckpointEvents : Prop := EventFamily checkpointForm
/-- R323, R351, R393, R394: the debugger's actions and accesses. The numbers of a frame's words, the answers to accesses that cannot be
made, and how a stopped part goes on are the model's readings (DEDUCED, log entries 30 and 79). -/
def Obligations.DebugEvents : Prop := EventFamily debugForm
/-- R25, R208, R210, R219 to R221, R239: landings, stores at their homes, line updates, L1 expiry, the teller. Data that land make their
lane registers full with their words and change no other; a `vread` that waits for a lane takes the word that is there. The store queue, the
die copies with their updates, and the teller's views are the model's choices and readings (DESIGN CHOICE, log entries 5 and 6; DEDUCED, log
entry 68). -/
def Obligations.FabricEvents : Prop :=
  EventFamily fabricForm ∧
  (∀ s ticket l gid ws g, (s.lands.find? fun x => x.ticket == ticket) = some l → l.dest = .lanes gid ws → Cells.get? gid s.groups = some g →
    ∃ t g', exec (.dataLanding ticket) s = .next t ∧ Cells.get? gid t.groups = some g' ∧ { g' with lanes := g.lanes } = g ∧
      (∀ pre k w post, ws = pre ++ (k, w) :: post → k ∉ post.map Prod.fst → Cells.get LaneWord.zero k g'.lanes = ⟨w, true, false⟩) ∧
      (∀ k, k ∉ ws.map Prod.fst → Cells.get LaneWord.zero k g'.lanes = Cells.get LaneWord.zero k g.lanes) ∧
      (∀ x ∈ t.lands, x ∈ s.lands ∧ x.ticket ≠ ticket) ∧ t.mem = s.mem) ∧
  ∀ s ticket l a r gid k g th, (s.lands.find? fun x => x.ticket == ticket) = some l → l.dest = .fromLane a r gid k →
    Cells.get? gid s.groups = some g → thread? s a = some th →
    let w := Cells.get LaneWord.zero k g.lanes
    ∃ t th', exec (.dataLanding ticket) s = .next t ∧ thread? t a = some th' ∧
      (w.full = true → sregOf th' r = ⟨w.val.setWidth 64, true, w.poison⟩ ∧ t.lands = s.lands.filter fun x => x.ticket != ticket) ∧
      (w.full = false → sregOf th' r = sregOf th r ∧ t.lands = s.lands)
/-- R222, R267, R268, R270, R334, R335, R337, R349, R378: accesses from the host and peers, collective messages and answers to page requests
have the effect that their rules give in every state. HOST_MEMORY_ACCESS, PEER_ACCESS, PEER_COLLECTIVE_ARRIVAL and PRI_RESPONSE each
complete: the host reads and writes the memory of its own pages and the frames of resident ones, a peer reads, writes and combines bytes
through an export, a message of another device is taken, and an answer ends its page request. The model's choices and readings: an access
lies within one line, a peer's within 16 bytes (DEDUCED, log entry 49), this module's id, its peers, their exports and what a stale round
brings (DESIGN CHOICE, log entry 22), and that the lowest slot whose length covers a peer's offset serves it, with its rights alone (DESIGN
CHOICE, log entry 98). -/
def Obligations.OutsideAccesses : Prop :=
  EventFamily accessForm ∧ hostAccessCompletes ∧ peerAccessCompletes ∧
  (∀ s a, (a.dev, a.chan) ∉ s.stale → exec (.peerCollectiveArrival a) s = .next { s with arrivals := s.arrivals ++ [a] }) ∧
  priResponseCompletes
/-- R120 to R128, R187, R262, R266, R304: the arbiter's grants, the ends of passes, operations, commands and contexts. The model's choices
and readings: what counts as eligible and how a failure waits (DEDUCED, log entry 61), the flags of a pass that fails (DESIGN CHOICE, log
entry 73), that an operation or command takes effect in one step (DESIGN CHOICE, log entry 1). Which bytes, queue entries and accumulators
they leave is stated by CommandResults and AccumulatorResults. -/
def Obligations.EngineEvents : Prop := EventFamily engineEventForm
/-- R292 to R297, R306, R307, R366: wakes, barrier phases, seats, WEDGE and pending records. The model's choices and readings: the order of
seats and the state on which WEDGE is tested (DEDUCED, log entries 50 and 51), the time of R306 left out (DESIGN CHOICE, log entry 20), the
cause of a KIND 6 record and when it is given up (DESIGN CHOICE and DEDUCED, log entry 26), and a record of KIND 5 or 7 that waits for its
page (DEDUCED, log entry 24). -/
def Obligations.WaitEvents : Prop := EventFamily waitForm
/-- R4, R300, R302, R371, R373, R376: quanta, swaps, saves, soft errors and heat. The choice of victims, what ends before a save, and the
steps of the thermal limit are the model's readings (DEDUCED, log entries 28, 43 and 56), and so is what an error of a TLB entry does: the
entry is dropped and counted as corrected (DEDUCED, log entry 26), and that an error of a die's copy is its own place (DEDUCED, log entry
106). -/
def Obligations.UnitEvents : Prop := EventFamily unitForm

/-- R28: a write of QOS with LEVEL above CEIL sets LEVEL to CEIL, any other LEVEL is taken, and CEIL stays. -/
def Obligations.PriorityCeiling : Prop :=
  ∀ o s th c k, o.sel = 21 → thread? s s.agent = some th → agentCtx s s.agent = some c → Cells.get? c s.ctxs = some k →
    (sregOf th o.sa.toNat).full = true → (sregOf th o.sa.toNat).poison = false → k.lr.qos < 4 →
    let v := (sVal th o.sa).toNat % 4
    ∃ t k', exec (.sset o) s = .next t ∧ Cells.get? c t.ctxs = some k' ∧ k'.lr.qos = k.lr.qos ∧ k'.level.toNat ≤ k.lr.qos ∧
      (k.lr.qos < v → k'.level.toNat = k.lr.qos) ∧ (v ≤ k.lr.qos → k'.level.toNat = v)
/-- R312: bkany, bkall and bknone never split a part: the whole part goes to the target when the condition holds, and to next_pc otherwise;
with an empty EM bkany falls through, bkall and bknone are taken. -/
def Obligations.MaskBranches : Prop :=
  ∀ o s pid p g, Runs s pid p g → (o.k ≠ 0 → o.k.toNat ∉ g.maskPoison) →
    let target := relPc p.thr.pc o.disp
    let goes (i : Instr) (pc : DWord) : Prop :=
      exec i s = .next (retireAt s.agent 0 pc s) ∧ (retireAt s.agent 0 pc s).parts.map Prod.fst = s.parts.map Prod.fst
    let sub (i : Instr) (n : BitVec 3) : Prop := ∃ w, encode i = some (.word w) ∧ w.extractLsb' 7 3 = n
    (sub (.bkany o) 1 ∧ sub (.bkall o) 2 ∧ sub (.bknone o) 3) ∧
    (p.em &&& maskVal g o.k.toNat ≠ 0 → goes (.bkany o) target) ∧ (p.em &&& maskVal g o.k.toNat = 0 → goes (.bkany o) (past s p.thr)) ∧
    (p.em &&& ~~~maskVal g o.k.toNat = 0 → goes (.bkall o) target) ∧
    (p.em &&& ~~~maskVal g o.k.toNat ≠ 0 → goes (.bkall o) (past s p.thr)) ∧
    (p.em &&& maskVal g o.k.toNat = 0 → goes (.bknone o) target) ∧
    (p.em &&& maskVal g o.k.toNat ≠ 0 → goes (.bknone o) (past s p.thr)) ∧
    (p.em = 0 → goes (.bkany o) (past s p.thr) ∧ goes (.bkall o) target ∧ goes (.bknone o) target)

/-- R36, R46, R290: the turn of an agent that may issue runs the instruction that its fetch finds, in the state that the fetch leaves, with
what follows an instruction (R394); an operation that is no instruction runs at its turn; a turn given from outside is the next one, and
where none is given the schedule chooses (DESIGN CHOICE, log entry 1). -/
def Obligations.StepRunsInstruction : Prop :=
  (∀ s a u th n i w, nextTurn s = (.turn (.agent a), u) → mayIssue u a = true → thread? u a = some th →
    heldWait th.wait = false → fetchAt u (placeOf u a) th.pc = (.instr n i, w) →
    step s = closeTurn a (exec i { w with agent := a, iss := ⟨n, none⟩ })) ∧
  (∀ s i u, nextTurn s = (.turn (.event i), u) → encode i = none → step s = exec i { u with agent := .none }) ∧
  (∀ s i u t, nextTurn s = (.turn (.bare i), u) → encode i = none → exec i { u with agent := .none, bare := true } = .next t →
    step s = .next { t with bare := false }) ∧
  (∀ s p v u, nextTurn s = (.turn (.relayout p v), u) → step s = .next (toError p (setPar p (fun t => { t with bar := v }) u))) ∧
  ∀ s, s.breaches = [] →
    (∀ t r, s.inbox = t :: r → nextTurn s = (.turn t, { s with inbox := r, tick := s.tick + 1 })) ∧
    (s.inbox = [] → nextTurn s = (choose s, { s with tick := s.tick + 1 }))
/-- R35, R37, R13, R339, R372: a fetch reads the little-endian halfword at its address, from the L1 instruction cache where that holds the
line, else from the program's home memory or the die's copy of it, where a poisoned halfword is POISON; the instruction has 4 bytes where
bit 0 of the first halfword is 1, else 2, and the second halfword is the one 2 bytes on. That a hit in the L1 instruction cache is not
translated is the model's choice (DESIGN CHOICE, log entry 7), and that a die's copy keeps the marks that it was made with its reading
(DEDUCED, log entry 106). -/
def Obligations.FetchDecodes : Prop :=
  (∀ s pl pc l, codeLine? s pl pc = some l → fetchHalf s pl pc =
    (.ok (memByte l.bytes (pc.toNat % 128 + 1) ++ memByte l.bytes (pc.toNat % 128)), s)) ∧
  (∀ s pl pc u pa b z w, codeLine? s pl pc = none → translate s pl .fetch pc.toNat 2 = .phys u pa b z w → pa % 2 = 0 →
    (physDie pa = pl.die ∨ s.copies.find? (fun c => c.die == pl.die && c.line == pa / 128 && c.part == pl.part) = none →
      poisonedAt s (pa / 32 * 32) 32 = none →
      ∃ t, fetchHalf s pl pc = (.ok (memByte s.mem (pa + 1) ++ memByte s.mem pa), t) ∧ t.mem = s.mem) ∧
    ∀ c, physDie pa ≠ pl.die → s.copies.find? (fun c => c.die == pl.die && c.line == pa / 128 && c.part == pl.part) = some c →
      (c.data.marked (pa % 128) 2 = false → ∃ t, fetchHalf s pl pc =
        (.ok (memByte c.data.bytes (pa % 128 + 1) ++ memByte c.data.bytes (pa % 128)), t) ∧ t.mem = s.mem) ∧
      (c.data.marked (pa % 128) 2 = true → fetchHalf s pl pc = (.error (Trap.at 0x10 0x03 pc.toNat), s))) ∧
  ∀ s pl pc h t i, fetchHalf s pl pc = (.ok h, t) →
    (h.getLsbD 0 = false → decode16 h = .ok i → fetchAt s pl pc = (.instr 2 i, t)) ∧
    ∀ k v, h.getLsbD 0 = true → fetchHalf t pl (pc56 (pc + 2)) = (.ok k, v) → decode32 (k ++ h) = .ok i →
      fetchAt s pl pc = (.instr 4 i, v)
/-- R39, R147, R150, R151, R158, R175, R177, R181, R246, R251, R252, R313, R314, R322: words as the spec prints them decode to their
instructions. -/
def Obligations.DecodeWords : Prop :=
  decode16 0x0000 = .ok (.compactMov ⟨0, 0⟩) ∧ decode32 0x0061140B = .ok (.imad ⟨0, 10, 2, 3, false, false, false⟩) ∧
  decode32 0x11C20617 = .ok (.shfi ⟨0, 3, 4, false, 7, 2⟩) ∧ decode32 0x3F80921B = .ok (.movwHi ⟨0, 9, 0x3F80⟩) ∧
  decode32 0x00408637 = .ok (.kand ⟨0, 3, 1, 2⟩) ∧ decode32 0x00612041 = .ok (.sld64 ⟨8, 2, false, 3⟩) ∧
  decode32 0x49810C49 = .ok (.atom ⟨0, 6, 2, false, false, 3, 2, 4⟩) ∧ decode32 0x00000C4F = .ok (.fenceFull ⟨3⟩) ∧
  decode32 0x00050D73 = .ok (.bs ⟨2, 3, 10⟩) ∧ decode32 0x00028077 = .ok (.jmpr ⟨5, false⟩) ∧ decode32 0x000002F7 = .ok .yield ∧
  decode32 0x40628829 = .ok (.fcvt ⟨0, 4, 5, 3, 0, false, 2⟩) ∧ decode32 0x00040839 = .ok (.vbcast ⟨0, 4, 8, false, false⟩) ∧
  decode32 0x0144223F = .ok (.sshli ⟨8, 8, false, 10⟩)
/-- R38 to R43, R45, R47, R50: decoding gives back every well-formed instruction with an encoding, every operand at every value; and every
halfword or word that decodes, decodes to a well-formed instruction whose encoding it is, so that every other is refused. -/
def Obligations.DecodeEncode : Prop :=
  (∀ i c, i.wf = true → encode i = some c →
    ∀ r, decodeBytes (codeBytes c ++ r) = .ok (i, (match c with
      | .half _ => 2
      | .word _ => 4), r)) ∧
  (∀ h i, decode16 h = .ok i → i.wf = true ∧ encode i = some (.half h)) ∧
  ∀ w i, decode32 w = .ok i → i.wf = true ∧ encode i = some (.word w)
/-- Every step keeps the canonical form of every memory. -/
def Obligations.StepKeepsMemoryForm : Prop := ∀ s t, s.memWf → step s = .next t → t.memWf
/-- R7, R9, R27, R280, R331, R351, R368, R377: the registers of the functions and the cycle counters hold 0 at power-on, PORTS of CKSTAT
among them, no VF is enabled, and no launch has a core. -/
def Obligations.ResetValues : Prop :=
  let s := State.reset
  (∀ p, (fnOf s p).featReq0 = 0 ∧ (fnOf s p).featReq1 = 0 ∧ (fnOf s p).featMiss0 = 0 ∧ (fnOf s p).featMiss1 = 0 ∧
    (fnOf s p).mbusy = false ∧ (fnOf s p).mresult = 0 ∧ (fnOf s p).cbusy = false ∧ (fnOf s p).dlock = 0 ∧
    (fnOf s p).mlen_ = false ∧ ∀ q, lqOf s p q = ⟨0, 0, false, 0, 0⟩) ∧
  s.pf.featReq0 = 0 ∧ s.pf.featReq1 = 0 ∧ s.pf.vfEnable = false ∧ s.pf.ckbusy = false ∧ s.pf.ckresult = 0 ∧ portCount s = 0 ∧
  (∀ k, (coreOf s k).cyc = 0) ∧ (∀ k, (quadOf s k).cyc = 0) ∧ s.ctxs = [] ∧ s.parts = [] ∧ s.seqs = []
/-- The memories of the module after reset are in canonical form. -/
def Obligations.ResetMemoryForm : Prop := State.reset.memWf

/-- R36, R391: an instruction that retires moves its part's PC and clears its wait; no other part, no group, no context and no byte of
memory changes. -/
def Obligations.RetireFrame : Prop :=
  ∀ s pid p n pc, Cells.get? pid s.parts = some p →
    let t := retireAt (.part pid) n pc s
    Cells.get? pid t.parts = some (retiredAt s pc p) ∧ (∀ q, q ≠ pid → Cells.get? q t.parts = Cells.get? q s.parts) ∧
      CoresKept s t ∧ { t with parts := s.parts, cores := s.cores } = s
/-- A call with this slide spills no frame of the part's register window (R315, R316). -/
def noSpill (s : State) (p : Part) (g : Group) (slide : Nat) : Prop :=
  spillList g.vregs ((p.wb + slide) % g.vregs) (⟨past s p.thr, slide⟩ :: p.wstack) = []
/-- R244, R246 to R249, R254, R336: an instruction that stores nothing completes and leaves memory alone. Bridges, system forms without a
table load, special registers, branches, chits and control, calls that spill and returns that fill apart (R315 to R317), change no byte and
accept no store. Global loads accept no store and change no byte of an allocated frame or of a peer, where no walk finds a translation
outside the partition's pool (R339: that is written to the management log). Box loads change no byte. -/
def Obligations.QuietForms : Prop :=
  (∀ i F s pid p g, Runs s pid p g → (bridgeForm s pid p g i <|> systemForm s pid p g i <|> controlForm s pid p g i) = some F → F.ok →
    PartReady F p g → (∀ o, i = .call o → noSpill s p g (o.frame.toNat * 8)) → (∀ o, i = .callr o → noSpill s p g (o.frame.toNat * 8)) →
    (i = .ret → p.wstack ≠ []) → ∃ t, exec i s = .next t ∧ t.mem = s.mem ∧ t.peerMem = s.peerMem ∧ t.stores = s.stores) ∧
  (∀ i F s th, thread? s s.agent = some th → (specialForm s th i <|> branchForm s th i <|> chitForm s th i) = some F → F.ok →
    (∀ r ∈ F.unis, (sregOf th r.toNat).full = true ∧ (sregOf th r.toNat).poison = false) →
    (∀ r ∈ F.udsts, (sregOf th r.toNat).full = true) →
    ∃ t, exec i s = .next t ∧ t.mem = s.mem ∧ t.peerMem = s.peerMem ∧ t.stores = s.stores) ∧
  (∀ i F s th, (∃ o, i = .sld64 o ∨ i = .sld32 o ∨ i = .slda o) → thread? s s.agent = some th → uniMemForm s th i = some F → F.ok →
    (∀ r ∈ F.unis, (sregOf th r.toNat).full = true ∧ (sregOf th r.toNat).poison = false) →
    (∀ r ∈ F.udsts, (sregOf th r.toNat).full = true) →
    ∃ t, exec i s = .next t ∧ (t.breaches = s.breaches → MemoryKept s t)) ∧
  (∀ i F s pid p g, (∃ o, i = .ld o ∨ i = .lda o) → Runs s pid p g → memoryForm s pid p g i = some F → F.ok → PartReady F p g →
    ∃ t, exec i s = .next t ∧ (t.breaches = s.breaches → MemoryKept s t)) ∧
  ∀ o F s pid p g, Runs s pid p g → boxAccessForm s pid p g (.bld o) = some F → F.ok → PartReady F p g →
    ∃ t, exec (.bld o) s = .next t ∧ t.mem = s.mem ∧ t.peerMem = s.peerMem ∧ t.stores = s.stores ∧ t.clus = s.clus
/-- R25, R137, R243, R244, R248, R254, R353, R355, R361, R372: an access that faults performs nothing. Where the checks of its addresses
find a cause it traps with that cause in the state that it found, but for the residency mask of a `st`, set as its trap is taken, and for
the notes of translations that leave the pool (DEDUCED, log entry 77); the counters count it (DEDUCED, log entry 82). An active lane without
data in a register whose field has wait bit 1 raises EMPTY, and a poisoned one raises POISON with DETAIL 0x01 once all registers hold data.
With a handler the frame keeps the instruction's own address, and no store is accepted, no load started, no box changed. -/
def Obligations.FaultsPerformNothing : Prop :=
  (∀ i F s pid p g, Runs s pid p g → faultForm s p g i = some F → F.ok → PartReady F p g → exec i s = .next F.next) ∧
  (∀ i F s th, thread? s s.agent = some th → uniFaultForm s th i = some F → F.ok →
    (∀ r ∈ F.unis, (sregOf th r.toNat).full = true ∧ (sregOf th r.toNat).poison = false) →
    (∀ r ∈ F.udsts, (sregOf th r.toNat).full = true) → exec i s = .next F.next) ∧
  (∀ i pk fs f n l s pid p g, Runs s pid p g → accessFields i = some (pk, fs) → f ∈ fs → f.2 = true → n ∈ f.1 → l ∈ actives p g pk →
    (laneWord g p.wb n l).full = false →
    ∃ tr, tr.cause = 0x04 ∧ exec i s = .next (raised s (lanesOf 64 (activeMask p g pk)).length tr s)) ∧
  (∀ i pk fs f n l s pid p g, Runs s pid p g → accessFields i = some (pk, fs) →
    (∀ f ∈ fs, ∀ n ∈ f.1, ∀ l ∈ actives p g pk, (laneWord g p.wb n l).full = true) →
    (∀ r, accessBox i = some r → (sregOf p.thr r.toNat).full = true) → f ∈ fs → n ∈ f.1 → l ∈ actives p g pk →
    (laneWord g p.wb n l).poison = true →
    ∃ tr, tr.cause = 0x10 ∧ tr.detail = 0x01 ∧ exec i s = .next (raised s (lanesOf 64 (activeMask p g pk)).length tr s)) ∧
  ∀ s pid p g c k n tr kr m, Runs s pid p g → agentCtx s s.agent = some c → Cells.get? c s.ctxs = some k → k.tvec ≠ 0 →
    p.tstack.length < 4 → tr.cause ≠ 0x0F →
    let t := raised s n tr (setKr p.gid kr m s)
    (∃ p' f, Cells.get? pid t.parts = some p' ∧ p'.thr.pc = k.tvec ∧ p'.priv = true ∧ p'.tstack = f :: p.tstack ∧ f.pc = p.thr.pc ∧
      f.next = s.iss.len ∧ p'.thr.sregs = p.thr.sregs) ∧
    (t.breaches = s.breaches → t.stores = s.stores ∧ t.lands = s.lands ∧ t.clus = s.clus ∧ t.mem = s.mem ∧ t.peerMem = s.peerMem)
/-- R209, R210, R232, R237, R240, R246, R247, R249, R254: what a store does when it issues, strict or plain, by lanes or by an agent. In
program order and for lanes ascending: in an ordered range its bytes join what its deterministic team has staged, on a slot of a sequence
they are performed at once, elsewhere its core's queue accepts them at the address that each address reaches. A release comes first, and
where staging has no room the team writes through first; beside that a plain store that stages nothing changes no byte of an allocated
frame. A box store changes only the bytes that its lanes name, in the front copy of that box; each holds the data of the highest lane that
stores to it. The store queue and that a slot's store does not wait in it are the model's choices (DESIGN CHOICE, log entry 5); that lanes
of one instruction clear a sector's mark together is its reading (DEDUCED, log entry 106). -/
def Obligations.StoresAreQueued : Prop :=
  (∀ i o scope F s pid p g u, (i = .st o ∧ scope = none ∨ i = .stl o ∧ scope = some (o.kr.toNat + 1)) → Runs s pid p g →
    memoryForm s pid p g i = some F → F.ok → PartReady F p g →
    let n : Nat := 2 ^ o.size.toNat
    let pl := placeOf s s.agent
    let x := laneHits s p g o.pk o.va (o.x.toInt * n) .write .none n
    stagingRoom x.2 s.agent pl (x.1.map LaneHit.addr) = some u →
    ∃ t, exec i s = .next t ∧ (t.breaches = s.breaches →
      Stored (releasedFor pl scope u) t pl s.agent p.gid n x.1 (fun l => laneBytes g p.wb o.vt n l) ∧
      ((∀ h ∈ x.1, stagingTeam x.2 s.agent pl.ctx h.addr = none) → scope = none → SameStores s (releasedFor pl scope u)))) ∧
  (∀ i o n scope F s th u, (i = .sst64 o ∧ n = 8 ∧ scope = none ∨ i = .sst32 o ∧ n = 4 ∧ scope = none ∨ i = .sstl o ∧ n = 8 ∧ scope = some 3) →
    thread? s s.agent = some th → uniMemForm s th i = some F → F.ok →
    (∀ r ∈ F.unis, (sregOf th r.toNat).full = true ∧ (sregOf th r.toNat).poison = false) →
    let pl := placeOf s s.agent
    let addr := uniformAddress th o n
    let r := reachChecked s pl .write .none addr n
    stagingRoom (touched r s) s.agent pl [addr] = some u →
    ∃ t, exec i s = .next t ∧ (t.breaches = s.breaches →
      (∀ gid, (∀ pid p, s.agent = .part pid → Cells.get? pid s.parts = some p → p.gid = gid) →
        Stored (releasedFor pl scope u) t pl s.agent gid n [⟨0, addr, r⟩] (fun _ => toBytes n (sVal th o.sd).toNat)) ∧
      (stagingTeam (touched r s) s.agent pl.ctx addr = none → scope = none → SameStores s (releasedFor pl scope u)))) ∧
  ∀ o F s pid p g uid b, Runs s pid p g → boxAccessForm s pid p g (.bst o) = some F → F.ok → PartReady F p g →
    heldBox s p.gid g (sVal p.thr (boxReg o.sh)) = some (uid, b) →
    ∃ t b', exec (.bst o) s = .next t ∧
      boxIn t uid (sVal p.thr (boxReg o.sh)) = some b' ∧ b'.back = b.back ∧ b'.holder = b.holder ∧ b'.gen = b.gen ∧ b'.gran = b.gran ∧ t.mem = s.mem ∧ t.stores = s.stores ∧
      let names (l a : Nat) : Prop :=
        fits b (boxOffset p g o.va l) (2 ^ o.size.toNat) ∧ boxOffset p g o.va l ≤ a ∧ a < boxOffset p g o.va l + 2 ^ o.size.toNat
      (∀ a, (∀ l ∈ actives p g o.pk, ¬ names l a) → memByte b'.front a = memByte b.front a) ∧
      ∀ l ∈ actives p g o.pk, ∀ a, names l a → (∀ k ∈ actives p g o.pk, l < k → ¬ names k a) →
        memByte b'.front a = (operandOf p g o.vt (sizeRegs (2 ^ o.size.toNat)) l).getD (a - boxOffset p g o.va l) 0
/-- R208, R220: a store that reaches its home changes exactly its own bytes. -/
def Obligations.StoreWritesItsBytes : Prop :=
  ∀ s ticket q, (s.stores.find? fun x => x.ticket == ticket) = some q → storeFirst s q = true →
    ∃ t, exec (.homeWrite ticket) s = .next t ∧ t.stores = s.stores.filter (fun x => x.ticket != ticket) ∧
      (∀ a, memByte t.mem a = if q.peer = false ∧ q.addr ≤ a ∧ a < q.addr + q.data.length then q.data.getD (a - q.addr) 0
        else memByte s.mem a) ∧
      (∀ a, memByte t.peerMem a = if q.peer = true ∧ q.addr ≤ a ∧ a < q.addr + q.data.length then q.data.getD (a - q.addr) 0
        else memByte s.peerMem a)
/-- R329, R335, R336, R372: an access that an ordinary resident page allows reaches the page's frame, and changes nothing; where it is one
that tests poison and meets a mark, it is POISON with DETAIL 0x02. -/
def Obligations.ResidentPageReached : Prop :=
  ∀ s pl k va n pa b pg, Mapped s pl k va n pa b pg →
    (∀ pt, poisonMet s pl pt va pa n = false → reachChecked s pl k pt va n = .phys s pa b pg.size (pg.wr || pg.kind == .table)) ∧
    (∀ pt, poisonMet s pl pt va pa n = true → reachChecked s pl k pt va n = .bad 0x10 0x02) ∧ poisonMet s pl .none va pa n = false
/-- R107 to R111, R117 to R120, R197 to R199, R203: what engine operations leave in the accumulators. `mzero` leaves +0.0 in every element
of its accumulator, `mscale` multiplies each by its factor, rounded once, `mscale.row` those of row i by value i of its box, and a granted
pass that reads nothing poisoned applies its steps in order, each element the old one plus the rounded sum of the products of its rows; no
other accumulator changes. The elements of a tile are the exact values of R108, and an element's step is that of R118, rounded twice, both
said of codes. A tile whose records at one position are both infinities holds a quiet NaN there (DESIGN CHOICE, log entry 72). What follows
the end of an operation changes no accumulator where no `msig` or `mrel` is queued. -/
def Obligations.AccumulatorResults : Prop :=
  (∀ s sc op q o, dueOp s sc op q o → o.kind = .zero → seqChitOk s sc o.chit = true →
    ∃ u q', exec (.engineOpComplete sc op) s = .next (settleOps sc (setSeqChit sc o.chit false u)) ∧ OpEnded u sc q q' o ∧
      q'.afl = q.afl ∧
      ∀ a i j, i < 64 → j < 64 → accWord q' a i j = if a = accOf o then 0 else accWord q a i j) ∧
  (∀ s sc op q o c, dueOp s sc op q o → o.kind = .scale c → c.extractLsb' 32 32 = 0 → accPoisoned q (accOf o) 64 = false →
    let prod := fun i j => Num.mulV .f32 (Num.decodeF .f32 (accWord q (accOf o) i j).toNat) (Num.decodeF .f32 c.toNat)
    ∃ u q', exec (.engineOpComplete sc op) s = .next (settleOps sc (setSeqChit sc o.chit false u)) ∧ OpEnded u sc q q' o ∧
      q'.afl = q.afl ||| (List.range 4096).foldl (fun f e => f ||| (prod (e / 64) (e % 64)).2) 0 ∧
      ∀ a i j, i < 64 → j < 64 → accWord q' a i j = if a = accOf o then BitVec.ofNat 32 (prod i j).1 else accWord q a i j) ∧
  (∀ s sc op q o d b, dueOp s sc op q o → o.kind = .scaleRow d → descOk d = true → lentBox s sc q (descHandle d) = some b →
    descOff d + 256 ≤ b.bytes → descOff d % 128 = 0 → boxPoison b (descOff d) 256 = none → accPoisoned q (accOf o) 64 = false →
    let prod := fun i j => Num.mulV .f32 (Num.decodeF .f32 (accWord q (accOf o) i j).toNat)
      (Num.decodeF .f32 (ofBytes (memBytes b.front (descOff d + 4 * i) 4)))
    ∃ u q', exec (.engineOpComplete sc op) s = .next (settleOps sc (setSeqChit sc o.chit false u)) ∧ OpEnded u sc q q' o ∧
      q'.afl = q.afl ||| (List.range 4096).foldl (fun f e => f ||| (prod (e / 64) (e % 64)).2) 0 ∧
      ∀ a i j, i < 64 → j < 64 → accWord q' a i j = if a = accOf o then BitVec.ofNat 32 (prod i j).1 else accWord q a i j) ∧
  (∀ s sc q o dense shape a b ba bb, hasArray s sc = true → grantedOp s sc = some (q, o) → o.kind = .pass dense shape a b → shape < 7 →
    (∀ e ∈ q.ops, e.id = o.id → e = o) → (dense = true ↔ 4 ≤ shape) → o.pos = 0 → passBox s q (descHandle a) = some ba →
    passBox s q (descHandle b) = some bb → passSound q o ba bb →
    ∃ u q', exec (.passComplete sc) s = .next (settleOps sc (setSeqChit sc o.chit false u)) ∧ OpEnded u sc q q' o ∧
      ∀ x i j, i < 64 → j < 64 → accWord q' x i j = ((stepsOf o ba bb).filter fun st => st.1 == x).foldl (fun w st =>
        if i < st.2.1 ∧ j < st.2.1 then BitVec.ofNat 32 (Num.stepElem w.toNat (st.2.2.1 i) (st.2.2.2 j)).1 else w) (accWord q x i j)) ∧
  (∀ s sc q, Cells.get? sc s.seqs = some q → (∀ e ∈ q.ops, e.engine = true) →
    ∃ q', Cells.get? sc (settleOps sc s).seqs = some q' ∧ q'.acc = q.acc ∧ q'.afl = q.afl) ∧
  (∀ h b recs r, h.beta < 0x7F80 → r < 64 → ∃ row, (Num.tileValues h b recs)[r]? = some row ∧ row.length = 64 ∧
    ∀ c < 64, ∃ x, row[c]? = some x ∧ IsElement h b recs r c x) ∧
  ∀ (u : Nat) (acc : Word) a b, (∀ v, .fin v ∈ a ++ b → -(u : Int) ≤ v.e) → IsStep u acc.toNat a b (Num.stepElem acc.toNat a b)
/-- R76 to R88, R95, R152 to R156, R158 to R160, R162: what the arithmetic of lanes computes, said of codes alone: the class of a code, the
steps of `exp2`, with the constants of R95 (DEDUCED, log entry 33); sums, differences, products, fused sums, quotients, roots and
reciprocals of F32, packed BF16 and F16 arithmetic, scaling, rounding to an integral value, and conversions are the exact results rounded
once, with the flags and special values of the rules. An 8-bit NaN converted to an integer sets INV, and a signalling NaN sets it in an
exact conversion too (DEDUCED, log entry 88). -/
def Obligations.RoundingResults : Prop :=
  (∀ a : Word, fclassW a = BitVec.ofNat 32 (2 ^ classBit a.toNat) ∧ IsExp2 a.toNat (laneResult (Num.exp2Arch a))) ∧
  (∀ a b : Word, IsSum .f32 a.toNat b.toNat (laneResult (faddW a b)) ∧
    IsSum .f32 a.toNat (b ^^^ 0x80000000).toNat (laneResult (fsubW a b)) ∧
    IsProduct .f32 a.toNat b.toNat (laneResult (fmulW a b)) ∧ IsQuotient a.toNat b.toNat (laneResult (fdivW a b))) ∧
  (∀ d a b : Word, IsFused .f32 a.toNat b.toNat d.toNat (laneResult (ffmaW d a b)) ∧
    IsFused .f32 (a ^^^ 0x80000000).toNat b.toNat d.toNat (laneResult (fnmaW d a b))) ∧
  (∀ a : Word, IsRoot a.toNat (laneResult (fsqrtW a)) ∧ IsReciprocal a.toNat (laneResult (frcpW a)) ∧
    IsRecipRoot a.toNat (laneResult (frsqW a))) ∧
  (∀ t, t = .bf16 ∨ t = .f16 → ∀ d a b : Word,
    Packed (fun e => IsSum t (packedElem a e) (packedElem b e)) (paddW t a b) ∧
    Packed (fun e => IsProduct t (packedElem a e) (packedElem b e)) (pmulW t a b) ∧
    Packed (fun e => IsFused t (packedElem a e) (packedElem b e) (packedElem d e)) (pfmaW t d a b)) ∧
  (∀ a b : Word, if nanCode .f32 a.toNat then fscaleW a b = (0x7FC00000, if sigCode .f32 a.toNat then Num.fINV else Num.fNone)
    else if infCode .f32 a.toNat then fscaleW a b = (a, Num.fNone)
    else Rounded .f32 .rne (negCode .f32 a.toNat) (magnitude .f32 a.toNat * 2 ^ b.toInt.toNat) (2 ^ (-b.toInt).toNat)
      (laneResult (fscaleW a b))) ∧
  (∀ mode (a : Word), if nanCode .f32 a.toNat then Num.fround mode a = (0x7FC00000, if sigCode .f32 a.toNat then Num.fINV else Num.fNone)
    else if infCode .f32 a.toNat then Num.fround mode a = (a, Num.fNone)
    else ∃ y r, RoundedInt mode (negCode .f32 a.toNat) (magnitude .f32 a.toNat) (2 ^ 149) y ∧ Num.fround mode a = (r, Num.fNone) ∧
      finiteCode .f32 r.toNat = true ∧ magnitude .f32 r.toNat = y * 2 ^ 149 ∧ negCode .f32 r.toNat = negCode .f32 a.toNat) ∧
  (∀ f g mode (a : Word), f ≠ g → IsConverted f g mode a.toNat (laneResult (Num.fcvt (.flt f) (.flt g) mode a))) ∧
  (∀ f mode (a : Word), IsInteger f (-2147483648) 2147483647 mode a.toNat (Num.fcvt (.flt f) .i32 mode a) ∧
    IsInteger f 0 4294967295 mode a.toNat (Num.fcvt (.flt f) .n32 mode a)) ∧
  ∀ g mode (a : Word),
    Rounded g mode (decide (a.toInt < 0)) (a.toInt.natAbs * 2 ^ 149) 1 (laneResult (Num.fcvt .i32 (.flt g) mode a)) ∧
    Rounded g mode false (a.toNat * 2 ^ 149) 1 (laneResult (Num.fcvt .n32 (.flt g) mode a)) ∧
    Num.fcvt .i32 .n32 mode a = (if a.toInt < 0 then (0, Num.fSAT) else (a, Num.fNone)) ∧
    Num.fcvt .n32 .i32 mode a = (if 2 ^ 31 ≤ a.toNat then (0x7FFFFFFF, Num.fSAT) else (a, Num.fNone))
/-- R89 to R94, R96 to R99: comparisons, minima and maxima and index searches follow the values of their codes; a reduction is the fixed
tree over its leaves, with the flags of every node; a block exponent is the largest of its terms'; terms of a binned sum, their sums and the
end of one are exact or rounded once. That `bfin` tests E before the infinity codes is the model's choice (DESIGN CHOICE, log entry 97). -/
def Obligations.OrderAndSumResults : Prop :=
  (∀ max num (a b : Word),
    let x := a.toNat
    let y := b.toNat
    let fl := if sigCode .f32 x || sigCode .f32 y then Num.fINV else Num.fNone
    fminmaxW max num a b =
      if nanCode .f32 x then (if num ∧ nanCode .f32 y = false then (b, fl) else (0x7FC00000, fl))
      else if nanCode .f32 y then (if num then (a, fl) else (0x7FC00000, fl))
      else if (if max then below .f32 x y else below .f32 y x) then (b, Num.fNone) else (a, Num.fNone)) ∧
  (∀ t cond a b, Num.fcmpHolds t cond a b = (relation t cond a b, if sigCode t a || sigCode t b then Num.fINV else Num.fNone)) ∧
  (∀ t max (v : Nat → Nat) a b, ranksBefore t max v a b =
    (outranks t max (v a) (v b) || (!outranks t max (v b) (v a) && decide (a < b)))) ∧
  (∀ op k (v : Nat → Word) act, op < 11 →
    let f := reductionOp op
    let leaf := fun j => if act j then v j else reductionId op
    (reduceLanes op (2 ^ k) v act).1 = treeAt f leaf k 0 ∧
    ∀ n, (reduceLanes op (2 ^ k) v act).2.getLsbD n = true ↔
      ∃ j i, j < k ∧ i < 2 ^ (k - j - 1) ∧ (f (treeAt f leaf j (2 * i)) (treeAt f leaf j (2 * i + 1))).2.getLsbD n = true) ∧
  (∀ (v : Nat → Word) ls,
    let e := blockExp v ls
    e ≤ 127 ∧ -126 ≤ e ∧ (∀ l ∈ ls, finiteCode .f32 (v l).toNat = true → magnitude .f32 (v l).toNat < 2 ^ (e + 150).toNat) ∧
    (e ≠ -126 → ∃ l ∈ ls, finiteCode .f32 (v l).toNat = true ∧ 2 ^ (e + 149).toNat ≤ magnitude .f32 (v l).toNat)) ∧
  (∀ (x : Word) e, IsBinned x.toNat e (Num.binnedConvert x e)) ∧
  (∀ a b, IsBinnedSum a b (Num.binnedAdd a b)) ∧
  ∀ a e, IsBinnedEnd a e (laneResult (Num.binnedFinal a e))
/-- R47, R53, R55, R256, R258, R264, R267, R278, R314, R315, R317, R386, R388: where instructions raise causes, each with the first of its
ordered checks that fails, in the state that it found: a jump's target, a call's and a return's window, the flags of a `tfence`, the image
of a `dload`, the boxes of box management, the operands of commands, the handle and descriptor of a sequence. A reference to an undefined
entry raises DICT, one whose filled word is undefined UNDEF, one to a poisoned entry POISON; an agent whose fetch fails, or finds an
undefined word, takes that cause at its turn. The model's choices: the order of the checks of commands that the rules leave open (DESIGN
CHOICE, log entry 86), `bxgive` testing its target before the lends, with a bit of 63:8 an outside target (DESIGN CHOICE, log entry 87), the
order of the causes of a call's spill (DESIGN CHOICE, log entry 104), and `sqfork` waiting for a segment before SEQC 0x07 (DESIGN CHOICE,
log entry 91). Its readings: SEQC 0x05 against 0x01 of `sqmint` and `sqfork` (DEDUCED, log entry 40), the length that `mdec` checks
(DEDUCED, log entry 46), FLTVA of `dload` (DEDUCED, log entry 47), what the counters count (DEDUCED, log entry 82), and NOPAGE of a
descriptor of `cpy` (DEDUCED, log entry 94). The notes of dropped sequences that a cause clears are the model's own. -/
def Obligations.CausesRaised : Prop :=
  (∀ i F s pid p g c, Runs s pid p g → causeForm s pid p g i = some F → CauseReady F p g → FirstFails F.checks c →
    exec i s = .next (raised s F.count c.2.1 c.2.2)) ∧
  (∀ o s th c, thread? s s.agent = some th → (sregOf th o.sa.toNat).full = true → (sregOf th o.sa.toNat).poison = false →
    FirstFails (targetChecks s (sVal th o.sa)) c → exec (.jmpr o) s = .next (raised s 0 c.2.1 s)) ∧
  (∀ o s pid p g, Runs s pid p g →
    let e := refEntry s pid o.entry
    let n : BitVec 8 := o.entry.setWidth 8
    let answers (t : State) : Prop := exec (.dictionaryReference o) s = .next (holdRef pid p.thr o.entry e t)
    (e.poison = true → answers (takeTrap s.agent s.iss.len (Trap.plain 0x10 0x05) s)) ∧
    (e.poison = false → e.val.getLsbD 63 = false → answers (raised s 0 (Trap.plain 0x02 n) s)) ∧
    ∀ er, e.poison = false → e.val.getLsbD 63 = true → decode32 (fillEntry e.val o.ha o.hb) = .error er →
      answers (raised s 0 (Trap.plain 0x01 n) s)) ∧
  (∀ s a u th n tr w, nextTurn s = (.turn (.agent a), u) → mayIssue u a = true → thread? u a = some th → heldWait th.wait = false →
    fetchAt u (placeOf u a) th.pc = (.trap n tr, w) →
    step s = .next (afterTurn a (takeTrap a n tr { w with agent := a, iss := ⟨n, none⟩ }))) ∧
  ∀ s pl pc h t k v er, fetchHalf s pl pc = (.ok h, t) → h.getLsbD 0 = true →
    fetchHalf t pl (pc56 (pc + 2)) = (.ok k, v) → decode32 (k ++ h) = .error er →
    fetchAt s pl pc = (.trap 4 (Trap.plain 0x01 0xFF), v)
/-- R107 to R116, R187, R191, R192, R200 to R202, R228, R264 to R268: what commands and engine operations leave once they complete, byte by
byte. `cpy` writes each element of its source, converted, or zeros, where its tuple says, the later in loop order over the earlier, or
encodes them into a tile; `cpyx` gathers blocks, and zeros for indices out of range; `cpyq` leaves the records of its tiles in its queue, in
order; `menc` and `mdec` leave their tile and flags; `xsend` sends the bytes of its source, `xrecv` writes those that arrived, `xred` the
maxima or the sums over all devices; `mdrain` leaves the accumulator in the escrow copy, and `mstore` its elements, scaled, clamped and
rounded once, in memory. Nothing else of boxes and memory changes. Operands of memory lie in ordinary resident pages; sources do not overlap
what is written, as R264 asks. What the encoder and the decoder make of a tile is said of codes, by the procedure of R114 and the values of
R108. The model's choices and readings: elements that no tuple writes are encoded as 0 (DESIGN CHOICE, log entry 74), a command acts in one
step (DESIGN CHOICE, log entry 1), PHASE 0 is the maximum (DEDUCED, log entry 96), an infinite product in E4M3 (DESIGN CHOICE, log entry
90), how messages meet, with an `xred` keeping the bytes that it announced (DEDUCED, log entry 44), formats that `cpy` leaves unread without
a conversion (DESIGN CHOICE, log entry 86), and +0 for an element of `mdec` whose value is zero (DESIGN CHOICE, log entry 89). -/
def Obligations.CommandResults : Prop :=
  (∀ p (x : Array Nat), EncoderFits p → x.size = 4096 → (∀ e < 4096, x.getD e 0 < 2 ^ 16) →
    IsEncoded p (fun e => x.getD e 0) (Num.encodeTile p x)) ∧
  (∀ h b, h.beta < 0x7F80 →
    let recs := (List.range h.nout.sum).map fun i => BitVec.ofNat 32 (littleEndian (fun j => b.getD j 0) (832 + 512 * (if h.f4 then 4 else 3) + 4 * i) 4)
    let r := Num.decodeTile h b
    r.1.length = 8192 ∧ ∃ y : Nat → Nat × Num.Flags,
      (∀ e < 4096, (∃ x, IsElement h b recs (e / 64) (e % 64) x ∧ IsNarrowed x (y e)) ∧
        littleEndian (fun j => r.1.getD j 0) (2 * e) 2 = (y e).1) ∧
      r.2 = (List.range 4096).foldl (fun f e => f ||| (y e).2) 0) ∧
  (∀ c u quad, let t := markEligible quad (endCmd c u)
    t.mem = u.mem ∧ t.peerMem = u.peerMem ∧ t.clus = u.clus ∧ t.quads = u.quads ∧ t.cmds = (u.cmds.filter fun m => m.ticket != c.ticket) ∧
    (∀ k x, c.chit = some k → Cells.get? c.tid u.teams = some x → (chitRange x).getLsbD k.toNat = true →
      Cells.get? c.tid t.teams = some { x with chr := x.chr ||| (1#64 <<< k.toNat) }) ∧
    ∀ pid p n, c.chit = none → c.who = .part pid → Cells.get? pid u.parts = some p → p.thr.wait = .command c.ticket n →
      ∃ p', Cells.get? pid t.parts = some p' ∧ p'.thr.wait = .none ∧ p'.thr.pc = (p.thr.pc + BitVec.ofNat 64 n) &&& 0xFFFFFFFFFFFFFF) ∧
  (∀ s ticket c d loc, commandRuns s ticket c → c.kind = .cpy d →
    let n := copyField d 2 + 1
    let z := cpySizes d
    let sbox := d.ctrl.getLsbD 0
    let dbox := d.ctrl.getLsbD 1
    let tuple (i : Nat → Nat) : Prop := ∀ k < n, i k < d.count.getD k 0
    let valid (i : Nat → Nat) : Prop := ∀ k < n, i k < d.valid.getD k 0
    let writes (i : Nat → Nat) : Prop := tuple i ∧ (valid i ∨ d.ctrl.getLsbD 18 = true)
    let src := copyAddr (copyStart sbox d.src) n d.sstride
    let dst := copyAddr (copyStart dbox d.dst) n d.dstride
    let read (i : Nat → Nat) := cpyConvert d (operandBytes s c sbox d.src loc (src i) z.1)
    CopyLegal d n → (∀ i, tuple i → valid i → OperandReads s c sbox d.src (src i) z.1 loc) →
    (d.ctrl.getLsbD 19 = false → (∀ i, writes i → OperandWrites s c dbox d.dst (dst i) z.2 loc) →
      (dbox = false → Apart loc fun a => ∃ i, writes i ∧ dst i ≤ a ∧ a < dst i + z.2) →
      (∀ i k x y, tuple i → valid i → writes k → x < z.1 → y < z.2 → (sbox = false → dbox = false → loc (src i + x) ≠ loc (dst k + y)) ∧
        (sbox = true → dbox = true → boxKey (descHandle d.src) = boxKey (descHandle d.dst) → src i + x ≠ dst k + y)) →
      ∃ u w, exec (.commandComplete ticket) s = .next (markEligible (coreQuad c.core) (endCmd c u)) ∧ OperandHolds s u c dbox d.dst loc w ∧
        (∀ i x, writes i → x < z.2 →
          (∀ k, writes k → copyOrder d n i < copyOrder d n k → ¬ (dst k ≤ dst i + x ∧ dst i + x < dst k + z.2)) →
          (valid i → w (dst i + x) = (read i)[x]?) ∧ (¬ valid i → w (dst i + x) = some 0)) ∧
        ∀ a, (∀ i, writes i → ¬ (dst i ≤ a ∧ a < dst i + z.2)) → w a = none) ∧
    ∀ p, d.ctrl.getLsbD 19 = true → n = 2 → d.count.getD 0 0 = 64 → d.count.getD 1 0 = 64 → dbox = true → encParam d.param = some p →
      let at_ (e k : Nat) : Nat := if k = 0 then e % 64 else e / 64
      ∀ code : Nat → Nat, (∀ e < 4096, (valid (at_ e) → code e = ofBytes (read (at_ e))) ∧ (¬ valid (at_ e) → code e = 0)) →
      let out := (Num.encodeTile p ((Array.range 4096).map code)).bytes
      OperandWrites s c true d.dst (descOff d.dst) out.length loc →
      ∃ u, exec (.commandComplete ticket) s = .next (markEligible (coreQuad c.core) (endCmd c u)) ∧
        OperandHolds s u c true d.dst loc (bytesAt (descOff d.dst) out)) ∧
  (∀ s ticket c d base blk limit idx loc, commandRuns s ticket c → c.kind = .cpyx d base blk limit idx → (idx.map Prod.fst).Nodup →
    (∀ q ∈ idx, OperandWrites s c true d (descOff d + q.1 * blk) blk loc) →
    (∀ q ∈ idx, q.2 < limit → OperandReads s c false 0 ((base + q.2 * blk) % 2 ^ 64) blk loc) →
    ∃ u w, exec (.commandComplete ticket) s = .next (markEligible (coreQuad c.core) (endCmd c u)) ∧ OperandHolds s u c true d loc w ∧
      (∀ q ∈ idx, ∀ x < blk, w (descOff d + q.1 * blk + x) =
        some (if q.2 < limit then memByte s.mem (loc ((base + q.2 * blk) % 2 ^ 64 + x)) else 0)) ∧
      ∀ a, (∀ q ∈ idx, ¬ (descOff d + q.1 * blk ≤ a ∧ a < descOff d + q.1 * blk + blk)) → w a = none) ∧
  (∀ s ticket c a w loc (tile : Nat → Num.TileHead) (pos : Nat → Nat), commandRuns s ticket c → c.kind = .cpyq a w →
    let n := w.toNat / 2 ^ 5 % 4 + 1
    let k := w.toNat % 16
    let quad := coreQuad c.core
    let box := w.getLsbD 4
    cpyqTurn s c k = true → c.pushed ≤ n → (queueOf s quad k).length + (n - c.pushed) ≤ 4 → pos c.pushed = copyStart box a + c.pos →
    (∀ j, c.pushed ≤ j → j < n →
      let t := tile j
      let body := 832 + 512 * Num.planes t.f4
      let bytes := body + 64 * t.cap
      pos (j + 1) = pos j + (bytes + 127) / 128 * 128 ∧ Num.readHead (operandBytes s c box a loc (pos j) 64).toArray = some t ∧
      OperandReads s c box a (pos j) 64 loc ∧ OperandReads s c box a (pos j + body) (bytes - body) loc ∧
      (box = true → ∃ x, teamBox s c.tid (descHandle a) = some x ∧ pos j + bytes ≤ x.2.bytes)) →
    ∃ u, exec (.commandComplete ticket) s = .next (markEligible quad (endCmd c u)) ∧
      exec (.outlierQueuePush ticket) s = .next (markEligible quad (endCmd c u)) ∧ u.mem = s.mem ∧ u.clus = s.clus ∧
      (∀ x y, (x ≠ quad ∨ y ≠ k) → queueOf u x y = queueOf s x y) ∧
      queueOf u quad k = queueOf s quad k ++ (List.range (n - c.pushed)).map fun j =>
        let t := tile (c.pushed + j)
        ⟨BitVec.ofNat 16 t.tensor, (List.range t.nout.sum).map fun i =>
          BitVec.ofNat 32 (ofBytes (operandBytes s c box a loc (pos (c.pushed + j) + (832 + 512 * Num.planes t.f4) + 4 * i) 4)), false⟩) ∧
  (∀ s ticket c d src w p g, commandRuns s ticket c → c.kind = .menc d src w → encParam w = some p → Cells.get? c.gid s.groups = some g →
    let code (i : Nat) : Nat := ofBytes (operandBytes s c true src id (descOff src + 2 * i) 2)
    let r := Num.encodeTile p ((Array.range 4096).map code)
    OperandReads s c true src (descOff src) 8192 id → OperandWrites s c true d (descOff d) r.bytes.length id →
    ∃ u, exec (.commandComplete ticket) s = .next (markEligible (coreQuad c.core) (endCmd c u)) ∧
      OperandHolds s u c true d id (bytesAt (descOff d) r.bytes) ∧
      Cells.get? c.gid u.groups = some { g with
        afl := g.afl ||| r.flags
        ovf := match r.ovf with
          | some (i, n) => recordOvf g.ovf i n (BitVec.ofNat 16 p.tensor)
          | none => g.ovf }) ∧
  (∀ s ticket c d src t g, commandRuns s ticket c → c.kind = .mdec d src → Cells.get? c.gid s.groups = some g →
    let n := Num.tileBytes t.f4 t.cap
    let r := Num.decodeTile t (operandBytes s c true src id (descOff src) n).toArray
    OperandReads s c true src (descOff src) 64 id → Num.readHead (operandBytes s c true src id (descOff src) 64).toArray = some t →
    OperandReads s c true src (descOff src) n id → OperandWrites s c true d (descOff d) r.1.length id →
    ∃ u, exec (.commandComplete ticket) s = .next (markEligible (coreQuad c.core) (endCmd c u)) ∧
      OperandHolds s u c true d id (bytesAt (descOff d) r.1) ∧ Cells.get? c.gid u.groups = some { g with afl := g.afl ||| r.2 }) ∧
  (∀ s ticket c a w m loc, commandRuns s ticket c → c.kind = .xsend a w →
    let box := w.getLsbD 15
    let n := w.toNat / 2 ^ 16 % 2 ^ 32
    xferTurn s c = true → arrivalOf s (w.setWidth 9) 1 (w.extractLsb' 9 6) = some m → xferLen m.word = n →
    OperandReads s c box a (copyStart box a) n loc →
    ∃ u, exec (.commandComplete ticket) s = .next (markEligible (coreQuad c.core) (endCmd c
        (announce (w.setWidth 9) 0 (w.extractLsb' 9 6) w (operandBytes s c box a loc (copyStart box a) n) (takeArrival m u)))) ∧
      u.mem = s.mem ∧ u.clus = s.clus ∧ u.arrivals = s.arrivals ∧ u.out = s.out) ∧
  (∀ s ticket c a w m loc, commandRuns s ticket c → c.kind = .xrecv a w →
    let box := w.getLsbD 15
    let n := w.toNat / 2 ^ 16 % 2 ^ 32
    xferTurn s c = true → arrivalOf s (w.setWidth 9) 0 (w.extractLsb' 9 6) = some m → xferLen m.word = n → m.data.length = n →
    OperandWrites s c box a (copyStart box a) n loc →
    (box = false → Apart loc fun x => copyStart box a ≤ x ∧ x < copyStart box a + n) →
    ∃ u, exec (.commandComplete ticket) s = .next (markEligible (coreQuad c.core) (endCmd c u)) ∧
      OperandHolds s u c box a loc (bytesAt (copyStart box a) m.data)) ∧
  (∀ s ticket c a w loc, commandRuns s ticket c → c.kind = .xred a w →
    let chan := w.extractLsb' 19 6
    let z := if w.getLsbD 25 then 16 else 4
    let n := redElems w * z
    let at_ := a.toNat
    let buf (d : BitVec 9) (x : Nat) : Byte :=
      if d = Config.deviceId then (if fresh c then memByte s.mem (loc (at_ + x)) else c.sent.getD x 0)
      else ((arrivalOf s d 2 chan).map fun m => m.data.getD x 0).getD 0
    let value (d : BitVec 9) (e : Nat) : Nat := ofBytes ((List.range z).map fun x => buf d (e * z + x))
    0 < redCount w → redFirst w + redCount w ≤ 512 → Config.deviceId ∈ redDevs w → xferTurn s c = true → strangers s chan w = [] →
    (∀ d ∈ redDevs w, d ≠ Config.deviceId → ∃ m, arrivalOf s d 2 chan = some m ∧ m.word = w ∧ m.data.length = n) →
    (fresh c = true → OperandReads s c false a at_ n loc) → (fresh c = false → c.sent.length = n) →
    OperandWrites s c false a at_ n loc → Apart loc (fun x => at_ ≤ x ∧ x < at_ + n) →
    ∃ u r, exec (.commandComplete ticket) s = .next (markEligible (coreQuad c.core) (endCmd c u)) ∧ r.length = n ∧
      OperandHolds s u c false a loc (bytesAt at_ r) ∧ ∀ e < redElems w, let y := ofBytes ((r.drop (e * z)).take z)
        (w.getLsbD 25 = false → (∃ d ∈ redDevs w, y = value d e) ∧ ∀ d ∈ redDevs w, signedOf 4 (value d e) ≤ signedOf 4 y) ∧
        (w.getLsbD 25 = true → y = (((redDevs w).drop 1).foldl (fun t d => (Num.binnedAdd t (BitVec.ofNat 128 (value d e))).1)
          (BitVec.ofNat 128 (value (BitVec.ofNat 9 (redFirst w)) e))).toNat)) ∧
  (∀ s sc op q o d b, dueOp s sc op q o → o.kind = .drain d → boxIn s q.uid (descHandle d) = some b → b.escrow = true →
    (o.pos = 0 → descOk d = true ∧ (∃ l ∈ b.lends, l.quad = sc / 8 ∧ l.recalled = false) ∧ descOff d + 16384 ≤ b.bytes ∧
      descOff d % 128 = 0 ∧ seqChitOk s sc o.chit = true ∧ accPoisoned q (accOf o) 64 = false) →
    (0 < o.pos → accPoisonFrom q (accOf o) (32 * o.pos) = false) →
    ∃ u q', exec (.engineOpComplete sc op) s = .next (settleOps sc (setSeqChit sc o.chit false u)) ∧ OpEnded u sc q q' o ∧
      q'.acc = q.acc ∧ q'.afl = q.afl ∧ BoxHolds s u q.uid (descHandle d) b fun x =>
        if descOff d + 128 * o.pos ≤ x ∧ x < descOff d + 16384 then
          (toBytes 4 (accWord q (accOf o) ((x - descOff d) / 256) ((x - descOff d) / 4 % 64)).toNat)[(x - descOff d) % 4]? else none) ∧
  ∀ s sc op q o a epi scope loc, dueOp s sc op q o → o.kind = .store a epi scope →
    let fmt := epi.toNat / 2 ^ 32 % 8
    let t := Num.epiFmt fmt
    let size := if fmt = 0 then 4 else if fmt < 3 then 2 else 1
    let step := epi.toNat / 2 ^ 52 * 64
    let stride := if step = 0 then 64 * size else step
    let left (i v : Nat) : Prop := i < 64 ∧ v < size ∧ o.pos ≤ i * size + v
    (o.pos = 0 → o.asked = [] → a.toNat < 2 ^ 56 ∧ fmt ≤ 4 ∧ (step = 0 ∨ 64 * size ≤ step) ∧ a.toNat % 64 = 0 ∧ seqChitOk s sc o.chit = true) →
    accPoisonFrom q (accOf o) (64 / size * o.pos) = false →
    (∀ i v, left i v → EngineReaches s { ctx := q.ctx, part := ctxPart s q.ctx, core := 1024 + sc / 8, die := sc / 8 / 48 } .engineWrite (a.toNat + i * stride + 64 * v) 64 loc) →
    Apart loc (fun x => ∃ i v, left i v ∧ a.toNat + i * stride + 64 * v ≤ x ∧ x < a.toNat + i * stride + 64 * v + 64) →
    (step = 0 ∨ 64 * size ≤ step) →
    ∃ u q', ∃ y : Nat → Nat → Nat × Num.Flags, exec (.engineOpComplete sc op) s = .next (settleOps sc (setSeqChit sc o.chit false u)) ∧
      OpEnded u sc q q' o ∧
      (∀ i j, i < 64 → j < 64 → IsStored t (accWord q (accOf o) i j).toNat (epi.setWidth 32).toNat (epi.getLsbD 35) (epi.toNat / 2 ^ 36 % 2 ^ 16) (y i j)) ∧
      q'.acc = q.acc ∧ q'.afl = q.afl ||| ((List.range 4096).foldl (fun f e => f ||| (y (e / 64) (e % 64)).2) 0 &&&
        (Num.fINV ||| Num.fOVF ||| Num.fUNF ||| Num.fINX ||| Num.fSAT)) ∧
      ∃ w, MemoryHolds s u loc w ∧
        (∀ i j x, i < 64 → j < 64 → x < size → o.pos ≤ i * size + j * size / 64 →
          w (a.toNat + i * stride + j * size + x) = (toBytes size (y i j).1)[x]?) ∧
        ∀ x, (∀ i v, left i v → ¬ (a.toNat + i * stride + 64 * v ≤ x ∧ x < a.toNat + i * stride + 64 * v + 64)) → w x = none
end

