-- ==== Sys2Proof/Laws/Cells.lean ====
section
/-!
SUPPORT. Laws of sorted tables: read after write, and that every operation keeps the canonical form.
-/

namespace Sys2Proof.Cells

variable {α : Type}

/-- A listed value is read back. -/
@[simp] theorem get?_insert_self (k : Nat) (v : α) (m : Cells α) : get? k (insert k v m) = some v := by
  induction m with
  | nil => simp [insert, get?]
  | cons q r ih =>
    obtain ⟨j, w⟩ := q
    unfold insert
    split
    · simp [get?]
    · split
      · simp [get?]
      · simp [get?, ih]; omega

/-- A write leaves every other key alone. -/
theorem get?_insert_ne {j k : Nat} (h : j ≠ k) (v : α) (m : Cells α) : get? j (insert k v m) = get? j m := by
  induction m with
  | nil => simp [insert, get?]; omega
  | cons q r ih =>
    obtain ⟨i, w⟩ := q
    unfold insert
    split
    · rw [get?, if_neg (by omega)]
    · split
      · rename_i _ e; subst e; simp only [get?]; rw [if_neg (by omega), if_neg (by omega)]
      · simp only [get?, ih]

/-- A removed key is not listed. -/
@[simp] theorem get?_erase_self (k : Nat) (m : Cells α) : get? k (erase k m) = none := by
  induction m with
  | nil => rfl
  | cons q r ih =>
    obtain ⟨i, w⟩ := q
    unfold erase
    split
    · exact ih
    · rename_i e; simp only [get?]; rw [if_neg e, ih]

/-- A removal leaves every other key alone. -/
theorem get?_erase_ne {j k : Nat} (h : j ≠ k) (m : Cells α) : get? j (erase k m) = get? j m := by
  induction m with
  | nil => rfl
  | cons q r ih =>
    obtain ⟨i, w⟩ := q
    unfold erase
    split
    · rename_i e; subst e; rw [ih]; simp only [get?]; rw [if_neg (by omega)]
    · simp only [get?, ih]

/-- A table with a default reads what was last written to a key. -/
@[simp] theorem get_put_self [DecidableEq α] (d : α) (k : Nat) (v : α) (m : Cells α) : get d k (put d k v m) = v := by
  unfold put get
  split <;> simp_all

/-- Writing a key of a table with a default leaves every other key alone. -/
theorem get_put_ne [DecidableEq α] {j k : Nat} (h : j ≠ k) (d : α) (v : α) (m : Cells α) :
    get d j (put d k v m) = get d j m := by
  unfold put get
  split
  · rw [get?_erase_ne h]
  · rw [get?_insert_ne h]

/-- A changed value is read back changed. -/
@[simp] theorem get?_modify_self (k : Nat) (f : α → α) (m : Cells α) : get? k (modify k f m) = (get? k m).map f := by
  induction m with
  | nil => rfl
  | cons q r ih =>
    obtain ⟨i, w⟩ := q
    unfold modify
    split
    · rename_i e; subst e; simp [get?]
    · rename_i e; simp only [get?]; rw [if_neg e, if_neg e, ih]

/-- A change leaves every other key alone. -/
theorem get?_modify_ne {j k : Nat} (h : j ≠ k) (f : α → α) (m : Cells α) : get? j (modify k f m) = get? j m := by
  induction m with
  | nil => rfl
  | cons q r ih =>
    obtain ⟨i, w⟩ := q
    unfold modify
    split
    · rename_i e; subst e; simp only [get?]; rw [if_neg (by omega), if_neg (by omega)]
    · simp only [get?, ih]

/-! ### The canonical form -/

/-- Keys rise strictly, said of all pairs. -/
theorem sorted_iff (m : Cells α) : sorted m = true ↔ m.Pairwise fun p q => p.1 < q.1 := by
  induction m with
  | nil => simp [sorted]
  | cons q r ih =>
    obtain ⟨j, v⟩ := q
    cases r with
    | nil => simp [sorted]
    | cons q' r =>
      obtain ⟨k, w⟩ := q'
      simp only [sorted, Bool.and_eq_true, decide_eq_true_eq, ih, List.pairwise_cons]
      refine ⟨fun ⟨h, h1, h2⟩ => ⟨?_, h1, h2⟩, fun ⟨h, h1, h2⟩ => ⟨h (k, w) (by simp), h1, h2⟩⟩
      intro a ha
      rcases List.mem_cons.mp ha with rfl | ha
      · exact h
      · exact Nat.lt_trans h (h1 a ha)

/-- The canonical form, said of all pairs. -/
theorem canon_iff [DecidableEq α] (d : α) (m : Cells α) :
    canon d m = true ↔ m.Pairwise (fun p q => p.1 < q.1) ∧ ∀ p ∈ m, p.2 ≠ d := by
  simp [canon, sorted_iff, List.all_eq_true]

/-- What a removal leaves was there before. -/
theorem mem_of_mem_erase {k : Nat} {m : Cells α} {p : Nat × α} (h : p ∈ erase k m) : p ∈ m := by
  induction m with
  | nil => simp [erase] at h
  | cons q r ih =>
    obtain ⟨i, w⟩ := q
    unfold erase at h
    split at h
    · exact List.mem_cons_of_mem _ (ih h)
    · rcases List.mem_cons.mp h with rfl | h
      · simp
      · exact List.mem_cons_of_mem _ (ih h)

/-- A write adds one pair at most. -/
theorem mem_of_mem_insert {k : Nat} {v : α} {m : Cells α} {p : Nat × α} (h : p ∈ insert k v m) : p = (k, v) ∨ p ∈ m := by
  induction m with
  | nil => simpa [insert] using h
  | cons q r ih =>
    obtain ⟨i, w⟩ := q
    unfold insert at h
    split at h
    · rcases List.mem_cons.mp h with rfl | h
      · exact .inl rfl
      · exact .inr h
    · split at h
      · rcases List.mem_cons.mp h with rfl | h
        · exact .inl rfl
        · exact .inr (List.mem_cons_of_mem _ h)
      · rcases List.mem_cons.mp h with rfl | h
        · exact .inr (by simp)
        · rcases ih h with e | e
          · exact .inl e
          · exact .inr (List.mem_cons_of_mem _ e)

/-- A removal keeps the order. -/
theorem pairwise_erase {k : Nat} {m : Cells α} (h : m.Pairwise fun p q => p.1 < q.1) :
    (erase k m).Pairwise fun p q => p.1 < q.1 := by
  induction m with
  | nil => simp [erase]
  | cons q r ih =>
    obtain ⟨i, w⟩ := q
    have h1 := (List.pairwise_cons.mp h).1
    have h2 := ih (List.pairwise_cons.mp h).2
    unfold erase
    split
    · exact h2
    · exact List.pairwise_cons.mpr ⟨fun a ha => h1 a (mem_of_mem_erase ha), h2⟩

/-- A write keeps the order. -/
theorem pairwise_insert {k : Nat} {v : α} {m : Cells α} (h : m.Pairwise fun p q => p.1 < q.1) :
    (insert k v m).Pairwise fun p q => p.1 < q.1 := by
  induction m with
  | nil => simp [insert]
  | cons q r ih =>
    obtain ⟨i, w⟩ := q
    have h1 := (List.pairwise_cons.mp h).1
    have h2 := (List.pairwise_cons.mp h).2
    unfold insert
    split
    · rename_i lt
      refine List.pairwise_cons.mpr ⟨fun a ha => ?_, h⟩
      rcases List.mem_cons.mp ha with rfl | ha
      · exact lt
      · exact Nat.lt_trans lt (h1 a ha)
    · split
      · rename_i e; subst e; exact List.pairwise_cons.mpr ⟨h1, h2⟩
      · refine List.pairwise_cons.mpr ⟨fun a ha => ?_, ih h2⟩
        rcases mem_of_mem_insert ha with rfl | ha
        · show i < k; omega
        · exact h1 a ha

/-- A write to a table with a default keeps the canonical form. -/
theorem canon_put [DecidableEq α] {d : α} {k : Nat} {v : α} {m : Cells α} (h : canon d m = true) :
    canon d (put d k v m) = true := by
  rw [canon_iff] at h ⊢
  unfold put
  split
  · exact ⟨pairwise_erase h.1, fun p hp => h.2 p (mem_of_mem_erase hp)⟩
  · rename_i hv
    refine ⟨pairwise_insert h.1, fun p hp => ?_⟩
    rcases mem_of_mem_insert hp with rfl | hp
    · exact hv
    · exact h.2 p hp

/-- A selection of pairs keeps the canonical form. -/
theorem canon_filter [DecidableEq α] {d : α} {m : Cells α} (f : Nat × α → Bool) (h : canon d m = true) :
    canon d (m.filter f) = true := by
  rw [canon_iff] at h ⊢
  exact ⟨h.1.filter _, fun p hp => h.2 p (List.mem_filter.mp hp).1⟩

end Sys2Proof.Cells
end

