-- ==== Sys2Proof/Laws/State.lean ====
section
/-!
SUPPORT. The fields of a state after each update of Machine/Place.lean, one lemma per field per update.
-/

namespace Sys2Proof.Machine

variable (s : State)

/-! ### setPart -/

@[simp] theorem setPart_inbox (k : Nat) (f : Part → Part) : (setPart k f s).inbox = s.inbox := rfl
@[simp] theorem setPart_agent (k : Nat) (f : Part → Part) : (setPart k f s).agent = s.agent := rfl
@[simp] theorem setPart_iss (k : Nat) (f : Part → Part) : (setPart k f s).iss = s.iss := rfl
@[simp] theorem setPart_tick (k : Nat) (f : Part → Part) : (setPart k f s).tick = s.tick := rfl
@[simp] theorem setPart_nextId (k : Nat) (f : Part → Part) : (setPart k f s).nextId = s.nextId := rfl
@[simp] theorem setPart_clockMhz (k : Nat) (f : Part → Part) : (setPart k f s).clockMhz = s.clockMhz := rfl
@[simp] theorem setPart_thermalStop (k : Nat) (f : Part → Part) : (setPart k f s).thermalStop = s.thermalStop := rfl
@[simp] theorem setPart_measures (k : Nat) (f : Part → Part) : (setPart k f s).measures = s.measures := rfl
@[simp] theorem setPart_fwVersion (k : Nat) (f : Part → Part) : (setPart k f s).fwVersion = s.fwVersion := rfl
@[simp] theorem setPart_fwImage (k : Nat) (f : Part → Part) : (setPart k f s).fwImage = s.fwImage := rfl
@[simp] theorem setPart_fwRuns (k : Nat) (f : Part → Part) : (setPart k f s).fwRuns = s.fwRuns := rfl
@[simp] theorem setPart_fns (k : Nat) (f : Part → Part) : (setPart k f s).fns = s.fns := rfl
@[simp] theorem setPart_pf (k : Nat) (f : Part → Part) : (setPart k f s).pf = s.pf := rfl
@[simp] theorem setPart_spdm (k : Nat) (f : Part → Part) : (setPart k f s).spdm = s.spdm := rfl
@[simp] theorem setPart_pars (k : Nat) (f : Part → Part) : (setPart k f s).pars = s.pars := rfl
@[simp] theorem setPart_ctxs (k : Nat) (f : Part → Part) : (setPart k f s).ctxs = s.ctxs := rfl
@[simp] theorem setPart_clus (k : Nat) (f : Part → Part) : (setPart k f s).clus = s.clus := rfl
@[simp] theorem setPart_teams (k : Nat) (f : Part → Part) : (setPart k f s).teams = s.teams := rfl
@[simp] theorem setPart_groups (k : Nat) (f : Part → Part) : (setPart k f s).groups = s.groups := rfl
@[simp] theorem setPart_parts (k : Nat) (f : Part → Part) : (setPart k f s).parts = Cells.modify k f s.parts := rfl
@[simp] theorem setPart_seqs (k : Nat) (f : Part → Part) : (setPart k f s).seqs = s.seqs := rfl
@[simp] theorem setPart_cores (k : Nat) (f : Part → Part) : (setPart k f s).cores = s.cores := rfl
@[simp] theorem setPart_quads (k : Nat) (f : Part → Part) : (setPart k f s).quads = s.quads := rfl
@[simp] theorem setPart_frames (k : Nat) (f : Part → Part) : (setPart k f s).frames = s.frames := rfl
@[simp] theorem setPart_mem (k : Nat) (f : Part → Part) : (setPart k f s).mem = s.mem := rfl
@[simp] theorem setPart_poison (k : Nat) (f : Part → Part) : (setPart k f s).poison = s.poison := rfl
@[simp] theorem setPart_tablePoison (k : Nat) (f : Part → Part) : (setPart k f s).tablePoison = s.tablePoison := rfl
@[simp] theorem setPart_copies (k : Nat) (f : Part → Part) : (setPart k f s).copies = s.copies := rfl
@[simp] theorem setPart_clocks (k : Nat) (f : Part → Part) : (setPart k f s).clocks = s.clocks := rfl
@[simp] theorem setPart_lands (k : Nat) (f : Part → Part) : (setPart k f s).lands = s.lands := rfl
@[simp] theorem setPart_stores (k : Nat) (f : Part → Part) : (setPart k f s).stores = s.stores := rfl
@[simp] theorem setPart_upds (k : Nat) (f : Part → Part) : (setPart k f s).upds = s.upds := rfl
@[simp] theorem setPart_cmds (k : Nat) (f : Part → Part) : (setPart k f s).cmds = s.cmds := rfl
@[simp] theorem setPart_pris (k : Nat) (f : Part → Part) : (setPart k f s).pris = s.pris := rfl
@[simp] theorem setPart_recs (k : Nat) (f : Part → Part) : (setPart k f s).recs = s.recs := rfl
@[simp] theorem setPart_dones (k : Nat) (f : Part → Part) : (setPart k f s).dones = s.dones := rfl
@[simp] theorem setPart_sqs (k : Nat) (f : Part → Part) : (setPart k f s).sqs = s.sqs := rfl
@[simp] theorem setPart_dropped (k : Nat) (f : Part → Part) : (setPart k f s).dropped = s.dropped := rfl
@[simp] theorem setPart_deferred (k : Nat) (f : Part → Part) : (setPart k f s).deferred = s.deferred := rfl
@[simp] theorem setPart_breaches (k : Nat) (f : Part → Part) : (setPart k f s).breaches = s.breaches := rfl
@[simp] theorem setPart_stale (k : Nat) (f : Part → Part) : (setPart k f s).stale = s.stale := rfl
@[simp] theorem setPart_bare (k : Nat) (f : Part → Part) : (setPart k f s).bare = s.bare := rfl
@[simp] theorem setPart_kills (k : Nat) (f : Part → Part) : (setPart k f s).kills = s.kills := rfl
@[simp] theorem setPart_notes (k : Nat) (f : Part → Part) : (setPart k f s).notes = s.notes := rfl
@[simp] theorem setPart_ports (k : Nat) (f : Part → Part) : (setPart k f s).ports = s.ports := rfl
@[simp] theorem setPart_peers (k : Nat) (f : Part → Part) : (setPart k f s).peers = s.peers := rfl
@[simp] theorem setPart_peerMem (k : Nat) (f : Part → Part) : (setPart k f s).peerMem = s.peerMem := rfl
@[simp] theorem setPart_arrivals (k : Nat) (f : Part → Part) : (setPart k f s).arrivals = s.arrivals := rfl
@[simp] theorem setPart_ck (k : Nat) (f : Part → Part) : (setPart k f s).ck = s.ck := rfl
@[simp] theorem setPart_tier (k : Nat) (f : Part → Part) : (setPart k f s).tier = s.tier := rfl
@[simp] theorem setPart_out (k : Nat) (f : Part → Part) : (setPart k f s).out = s.out := rfl

/-! ### setGroup -/

@[simp] theorem setGroup_inbox (k : Nat) (f : Group → Group) : (setGroup k f s).inbox = s.inbox := rfl
@[simp] theorem setGroup_agent (k : Nat) (f : Group → Group) : (setGroup k f s).agent = s.agent := rfl
@[simp] theorem setGroup_iss (k : Nat) (f : Group → Group) : (setGroup k f s).iss = s.iss := rfl
@[simp] theorem setGroup_tick (k : Nat) (f : Group → Group) : (setGroup k f s).tick = s.tick := rfl
@[simp] theorem setGroup_nextId (k : Nat) (f : Group → Group) : (setGroup k f s).nextId = s.nextId := rfl
@[simp] theorem setGroup_clockMhz (k : Nat) (f : Group → Group) : (setGroup k f s).clockMhz = s.clockMhz := rfl
@[simp] theorem setGroup_thermalStop (k : Nat) (f : Group → Group) : (setGroup k f s).thermalStop = s.thermalStop := rfl
@[simp] theorem setGroup_measures (k : Nat) (f : Group → Group) : (setGroup k f s).measures = s.measures := rfl
@[simp] theorem setGroup_fwVersion (k : Nat) (f : Group → Group) : (setGroup k f s).fwVersion = s.fwVersion := rfl
@[simp] theorem setGroup_fwImage (k : Nat) (f : Group → Group) : (setGroup k f s).fwImage = s.fwImage := rfl
@[simp] theorem setGroup_fwRuns (k : Nat) (f : Group → Group) : (setGroup k f s).fwRuns = s.fwRuns := rfl
@[simp] theorem setGroup_fns (k : Nat) (f : Group → Group) : (setGroup k f s).fns = s.fns := rfl
@[simp] theorem setGroup_pf (k : Nat) (f : Group → Group) : (setGroup k f s).pf = s.pf := rfl
@[simp] theorem setGroup_spdm (k : Nat) (f : Group → Group) : (setGroup k f s).spdm = s.spdm := rfl
@[simp] theorem setGroup_pars (k : Nat) (f : Group → Group) : (setGroup k f s).pars = s.pars := rfl
@[simp] theorem setGroup_ctxs (k : Nat) (f : Group → Group) : (setGroup k f s).ctxs = s.ctxs := rfl
@[simp] theorem setGroup_clus (k : Nat) (f : Group → Group) : (setGroup k f s).clus = s.clus := rfl
@[simp] theorem setGroup_teams (k : Nat) (f : Group → Group) : (setGroup k f s).teams = s.teams := rfl
@[simp] theorem setGroup_groups (k : Nat) (f : Group → Group) : (setGroup k f s).groups = Cells.modify k f s.groups := rfl
@[simp] theorem setGroup_parts (k : Nat) (f : Group → Group) : (setGroup k f s).parts = s.parts := rfl
@[simp] theorem setGroup_seqs (k : Nat) (f : Group → Group) : (setGroup k f s).seqs = s.seqs := rfl
@[simp] theorem setGroup_cores (k : Nat) (f : Group → Group) : (setGroup k f s).cores = s.cores := rfl
@[simp] theorem setGroup_quads (k : Nat) (f : Group → Group) : (setGroup k f s).quads = s.quads := rfl
@[simp] theorem setGroup_frames (k : Nat) (f : Group → Group) : (setGroup k f s).frames = s.frames := rfl
@[simp] theorem setGroup_mem (k : Nat) (f : Group → Group) : (setGroup k f s).mem = s.mem := rfl
@[simp] theorem setGroup_poison (k : Nat) (f : Group → Group) : (setGroup k f s).poison = s.poison := rfl
@[simp] theorem setGroup_tablePoison (k : Nat) (f : Group → Group) : (setGroup k f s).tablePoison = s.tablePoison := rfl
@[simp] theorem setGroup_copies (k : Nat) (f : Group → Group) : (setGroup k f s).copies = s.copies := rfl
@[simp] theorem setGroup_clocks (k : Nat) (f : Group → Group) : (setGroup k f s).clocks = s.clocks := rfl
@[simp] theorem setGroup_lands (k : Nat) (f : Group → Group) : (setGroup k f s).lands = s.lands := rfl
@[simp] theorem setGroup_stores (k : Nat) (f : Group → Group) : (setGroup k f s).stores = s.stores := rfl
@[simp] theorem setGroup_upds (k : Nat) (f : Group → Group) : (setGroup k f s).upds = s.upds := rfl
@[simp] theorem setGroup_cmds (k : Nat) (f : Group → Group) : (setGroup k f s).cmds = s.cmds := rfl
@[simp] theorem setGroup_pris (k : Nat) (f : Group → Group) : (setGroup k f s).pris = s.pris := rfl
@[simp] theorem setGroup_recs (k : Nat) (f : Group → Group) : (setGroup k f s).recs = s.recs := rfl
@[simp] theorem setGroup_dones (k : Nat) (f : Group → Group) : (setGroup k f s).dones = s.dones := rfl
@[simp] theorem setGroup_sqs (k : Nat) (f : Group → Group) : (setGroup k f s).sqs = s.sqs := rfl
@[simp] theorem setGroup_dropped (k : Nat) (f : Group → Group) : (setGroup k f s).dropped = s.dropped := rfl
@[simp] theorem setGroup_deferred (k : Nat) (f : Group → Group) : (setGroup k f s).deferred = s.deferred := rfl
@[simp] theorem setGroup_breaches (k : Nat) (f : Group → Group) : (setGroup k f s).breaches = s.breaches := rfl
@[simp] theorem setGroup_stale (k : Nat) (f : Group → Group) : (setGroup k f s).stale = s.stale := rfl
@[simp] theorem setGroup_bare (k : Nat) (f : Group → Group) : (setGroup k f s).bare = s.bare := rfl
@[simp] theorem setGroup_kills (k : Nat) (f : Group → Group) : (setGroup k f s).kills = s.kills := rfl
@[simp] theorem setGroup_notes (k : Nat) (f : Group → Group) : (setGroup k f s).notes = s.notes := rfl
@[simp] theorem setGroup_ports (k : Nat) (f : Group → Group) : (setGroup k f s).ports = s.ports := rfl
@[simp] theorem setGroup_peers (k : Nat) (f : Group → Group) : (setGroup k f s).peers = s.peers := rfl
@[simp] theorem setGroup_peerMem (k : Nat) (f : Group → Group) : (setGroup k f s).peerMem = s.peerMem := rfl
@[simp] theorem setGroup_arrivals (k : Nat) (f : Group → Group) : (setGroup k f s).arrivals = s.arrivals := rfl
@[simp] theorem setGroup_ck (k : Nat) (f : Group → Group) : (setGroup k f s).ck = s.ck := rfl
@[simp] theorem setGroup_tier (k : Nat) (f : Group → Group) : (setGroup k f s).tier = s.tier := rfl
@[simp] theorem setGroup_out (k : Nat) (f : Group → Group) : (setGroup k f s).out = s.out := rfl

/-! ### setTeam -/

@[simp] theorem setTeam_inbox (k : Nat) (f : Team → Team) : (setTeam k f s).inbox = s.inbox := rfl
@[simp] theorem setTeam_agent (k : Nat) (f : Team → Team) : (setTeam k f s).agent = s.agent := rfl
@[simp] theorem setTeam_iss (k : Nat) (f : Team → Team) : (setTeam k f s).iss = s.iss := rfl
@[simp] theorem setTeam_tick (k : Nat) (f : Team → Team) : (setTeam k f s).tick = s.tick := rfl
@[simp] theorem setTeam_nextId (k : Nat) (f : Team → Team) : (setTeam k f s).nextId = s.nextId := rfl
@[simp] theorem setTeam_clockMhz (k : Nat) (f : Team → Team) : (setTeam k f s).clockMhz = s.clockMhz := rfl
@[simp] theorem setTeam_thermalStop (k : Nat) (f : Team → Team) : (setTeam k f s).thermalStop = s.thermalStop := rfl
@[simp] theorem setTeam_measures (k : Nat) (f : Team → Team) : (setTeam k f s).measures = s.measures := rfl
@[simp] theorem setTeam_fwVersion (k : Nat) (f : Team → Team) : (setTeam k f s).fwVersion = s.fwVersion := rfl
@[simp] theorem setTeam_fwImage (k : Nat) (f : Team → Team) : (setTeam k f s).fwImage = s.fwImage := rfl
@[simp] theorem setTeam_fwRuns (k : Nat) (f : Team → Team) : (setTeam k f s).fwRuns = s.fwRuns := rfl
@[simp] theorem setTeam_fns (k : Nat) (f : Team → Team) : (setTeam k f s).fns = s.fns := rfl
@[simp] theorem setTeam_pf (k : Nat) (f : Team → Team) : (setTeam k f s).pf = s.pf := rfl
@[simp] theorem setTeam_spdm (k : Nat) (f : Team → Team) : (setTeam k f s).spdm = s.spdm := rfl
@[simp] theorem setTeam_pars (k : Nat) (f : Team → Team) : (setTeam k f s).pars = s.pars := rfl
@[simp] theorem setTeam_ctxs (k : Nat) (f : Team → Team) : (setTeam k f s).ctxs = s.ctxs := rfl
@[simp] theorem setTeam_clus (k : Nat) (f : Team → Team) : (setTeam k f s).clus = s.clus := rfl
@[simp] theorem setTeam_teams (k : Nat) (f : Team → Team) : (setTeam k f s).teams = Cells.modify k f s.teams := rfl
@[simp] theorem setTeam_groups (k : Nat) (f : Team → Team) : (setTeam k f s).groups = s.groups := rfl
@[simp] theorem setTeam_parts (k : Nat) (f : Team → Team) : (setTeam k f s).parts = s.parts := rfl
@[simp] theorem setTeam_seqs (k : Nat) (f : Team → Team) : (setTeam k f s).seqs = s.seqs := rfl
@[simp] theorem setTeam_cores (k : Nat) (f : Team → Team) : (setTeam k f s).cores = s.cores := rfl
@[simp] theorem setTeam_quads (k : Nat) (f : Team → Team) : (setTeam k f s).quads = s.quads := rfl
@[simp] theorem setTeam_frames (k : Nat) (f : Team → Team) : (setTeam k f s).frames = s.frames := rfl
@[simp] theorem setTeam_mem (k : Nat) (f : Team → Team) : (setTeam k f s).mem = s.mem := rfl
@[simp] theorem setTeam_poison (k : Nat) (f : Team → Team) : (setTeam k f s).poison = s.poison := rfl
@[simp] theorem setTeam_tablePoison (k : Nat) (f : Team → Team) : (setTeam k f s).tablePoison = s.tablePoison := rfl
@[simp] theorem setTeam_copies (k : Nat) (f : Team → Team) : (setTeam k f s).copies = s.copies := rfl
@[simp] theorem setTeam_clocks (k : Nat) (f : Team → Team) : (setTeam k f s).clocks = s.clocks := rfl
@[simp] theorem setTeam_lands (k : Nat) (f : Team → Team) : (setTeam k f s).lands = s.lands := rfl
@[simp] theorem setTeam_stores (k : Nat) (f : Team → Team) : (setTeam k f s).stores = s.stores := rfl
@[simp] theorem setTeam_upds (k : Nat) (f : Team → Team) : (setTeam k f s).upds = s.upds := rfl
@[simp] theorem setTeam_cmds (k : Nat) (f : Team → Team) : (setTeam k f s).cmds = s.cmds := rfl
@[simp] theorem setTeam_pris (k : Nat) (f : Team → Team) : (setTeam k f s).pris = s.pris := rfl
@[simp] theorem setTeam_recs (k : Nat) (f : Team → Team) : (setTeam k f s).recs = s.recs := rfl
@[simp] theorem setTeam_dones (k : Nat) (f : Team → Team) : (setTeam k f s).dones = s.dones := rfl
@[simp] theorem setTeam_sqs (k : Nat) (f : Team → Team) : (setTeam k f s).sqs = s.sqs := rfl
@[simp] theorem setTeam_dropped (k : Nat) (f : Team → Team) : (setTeam k f s).dropped = s.dropped := rfl
@[simp] theorem setTeam_deferred (k : Nat) (f : Team → Team) : (setTeam k f s).deferred = s.deferred := rfl
@[simp] theorem setTeam_breaches (k : Nat) (f : Team → Team) : (setTeam k f s).breaches = s.breaches := rfl
@[simp] theorem setTeam_stale (k : Nat) (f : Team → Team) : (setTeam k f s).stale = s.stale := rfl
@[simp] theorem setTeam_bare (k : Nat) (f : Team → Team) : (setTeam k f s).bare = s.bare := rfl
@[simp] theorem setTeam_kills (k : Nat) (f : Team → Team) : (setTeam k f s).kills = s.kills := rfl
@[simp] theorem setTeam_notes (k : Nat) (f : Team → Team) : (setTeam k f s).notes = s.notes := rfl
@[simp] theorem setTeam_ports (k : Nat) (f : Team → Team) : (setTeam k f s).ports = s.ports := rfl
@[simp] theorem setTeam_peers (k : Nat) (f : Team → Team) : (setTeam k f s).peers = s.peers := rfl
@[simp] theorem setTeam_peerMem (k : Nat) (f : Team → Team) : (setTeam k f s).peerMem = s.peerMem := rfl
@[simp] theorem setTeam_arrivals (k : Nat) (f : Team → Team) : (setTeam k f s).arrivals = s.arrivals := rfl
@[simp] theorem setTeam_ck (k : Nat) (f : Team → Team) : (setTeam k f s).ck = s.ck := rfl
@[simp] theorem setTeam_tier (k : Nat) (f : Team → Team) : (setTeam k f s).tier = s.tier := rfl
@[simp] theorem setTeam_out (k : Nat) (f : Team → Team) : (setTeam k f s).out = s.out := rfl

/-! ### setCluster -/

@[simp] theorem setCluster_inbox (k : Nat) (f : Cluster → Cluster) : (setCluster k f s).inbox = s.inbox := rfl
@[simp] theorem setCluster_agent (k : Nat) (f : Cluster → Cluster) : (setCluster k f s).agent = s.agent := rfl
@[simp] theorem setCluster_iss (k : Nat) (f : Cluster → Cluster) : (setCluster k f s).iss = s.iss := rfl
@[simp] theorem setCluster_tick (k : Nat) (f : Cluster → Cluster) : (setCluster k f s).tick = s.tick := rfl
@[simp] theorem setCluster_nextId (k : Nat) (f : Cluster → Cluster) : (setCluster k f s).nextId = s.nextId := rfl
@[simp] theorem setCluster_clockMhz (k : Nat) (f : Cluster → Cluster) : (setCluster k f s).clockMhz = s.clockMhz := rfl
@[simp] theorem setCluster_thermalStop (k : Nat) (f : Cluster → Cluster) : (setCluster k f s).thermalStop = s.thermalStop := rfl
@[simp] theorem setCluster_measures (k : Nat) (f : Cluster → Cluster) : (setCluster k f s).measures = s.measures := rfl
@[simp] theorem setCluster_fwVersion (k : Nat) (f : Cluster → Cluster) : (setCluster k f s).fwVersion = s.fwVersion := rfl
@[simp] theorem setCluster_fwImage (k : Nat) (f : Cluster → Cluster) : (setCluster k f s).fwImage = s.fwImage := rfl
@[simp] theorem setCluster_fwRuns (k : Nat) (f : Cluster → Cluster) : (setCluster k f s).fwRuns = s.fwRuns := rfl
@[simp] theorem setCluster_fns (k : Nat) (f : Cluster → Cluster) : (setCluster k f s).fns = s.fns := rfl
@[simp] theorem setCluster_pf (k : Nat) (f : Cluster → Cluster) : (setCluster k f s).pf = s.pf := rfl
@[simp] theorem setCluster_spdm (k : Nat) (f : Cluster → Cluster) : (setCluster k f s).spdm = s.spdm := rfl
@[simp] theorem setCluster_pars (k : Nat) (f : Cluster → Cluster) : (setCluster k f s).pars = s.pars := rfl
@[simp] theorem setCluster_ctxs (k : Nat) (f : Cluster → Cluster) : (setCluster k f s).ctxs = s.ctxs := rfl
@[simp] theorem setCluster_clus (k : Nat) (f : Cluster → Cluster) : (setCluster k f s).clus = Cells.modify k f s.clus := rfl
@[simp] theorem setCluster_teams (k : Nat) (f : Cluster → Cluster) : (setCluster k f s).teams = s.teams := rfl
@[simp] theorem setCluster_groups (k : Nat) (f : Cluster → Cluster) : (setCluster k f s).groups = s.groups := rfl
@[simp] theorem setCluster_parts (k : Nat) (f : Cluster → Cluster) : (setCluster k f s).parts = s.parts := rfl
@[simp] theorem setCluster_seqs (k : Nat) (f : Cluster → Cluster) : (setCluster k f s).seqs = s.seqs := rfl
@[simp] theorem setCluster_cores (k : Nat) (f : Cluster → Cluster) : (setCluster k f s).cores = s.cores := rfl
@[simp] theorem setCluster_quads (k : Nat) (f : Cluster → Cluster) : (setCluster k f s).quads = s.quads := rfl
@[simp] theorem setCluster_frames (k : Nat) (f : Cluster → Cluster) : (setCluster k f s).frames = s.frames := rfl
@[simp] theorem setCluster_mem (k : Nat) (f : Cluster → Cluster) : (setCluster k f s).mem = s.mem := rfl
@[simp] theorem setCluster_poison (k : Nat) (f : Cluster → Cluster) : (setCluster k f s).poison = s.poison := rfl
@[simp] theorem setCluster_tablePoison (k : Nat) (f : Cluster → Cluster) : (setCluster k f s).tablePoison = s.tablePoison := rfl
@[simp] theorem setCluster_copies (k : Nat) (f : Cluster → Cluster) : (setCluster k f s).copies = s.copies := rfl
@[simp] theorem setCluster_clocks (k : Nat) (f : Cluster → Cluster) : (setCluster k f s).clocks = s.clocks := rfl
@[simp] theorem setCluster_lands (k : Nat) (f : Cluster → Cluster) : (setCluster k f s).lands = s.lands := rfl
@[simp] theorem setCluster_stores (k : Nat) (f : Cluster → Cluster) : (setCluster k f s).stores = s.stores := rfl
@[simp] theorem setCluster_upds (k : Nat) (f : Cluster → Cluster) : (setCluster k f s).upds = s.upds := rfl
@[simp] theorem setCluster_cmds (k : Nat) (f : Cluster → Cluster) : (setCluster k f s).cmds = s.cmds := rfl
@[simp] theorem setCluster_pris (k : Nat) (f : Cluster → Cluster) : (setCluster k f s).pris = s.pris := rfl
@[simp] theorem setCluster_recs (k : Nat) (f : Cluster → Cluster) : (setCluster k f s).recs = s.recs := rfl
@[simp] theorem setCluster_dones (k : Nat) (f : Cluster → Cluster) : (setCluster k f s).dones = s.dones := rfl
@[simp] theorem setCluster_sqs (k : Nat) (f : Cluster → Cluster) : (setCluster k f s).sqs = s.sqs := rfl
@[simp] theorem setCluster_dropped (k : Nat) (f : Cluster → Cluster) : (setCluster k f s).dropped = s.dropped := rfl
@[simp] theorem setCluster_deferred (k : Nat) (f : Cluster → Cluster) : (setCluster k f s).deferred = s.deferred := rfl
@[simp] theorem setCluster_breaches (k : Nat) (f : Cluster → Cluster) : (setCluster k f s).breaches = s.breaches := rfl
@[simp] theorem setCluster_stale (k : Nat) (f : Cluster → Cluster) : (setCluster k f s).stale = s.stale := rfl
@[simp] theorem setCluster_bare (k : Nat) (f : Cluster → Cluster) : (setCluster k f s).bare = s.bare := rfl
@[simp] theorem setCluster_kills (k : Nat) (f : Cluster → Cluster) : (setCluster k f s).kills = s.kills := rfl
@[simp] theorem setCluster_notes (k : Nat) (f : Cluster → Cluster) : (setCluster k f s).notes = s.notes := rfl
@[simp] theorem setCluster_ports (k : Nat) (f : Cluster → Cluster) : (setCluster k f s).ports = s.ports := rfl
@[simp] theorem setCluster_peers (k : Nat) (f : Cluster → Cluster) : (setCluster k f s).peers = s.peers := rfl
@[simp] theorem setCluster_peerMem (k : Nat) (f : Cluster → Cluster) : (setCluster k f s).peerMem = s.peerMem := rfl
@[simp] theorem setCluster_arrivals (k : Nat) (f : Cluster → Cluster) : (setCluster k f s).arrivals = s.arrivals := rfl
@[simp] theorem setCluster_ck (k : Nat) (f : Cluster → Cluster) : (setCluster k f s).ck = s.ck := rfl
@[simp] theorem setCluster_tier (k : Nat) (f : Cluster → Cluster) : (setCluster k f s).tier = s.tier := rfl
@[simp] theorem setCluster_out (k : Nat) (f : Cluster → Cluster) : (setCluster k f s).out = s.out := rfl

/-! ### setCtx -/

@[simp] theorem setCtx_inbox (k : Nat) (f : Context → Context) : (setCtx k f s).inbox = s.inbox := rfl
@[simp] theorem setCtx_agent (k : Nat) (f : Context → Context) : (setCtx k f s).agent = s.agent := rfl
@[simp] theorem setCtx_iss (k : Nat) (f : Context → Context) : (setCtx k f s).iss = s.iss := rfl
@[simp] theorem setCtx_tick (k : Nat) (f : Context → Context) : (setCtx k f s).tick = s.tick := rfl
@[simp] theorem setCtx_nextId (k : Nat) (f : Context → Context) : (setCtx k f s).nextId = s.nextId := rfl
@[simp] theorem setCtx_clockMhz (k : Nat) (f : Context → Context) : (setCtx k f s).clockMhz = s.clockMhz := rfl
@[simp] theorem setCtx_thermalStop (k : Nat) (f : Context → Context) : (setCtx k f s).thermalStop = s.thermalStop := rfl
@[simp] theorem setCtx_measures (k : Nat) (f : Context → Context) : (setCtx k f s).measures = s.measures := rfl
@[simp] theorem setCtx_fwVersion (k : Nat) (f : Context → Context) : (setCtx k f s).fwVersion = s.fwVersion := rfl
@[simp] theorem setCtx_fwImage (k : Nat) (f : Context → Context) : (setCtx k f s).fwImage = s.fwImage := rfl
@[simp] theorem setCtx_fwRuns (k : Nat) (f : Context → Context) : (setCtx k f s).fwRuns = s.fwRuns := rfl
@[simp] theorem setCtx_fns (k : Nat) (f : Context → Context) : (setCtx k f s).fns = s.fns := rfl
@[simp] theorem setCtx_pf (k : Nat) (f : Context → Context) : (setCtx k f s).pf = s.pf := rfl
@[simp] theorem setCtx_spdm (k : Nat) (f : Context → Context) : (setCtx k f s).spdm = s.spdm := rfl
@[simp] theorem setCtx_pars (k : Nat) (f : Context → Context) : (setCtx k f s).pars = s.pars := rfl
@[simp] theorem setCtx_ctxs (k : Nat) (f : Context → Context) : (setCtx k f s).ctxs = Cells.modify k f s.ctxs := rfl
@[simp] theorem setCtx_clus (k : Nat) (f : Context → Context) : (setCtx k f s).clus = s.clus := rfl
@[simp] theorem setCtx_teams (k : Nat) (f : Context → Context) : (setCtx k f s).teams = s.teams := rfl
@[simp] theorem setCtx_groups (k : Nat) (f : Context → Context) : (setCtx k f s).groups = s.groups := rfl
@[simp] theorem setCtx_parts (k : Nat) (f : Context → Context) : (setCtx k f s).parts = s.parts := rfl
@[simp] theorem setCtx_seqs (k : Nat) (f : Context → Context) : (setCtx k f s).seqs = s.seqs := rfl
@[simp] theorem setCtx_cores (k : Nat) (f : Context → Context) : (setCtx k f s).cores = s.cores := rfl
@[simp] theorem setCtx_quads (k : Nat) (f : Context → Context) : (setCtx k f s).quads = s.quads := rfl
@[simp] theorem setCtx_frames (k : Nat) (f : Context → Context) : (setCtx k f s).frames = s.frames := rfl
@[simp] theorem setCtx_mem (k : Nat) (f : Context → Context) : (setCtx k f s).mem = s.mem := rfl
@[simp] theorem setCtx_poison (k : Nat) (f : Context → Context) : (setCtx k f s).poison = s.poison := rfl
@[simp] theorem setCtx_tablePoison (k : Nat) (f : Context → Context) : (setCtx k f s).tablePoison = s.tablePoison := rfl
@[simp] theorem setCtx_copies (k : Nat) (f : Context → Context) : (setCtx k f s).copies = s.copies := rfl
@[simp] theorem setCtx_clocks (k : Nat) (f : Context → Context) : (setCtx k f s).clocks = s.clocks := rfl
@[simp] theorem setCtx_lands (k : Nat) (f : Context → Context) : (setCtx k f s).lands = s.lands := rfl
@[simp] theorem setCtx_stores (k : Nat) (f : Context → Context) : (setCtx k f s).stores = s.stores := rfl
@[simp] theorem setCtx_upds (k : Nat) (f : Context → Context) : (setCtx k f s).upds = s.upds := rfl
@[simp] theorem setCtx_cmds (k : Nat) (f : Context → Context) : (setCtx k f s).cmds = s.cmds := rfl
@[simp] theorem setCtx_pris (k : Nat) (f : Context → Context) : (setCtx k f s).pris = s.pris := rfl
@[simp] theorem setCtx_recs (k : Nat) (f : Context → Context) : (setCtx k f s).recs = s.recs := rfl
@[simp] theorem setCtx_dones (k : Nat) (f : Context → Context) : (setCtx k f s).dones = s.dones := rfl
@[simp] theorem setCtx_sqs (k : Nat) (f : Context → Context) : (setCtx k f s).sqs = s.sqs := rfl
@[simp] theorem setCtx_dropped (k : Nat) (f : Context → Context) : (setCtx k f s).dropped = s.dropped := rfl
@[simp] theorem setCtx_deferred (k : Nat) (f : Context → Context) : (setCtx k f s).deferred = s.deferred := rfl
@[simp] theorem setCtx_breaches (k : Nat) (f : Context → Context) : (setCtx k f s).breaches = s.breaches := rfl
@[simp] theorem setCtx_stale (k : Nat) (f : Context → Context) : (setCtx k f s).stale = s.stale := rfl
@[simp] theorem setCtx_bare (k : Nat) (f : Context → Context) : (setCtx k f s).bare = s.bare := rfl
@[simp] theorem setCtx_kills (k : Nat) (f : Context → Context) : (setCtx k f s).kills = s.kills := rfl
@[simp] theorem setCtx_notes (k : Nat) (f : Context → Context) : (setCtx k f s).notes = s.notes := rfl
@[simp] theorem setCtx_ports (k : Nat) (f : Context → Context) : (setCtx k f s).ports = s.ports := rfl
@[simp] theorem setCtx_peers (k : Nat) (f : Context → Context) : (setCtx k f s).peers = s.peers := rfl
@[simp] theorem setCtx_peerMem (k : Nat) (f : Context → Context) : (setCtx k f s).peerMem = s.peerMem := rfl
@[simp] theorem setCtx_arrivals (k : Nat) (f : Context → Context) : (setCtx k f s).arrivals = s.arrivals := rfl
@[simp] theorem setCtx_ck (k : Nat) (f : Context → Context) : (setCtx k f s).ck = s.ck := rfl
@[simp] theorem setCtx_tier (k : Nat) (f : Context → Context) : (setCtx k f s).tier = s.tier := rfl
@[simp] theorem setCtx_out (k : Nat) (f : Context → Context) : (setCtx k f s).out = s.out := rfl

/-! ### setSeq -/

@[simp] theorem setSeq_inbox (k : Nat) (f : SeqCtx → SeqCtx) : (setSeq k f s).inbox = s.inbox := rfl
@[simp] theorem setSeq_agent (k : Nat) (f : SeqCtx → SeqCtx) : (setSeq k f s).agent = s.agent := rfl
@[simp] theorem setSeq_iss (k : Nat) (f : SeqCtx → SeqCtx) : (setSeq k f s).iss = s.iss := rfl
@[simp] theorem setSeq_tick (k : Nat) (f : SeqCtx → SeqCtx) : (setSeq k f s).tick = s.tick := rfl
@[simp] theorem setSeq_nextId (k : Nat) (f : SeqCtx → SeqCtx) : (setSeq k f s).nextId = s.nextId := rfl
@[simp] theorem setSeq_clockMhz (k : Nat) (f : SeqCtx → SeqCtx) : (setSeq k f s).clockMhz = s.clockMhz := rfl
@[simp] theorem setSeq_thermalStop (k : Nat) (f : SeqCtx → SeqCtx) : (setSeq k f s).thermalStop = s.thermalStop := rfl
@[simp] theorem setSeq_measures (k : Nat) (f : SeqCtx → SeqCtx) : (setSeq k f s).measures = s.measures := rfl
@[simp] theorem setSeq_fwVersion (k : Nat) (f : SeqCtx → SeqCtx) : (setSeq k f s).fwVersion = s.fwVersion := rfl
@[simp] theorem setSeq_fwImage (k : Nat) (f : SeqCtx → SeqCtx) : (setSeq k f s).fwImage = s.fwImage := rfl
@[simp] theorem setSeq_fwRuns (k : Nat) (f : SeqCtx → SeqCtx) : (setSeq k f s).fwRuns = s.fwRuns := rfl
@[simp] theorem setSeq_fns (k : Nat) (f : SeqCtx → SeqCtx) : (setSeq k f s).fns = s.fns := rfl
@[simp] theorem setSeq_pf (k : Nat) (f : SeqCtx → SeqCtx) : (setSeq k f s).pf = s.pf := rfl
@[simp] theorem setSeq_spdm (k : Nat) (f : SeqCtx → SeqCtx) : (setSeq k f s).spdm = s.spdm := rfl
@[simp] theorem setSeq_pars (k : Nat) (f : SeqCtx → SeqCtx) : (setSeq k f s).pars = s.pars := rfl
@[simp] theorem setSeq_ctxs (k : Nat) (f : SeqCtx → SeqCtx) : (setSeq k f s).ctxs = s.ctxs := rfl
@[simp] theorem setSeq_clus (k : Nat) (f : SeqCtx → SeqCtx) : (setSeq k f s).clus = s.clus := rfl
@[simp] theorem setSeq_teams (k : Nat) (f : SeqCtx → SeqCtx) : (setSeq k f s).teams = s.teams := rfl
@[simp] theorem setSeq_groups (k : Nat) (f : SeqCtx → SeqCtx) : (setSeq k f s).groups = s.groups := rfl
@[simp] theorem setSeq_parts (k : Nat) (f : SeqCtx → SeqCtx) : (setSeq k f s).parts = s.parts := rfl
@[simp] theorem setSeq_seqs (k : Nat) (f : SeqCtx → SeqCtx) : (setSeq k f s).seqs = Cells.modify k f s.seqs := rfl
@[simp] theorem setSeq_cores (k : Nat) (f : SeqCtx → SeqCtx) : (setSeq k f s).cores = s.cores := rfl
@[simp] theorem setSeq_quads (k : Nat) (f : SeqCtx → SeqCtx) : (setSeq k f s).quads = s.quads := rfl
@[simp] theorem setSeq_frames (k : Nat) (f : SeqCtx → SeqCtx) : (setSeq k f s).frames = s.frames := rfl
@[simp] theorem setSeq_mem (k : Nat) (f : SeqCtx → SeqCtx) : (setSeq k f s).mem = s.mem := rfl
@[simp] theorem setSeq_poison (k : Nat) (f : SeqCtx → SeqCtx) : (setSeq k f s).poison = s.poison := rfl
@[simp] theorem setSeq_tablePoison (k : Nat) (f : SeqCtx → SeqCtx) : (setSeq k f s).tablePoison = s.tablePoison := rfl
@[simp] theorem setSeq_copies (k : Nat) (f : SeqCtx → SeqCtx) : (setSeq k f s).copies = s.copies := rfl
@[simp] theorem setSeq_clocks (k : Nat) (f : SeqCtx → SeqCtx) : (setSeq k f s).clocks = s.clocks := rfl
@[simp] theorem setSeq_lands (k : Nat) (f : SeqCtx → SeqCtx) : (setSeq k f s).lands = s.lands := rfl
@[simp] theorem setSeq_stores (k : Nat) (f : SeqCtx → SeqCtx) : (setSeq k f s).stores = s.stores := rfl
@[simp] theorem setSeq_upds (k : Nat) (f : SeqCtx → SeqCtx) : (setSeq k f s).upds = s.upds := rfl
@[simp] theorem setSeq_cmds (k : Nat) (f : SeqCtx → SeqCtx) : (setSeq k f s).cmds = s.cmds := rfl
@[simp] theorem setSeq_pris (k : Nat) (f : SeqCtx → SeqCtx) : (setSeq k f s).pris = s.pris := rfl
@[simp] theorem setSeq_recs (k : Nat) (f : SeqCtx → SeqCtx) : (setSeq k f s).recs = s.recs := rfl
@[simp] theorem setSeq_dones (k : Nat) (f : SeqCtx → SeqCtx) : (setSeq k f s).dones = s.dones := rfl
@[simp] theorem setSeq_sqs (k : Nat) (f : SeqCtx → SeqCtx) : (setSeq k f s).sqs = s.sqs := rfl
@[simp] theorem setSeq_dropped (k : Nat) (f : SeqCtx → SeqCtx) : (setSeq k f s).dropped = s.dropped := rfl
@[simp] theorem setSeq_deferred (k : Nat) (f : SeqCtx → SeqCtx) : (setSeq k f s).deferred = s.deferred := rfl
@[simp] theorem setSeq_breaches (k : Nat) (f : SeqCtx → SeqCtx) : (setSeq k f s).breaches = s.breaches := rfl
@[simp] theorem setSeq_stale (k : Nat) (f : SeqCtx → SeqCtx) : (setSeq k f s).stale = s.stale := rfl
@[simp] theorem setSeq_bare (k : Nat) (f : SeqCtx → SeqCtx) : (setSeq k f s).bare = s.bare := rfl
@[simp] theorem setSeq_kills (k : Nat) (f : SeqCtx → SeqCtx) : (setSeq k f s).kills = s.kills := rfl
@[simp] theorem setSeq_notes (k : Nat) (f : SeqCtx → SeqCtx) : (setSeq k f s).notes = s.notes := rfl
@[simp] theorem setSeq_ports (k : Nat) (f : SeqCtx → SeqCtx) : (setSeq k f s).ports = s.ports := rfl
@[simp] theorem setSeq_peers (k : Nat) (f : SeqCtx → SeqCtx) : (setSeq k f s).peers = s.peers := rfl
@[simp] theorem setSeq_peerMem (k : Nat) (f : SeqCtx → SeqCtx) : (setSeq k f s).peerMem = s.peerMem := rfl
@[simp] theorem setSeq_arrivals (k : Nat) (f : SeqCtx → SeqCtx) : (setSeq k f s).arrivals = s.arrivals := rfl
@[simp] theorem setSeq_ck (k : Nat) (f : SeqCtx → SeqCtx) : (setSeq k f s).ck = s.ck := rfl
@[simp] theorem setSeq_tier (k : Nat) (f : SeqCtx → SeqCtx) : (setSeq k f s).tier = s.tier := rfl
@[simp] theorem setSeq_out (k : Nat) (f : SeqCtx → SeqCtx) : (setSeq k f s).out = s.out := rfl

/-! ### setPar -/

@[simp] theorem setPar_inbox (p : BitVec 6) (f : Partition → Partition) : (setPar p f s).inbox = s.inbox := rfl
@[simp] theorem setPar_agent (p : BitVec 6) (f : Partition → Partition) : (setPar p f s).agent = s.agent := rfl
@[simp] theorem setPar_iss (p : BitVec 6) (f : Partition → Partition) : (setPar p f s).iss = s.iss := rfl
@[simp] theorem setPar_tick (p : BitVec 6) (f : Partition → Partition) : (setPar p f s).tick = s.tick := rfl
@[simp] theorem setPar_nextId (p : BitVec 6) (f : Partition → Partition) : (setPar p f s).nextId = s.nextId := rfl
@[simp] theorem setPar_clockMhz (p : BitVec 6) (f : Partition → Partition) : (setPar p f s).clockMhz = s.clockMhz := rfl
@[simp] theorem setPar_thermalStop (p : BitVec 6) (f : Partition → Partition) : (setPar p f s).thermalStop = s.thermalStop := rfl
@[simp] theorem setPar_measures (p : BitVec 6) (f : Partition → Partition) : (setPar p f s).measures = s.measures := rfl
@[simp] theorem setPar_fwVersion (p : BitVec 6) (f : Partition → Partition) : (setPar p f s).fwVersion = s.fwVersion := rfl
@[simp] theorem setPar_fwImage (p : BitVec 6) (f : Partition → Partition) : (setPar p f s).fwImage = s.fwImage := rfl
@[simp] theorem setPar_fwRuns (p : BitVec 6) (f : Partition → Partition) : (setPar p f s).fwRuns = s.fwRuns := rfl
@[simp] theorem setPar_fns (p : BitVec 6) (f : Partition → Partition) : (setPar p f s).fns = s.fns := rfl
@[simp] theorem setPar_pf (p : BitVec 6) (f : Partition → Partition) : (setPar p f s).pf = s.pf := rfl
@[simp] theorem setPar_spdm (p : BitVec 6) (f : Partition → Partition) : (setPar p f s).spdm = s.spdm := rfl
@[simp] theorem setPar_pars (p : BitVec 6) (f : Partition → Partition) : (setPar p f s).pars = Cells.modify p.toNat f s.pars := rfl
@[simp] theorem setPar_ctxs (p : BitVec 6) (f : Partition → Partition) : (setPar p f s).ctxs = s.ctxs := rfl
@[simp] theorem setPar_clus (p : BitVec 6) (f : Partition → Partition) : (setPar p f s).clus = s.clus := rfl
@[simp] theorem setPar_teams (p : BitVec 6) (f : Partition → Partition) : (setPar p f s).teams = s.teams := rfl
@[simp] theorem setPar_groups (p : BitVec 6) (f : Partition → Partition) : (setPar p f s).groups = s.groups := rfl
@[simp] theorem setPar_parts (p : BitVec 6) (f : Partition → Partition) : (setPar p f s).parts = s.parts := rfl
@[simp] theorem setPar_seqs (p : BitVec 6) (f : Partition → Partition) : (setPar p f s).seqs = s.seqs := rfl
@[simp] theorem setPar_cores (p : BitVec 6) (f : Partition → Partition) : (setPar p f s).cores = s.cores := rfl
@[simp] theorem setPar_quads (p : BitVec 6) (f : Partition → Partition) : (setPar p f s).quads = s.quads := rfl
@[simp] theorem setPar_frames (p : BitVec 6) (f : Partition → Partition) : (setPar p f s).frames = s.frames := rfl
@[simp] theorem setPar_mem (p : BitVec 6) (f : Partition → Partition) : (setPar p f s).mem = s.mem := rfl
@[simp] theorem setPar_poison (p : BitVec 6) (f : Partition → Partition) : (setPar p f s).poison = s.poison := rfl
@[simp] theorem setPar_tablePoison (p : BitVec 6) (f : Partition → Partition) : (setPar p f s).tablePoison = s.tablePoison := rfl
@[simp] theorem setPar_copies (p : BitVec 6) (f : Partition → Partition) : (setPar p f s).copies = s.copies := rfl
@[simp] theorem setPar_clocks (p : BitVec 6) (f : Partition → Partition) : (setPar p f s).clocks = s.clocks := rfl
@[simp] theorem setPar_lands (p : BitVec 6) (f : Partition → Partition) : (setPar p f s).lands = s.lands := rfl
@[simp] theorem setPar_stores (p : BitVec 6) (f : Partition → Partition) : (setPar p f s).stores = s.stores := rfl
@[simp] theorem setPar_upds (p : BitVec 6) (f : Partition → Partition) : (setPar p f s).upds = s.upds := rfl
@[simp] theorem setPar_cmds (p : BitVec 6) (f : Partition → Partition) : (setPar p f s).cmds = s.cmds := rfl
@[simp] theorem setPar_pris (p : BitVec 6) (f : Partition → Partition) : (setPar p f s).pris = s.pris := rfl
@[simp] theorem setPar_recs (p : BitVec 6) (f : Partition → Partition) : (setPar p f s).recs = s.recs := rfl
@[simp] theorem setPar_dones (p : BitVec 6) (f : Partition → Partition) : (setPar p f s).dones = s.dones := rfl
@[simp] theorem setPar_sqs (p : BitVec 6) (f : Partition → Partition) : (setPar p f s).sqs = s.sqs := rfl
@[simp] theorem setPar_dropped (p : BitVec 6) (f : Partition → Partition) : (setPar p f s).dropped = s.dropped := rfl
@[simp] theorem setPar_deferred (p : BitVec 6) (f : Partition → Partition) : (setPar p f s).deferred = s.deferred := rfl
@[simp] theorem setPar_breaches (p : BitVec 6) (f : Partition → Partition) : (setPar p f s).breaches = s.breaches := rfl
@[simp] theorem setPar_stale (p : BitVec 6) (f : Partition → Partition) : (setPar p f s).stale = s.stale := rfl
@[simp] theorem setPar_bare (p : BitVec 6) (f : Partition → Partition) : (setPar p f s).bare = s.bare := rfl
@[simp] theorem setPar_kills (p : BitVec 6) (f : Partition → Partition) : (setPar p f s).kills = s.kills := rfl
@[simp] theorem setPar_notes (p : BitVec 6) (f : Partition → Partition) : (setPar p f s).notes = s.notes := rfl
@[simp] theorem setPar_ports (p : BitVec 6) (f : Partition → Partition) : (setPar p f s).ports = s.ports := rfl
@[simp] theorem setPar_peers (p : BitVec 6) (f : Partition → Partition) : (setPar p f s).peers = s.peers := rfl
@[simp] theorem setPar_peerMem (p : BitVec 6) (f : Partition → Partition) : (setPar p f s).peerMem = s.peerMem := rfl
@[simp] theorem setPar_arrivals (p : BitVec 6) (f : Partition → Partition) : (setPar p f s).arrivals = s.arrivals := rfl
@[simp] theorem setPar_ck (p : BitVec 6) (f : Partition → Partition) : (setPar p f s).ck = s.ck := rfl
@[simp] theorem setPar_tier (p : BitVec 6) (f : Partition → Partition) : (setPar p f s).tier = s.tier := rfl
@[simp] theorem setPar_out (p : BitVec 6) (f : Partition → Partition) : (setPar p f s).out = s.out := rfl

/-! ### setCore -/

@[simp] theorem setCore_inbox (k : Nat) (f : Core → Core) : (setCore k f s).inbox = s.inbox := rfl
@[simp] theorem setCore_agent (k : Nat) (f : Core → Core) : (setCore k f s).agent = s.agent := rfl
@[simp] theorem setCore_iss (k : Nat) (f : Core → Core) : (setCore k f s).iss = s.iss := rfl
@[simp] theorem setCore_tick (k : Nat) (f : Core → Core) : (setCore k f s).tick = s.tick := rfl
@[simp] theorem setCore_nextId (k : Nat) (f : Core → Core) : (setCore k f s).nextId = s.nextId := rfl
@[simp] theorem setCore_clockMhz (k : Nat) (f : Core → Core) : (setCore k f s).clockMhz = s.clockMhz := rfl
@[simp] theorem setCore_thermalStop (k : Nat) (f : Core → Core) : (setCore k f s).thermalStop = s.thermalStop := rfl
@[simp] theorem setCore_measures (k : Nat) (f : Core → Core) : (setCore k f s).measures = s.measures := rfl
@[simp] theorem setCore_fwVersion (k : Nat) (f : Core → Core) : (setCore k f s).fwVersion = s.fwVersion := rfl
@[simp] theorem setCore_fwImage (k : Nat) (f : Core → Core) : (setCore k f s).fwImage = s.fwImage := rfl
@[simp] theorem setCore_fwRuns (k : Nat) (f : Core → Core) : (setCore k f s).fwRuns = s.fwRuns := rfl
@[simp] theorem setCore_fns (k : Nat) (f : Core → Core) : (setCore k f s).fns = s.fns := rfl
@[simp] theorem setCore_pf (k : Nat) (f : Core → Core) : (setCore k f s).pf = s.pf := rfl
@[simp] theorem setCore_spdm (k : Nat) (f : Core → Core) : (setCore k f s).spdm = s.spdm := rfl
@[simp] theorem setCore_pars (k : Nat) (f : Core → Core) : (setCore k f s).pars = s.pars := rfl
@[simp] theorem setCore_ctxs (k : Nat) (f : Core → Core) : (setCore k f s).ctxs = s.ctxs := rfl
@[simp] theorem setCore_clus (k : Nat) (f : Core → Core) : (setCore k f s).clus = s.clus := rfl
@[simp] theorem setCore_teams (k : Nat) (f : Core → Core) : (setCore k f s).teams = s.teams := rfl
@[simp] theorem setCore_groups (k : Nat) (f : Core → Core) : (setCore k f s).groups = s.groups := rfl
@[simp] theorem setCore_parts (k : Nat) (f : Core → Core) : (setCore k f s).parts = s.parts := rfl
@[simp] theorem setCore_seqs (k : Nat) (f : Core → Core) : (setCore k f s).seqs = s.seqs := rfl
@[simp] theorem setCore_cores (k : Nat) (f : Core → Core) : (setCore k f s).cores = Cells.put Core.zero k (f (Cells.get Core.zero k s.cores)) s.cores := rfl
@[simp] theorem setCore_quads (k : Nat) (f : Core → Core) : (setCore k f s).quads = s.quads := rfl
@[simp] theorem setCore_frames (k : Nat) (f : Core → Core) : (setCore k f s).frames = s.frames := rfl
@[simp] theorem setCore_mem (k : Nat) (f : Core → Core) : (setCore k f s).mem = s.mem := rfl
@[simp] theorem setCore_poison (k : Nat) (f : Core → Core) : (setCore k f s).poison = s.poison := rfl
@[simp] theorem setCore_tablePoison (k : Nat) (f : Core → Core) : (setCore k f s).tablePoison = s.tablePoison := rfl
@[simp] theorem setCore_copies (k : Nat) (f : Core → Core) : (setCore k f s).copies = s.copies := rfl
@[simp] theorem setCore_clocks (k : Nat) (f : Core → Core) : (setCore k f s).clocks = s.clocks := rfl
@[simp] theorem setCore_lands (k : Nat) (f : Core → Core) : (setCore k f s).lands = s.lands := rfl
@[simp] theorem setCore_stores (k : Nat) (f : Core → Core) : (setCore k f s).stores = s.stores := rfl
@[simp] theorem setCore_upds (k : Nat) (f : Core → Core) : (setCore k f s).upds = s.upds := rfl
@[simp] theorem setCore_cmds (k : Nat) (f : Core → Core) : (setCore k f s).cmds = s.cmds := rfl
@[simp] theorem setCore_pris (k : Nat) (f : Core → Core) : (setCore k f s).pris = s.pris := rfl
@[simp] theorem setCore_recs (k : Nat) (f : Core → Core) : (setCore k f s).recs = s.recs := rfl
@[simp] theorem setCore_dones (k : Nat) (f : Core → Core) : (setCore k f s).dones = s.dones := rfl
@[simp] theorem setCore_sqs (k : Nat) (f : Core → Core) : (setCore k f s).sqs = s.sqs := rfl
@[simp] theorem setCore_dropped (k : Nat) (f : Core → Core) : (setCore k f s).dropped = s.dropped := rfl
@[simp] theorem setCore_deferred (k : Nat) (f : Core → Core) : (setCore k f s).deferred = s.deferred := rfl
@[simp] theorem setCore_breaches (k : Nat) (f : Core → Core) : (setCore k f s).breaches = s.breaches := rfl
@[simp] theorem setCore_stale (k : Nat) (f : Core → Core) : (setCore k f s).stale = s.stale := rfl
@[simp] theorem setCore_bare (k : Nat) (f : Core → Core) : (setCore k f s).bare = s.bare := rfl
@[simp] theorem setCore_kills (k : Nat) (f : Core → Core) : (setCore k f s).kills = s.kills := rfl
@[simp] theorem setCore_notes (k : Nat) (f : Core → Core) : (setCore k f s).notes = s.notes := rfl
@[simp] theorem setCore_ports (k : Nat) (f : Core → Core) : (setCore k f s).ports = s.ports := rfl
@[simp] theorem setCore_peers (k : Nat) (f : Core → Core) : (setCore k f s).peers = s.peers := rfl
@[simp] theorem setCore_peerMem (k : Nat) (f : Core → Core) : (setCore k f s).peerMem = s.peerMem := rfl
@[simp] theorem setCore_arrivals (k : Nat) (f : Core → Core) : (setCore k f s).arrivals = s.arrivals := rfl
@[simp] theorem setCore_ck (k : Nat) (f : Core → Core) : (setCore k f s).ck = s.ck := rfl
@[simp] theorem setCore_tier (k : Nat) (f : Core → Core) : (setCore k f s).tier = s.tier := rfl
@[simp] theorem setCore_out (k : Nat) (f : Core → Core) : (setCore k f s).out = s.out := rfl

/-! ### setQuad -/

@[simp] theorem setQuad_inbox (k : Nat) (f : Quad → Quad) : (setQuad k f s).inbox = s.inbox := rfl
@[simp] theorem setQuad_agent (k : Nat) (f : Quad → Quad) : (setQuad k f s).agent = s.agent := rfl
@[simp] theorem setQuad_iss (k : Nat) (f : Quad → Quad) : (setQuad k f s).iss = s.iss := rfl
@[simp] theorem setQuad_tick (k : Nat) (f : Quad → Quad) : (setQuad k f s).tick = s.tick := rfl
@[simp] theorem setQuad_nextId (k : Nat) (f : Quad → Quad) : (setQuad k f s).nextId = s.nextId := rfl
@[simp] theorem setQuad_clockMhz (k : Nat) (f : Quad → Quad) : (setQuad k f s).clockMhz = s.clockMhz := rfl
@[simp] theorem setQuad_thermalStop (k : Nat) (f : Quad → Quad) : (setQuad k f s).thermalStop = s.thermalStop := rfl
@[simp] theorem setQuad_measures (k : Nat) (f : Quad → Quad) : (setQuad k f s).measures = s.measures := rfl
@[simp] theorem setQuad_fwVersion (k : Nat) (f : Quad → Quad) : (setQuad k f s).fwVersion = s.fwVersion := rfl
@[simp] theorem setQuad_fwImage (k : Nat) (f : Quad → Quad) : (setQuad k f s).fwImage = s.fwImage := rfl
@[simp] theorem setQuad_fwRuns (k : Nat) (f : Quad → Quad) : (setQuad k f s).fwRuns = s.fwRuns := rfl
@[simp] theorem setQuad_fns (k : Nat) (f : Quad → Quad) : (setQuad k f s).fns = s.fns := rfl
@[simp] theorem setQuad_pf (k : Nat) (f : Quad → Quad) : (setQuad k f s).pf = s.pf := rfl
@[simp] theorem setQuad_spdm (k : Nat) (f : Quad → Quad) : (setQuad k f s).spdm = s.spdm := rfl
@[simp] theorem setQuad_pars (k : Nat) (f : Quad → Quad) : (setQuad k f s).pars = s.pars := rfl
@[simp] theorem setQuad_ctxs (k : Nat) (f : Quad → Quad) : (setQuad k f s).ctxs = s.ctxs := rfl
@[simp] theorem setQuad_clus (k : Nat) (f : Quad → Quad) : (setQuad k f s).clus = s.clus := rfl
@[simp] theorem setQuad_teams (k : Nat) (f : Quad → Quad) : (setQuad k f s).teams = s.teams := rfl
@[simp] theorem setQuad_groups (k : Nat) (f : Quad → Quad) : (setQuad k f s).groups = s.groups := rfl
@[simp] theorem setQuad_parts (k : Nat) (f : Quad → Quad) : (setQuad k f s).parts = s.parts := rfl
@[simp] theorem setQuad_seqs (k : Nat) (f : Quad → Quad) : (setQuad k f s).seqs = s.seqs := rfl
@[simp] theorem setQuad_cores (k : Nat) (f : Quad → Quad) : (setQuad k f s).cores = s.cores := rfl
@[simp] theorem setQuad_quads (k : Nat) (f : Quad → Quad) : (setQuad k f s).quads = Cells.put Quad.zero k (f (Cells.get Quad.zero k s.quads)) s.quads := rfl
@[simp] theorem setQuad_frames (k : Nat) (f : Quad → Quad) : (setQuad k f s).frames = s.frames := rfl
@[simp] theorem setQuad_mem (k : Nat) (f : Quad → Quad) : (setQuad k f s).mem = s.mem := rfl
@[simp] theorem setQuad_poison (k : Nat) (f : Quad → Quad) : (setQuad k f s).poison = s.poison := rfl
@[simp] theorem setQuad_tablePoison (k : Nat) (f : Quad → Quad) : (setQuad k f s).tablePoison = s.tablePoison := rfl
@[simp] theorem setQuad_copies (k : Nat) (f : Quad → Quad) : (setQuad k f s).copies = s.copies := rfl
@[simp] theorem setQuad_clocks (k : Nat) (f : Quad → Quad) : (setQuad k f s).clocks = s.clocks := rfl
@[simp] theorem setQuad_lands (k : Nat) (f : Quad → Quad) : (setQuad k f s).lands = s.lands := rfl
@[simp] theorem setQuad_stores (k : Nat) (f : Quad → Quad) : (setQuad k f s).stores = s.stores := rfl
@[simp] theorem setQuad_upds (k : Nat) (f : Quad → Quad) : (setQuad k f s).upds = s.upds := rfl
@[simp] theorem setQuad_cmds (k : Nat) (f : Quad → Quad) : (setQuad k f s).cmds = s.cmds := rfl
@[simp] theorem setQuad_pris (k : Nat) (f : Quad → Quad) : (setQuad k f s).pris = s.pris := rfl
@[simp] theorem setQuad_recs (k : Nat) (f : Quad → Quad) : (setQuad k f s).recs = s.recs := rfl
@[simp] theorem setQuad_dones (k : Nat) (f : Quad → Quad) : (setQuad k f s).dones = s.dones := rfl
@[simp] theorem setQuad_sqs (k : Nat) (f : Quad → Quad) : (setQuad k f s).sqs = s.sqs := rfl
@[simp] theorem setQuad_dropped (k : Nat) (f : Quad → Quad) : (setQuad k f s).dropped = s.dropped := rfl
@[simp] theorem setQuad_deferred (k : Nat) (f : Quad → Quad) : (setQuad k f s).deferred = s.deferred := rfl
@[simp] theorem setQuad_breaches (k : Nat) (f : Quad → Quad) : (setQuad k f s).breaches = s.breaches := rfl
@[simp] theorem setQuad_stale (k : Nat) (f : Quad → Quad) : (setQuad k f s).stale = s.stale := rfl
@[simp] theorem setQuad_bare (k : Nat) (f : Quad → Quad) : (setQuad k f s).bare = s.bare := rfl
@[simp] theorem setQuad_kills (k : Nat) (f : Quad → Quad) : (setQuad k f s).kills = s.kills := rfl
@[simp] theorem setQuad_notes (k : Nat) (f : Quad → Quad) : (setQuad k f s).notes = s.notes := rfl
@[simp] theorem setQuad_ports (k : Nat) (f : Quad → Quad) : (setQuad k f s).ports = s.ports := rfl
@[simp] theorem setQuad_peers (k : Nat) (f : Quad → Quad) : (setQuad k f s).peers = s.peers := rfl
@[simp] theorem setQuad_peerMem (k : Nat) (f : Quad → Quad) : (setQuad k f s).peerMem = s.peerMem := rfl
@[simp] theorem setQuad_arrivals (k : Nat) (f : Quad → Quad) : (setQuad k f s).arrivals = s.arrivals := rfl
@[simp] theorem setQuad_ck (k : Nat) (f : Quad → Quad) : (setQuad k f s).ck = s.ck := rfl
@[simp] theorem setQuad_tier (k : Nat) (f : Quad → Quad) : (setQuad k f s).tier = s.tier := rfl
@[simp] theorem setQuad_out (k : Nat) (f : Quad → Quad) : (setQuad k f s).out = s.out := rfl

/-! ### setFn -/

@[simp] theorem setFn_inbox (p : BitVec 6) (f : FnRegs → FnRegs) : (setFn p f s).inbox = s.inbox := rfl
@[simp] theorem setFn_agent (p : BitVec 6) (f : FnRegs → FnRegs) : (setFn p f s).agent = s.agent := rfl
@[simp] theorem setFn_iss (p : BitVec 6) (f : FnRegs → FnRegs) : (setFn p f s).iss = s.iss := rfl
@[simp] theorem setFn_tick (p : BitVec 6) (f : FnRegs → FnRegs) : (setFn p f s).tick = s.tick := rfl
@[simp] theorem setFn_nextId (p : BitVec 6) (f : FnRegs → FnRegs) : (setFn p f s).nextId = s.nextId := rfl
@[simp] theorem setFn_clockMhz (p : BitVec 6) (f : FnRegs → FnRegs) : (setFn p f s).clockMhz = s.clockMhz := rfl
@[simp] theorem setFn_thermalStop (p : BitVec 6) (f : FnRegs → FnRegs) : (setFn p f s).thermalStop = s.thermalStop := rfl
@[simp] theorem setFn_measures (p : BitVec 6) (f : FnRegs → FnRegs) : (setFn p f s).measures = s.measures := rfl
@[simp] theorem setFn_fwVersion (p : BitVec 6) (f : FnRegs → FnRegs) : (setFn p f s).fwVersion = s.fwVersion := rfl
@[simp] theorem setFn_fwImage (p : BitVec 6) (f : FnRegs → FnRegs) : (setFn p f s).fwImage = s.fwImage := rfl
@[simp] theorem setFn_fwRuns (p : BitVec 6) (f : FnRegs → FnRegs) : (setFn p f s).fwRuns = s.fwRuns := rfl
@[simp] theorem setFn_fns (p : BitVec 6) (f : FnRegs → FnRegs) : (setFn p f s).fns = Cells.put FnRegs.zero p.toNat (f (Cells.get FnRegs.zero p.toNat s.fns)) s.fns := rfl
@[simp] theorem setFn_pf (p : BitVec 6) (f : FnRegs → FnRegs) : (setFn p f s).pf = s.pf := rfl
@[simp] theorem setFn_spdm (p : BitVec 6) (f : FnRegs → FnRegs) : (setFn p f s).spdm = s.spdm := rfl
@[simp] theorem setFn_pars (p : BitVec 6) (f : FnRegs → FnRegs) : (setFn p f s).pars = s.pars := rfl
@[simp] theorem setFn_ctxs (p : BitVec 6) (f : FnRegs → FnRegs) : (setFn p f s).ctxs = s.ctxs := rfl
@[simp] theorem setFn_clus (p : BitVec 6) (f : FnRegs → FnRegs) : (setFn p f s).clus = s.clus := rfl
@[simp] theorem setFn_teams (p : BitVec 6) (f : FnRegs → FnRegs) : (setFn p f s).teams = s.teams := rfl
@[simp] theorem setFn_groups (p : BitVec 6) (f : FnRegs → FnRegs) : (setFn p f s).groups = s.groups := rfl
@[simp] theorem setFn_parts (p : BitVec 6) (f : FnRegs → FnRegs) : (setFn p f s).parts = s.parts := rfl
@[simp] theorem setFn_seqs (p : BitVec 6) (f : FnRegs → FnRegs) : (setFn p f s).seqs = s.seqs := rfl
@[simp] theorem setFn_cores (p : BitVec 6) (f : FnRegs → FnRegs) : (setFn p f s).cores = s.cores := rfl
@[simp] theorem setFn_quads (p : BitVec 6) (f : FnRegs → FnRegs) : (setFn p f s).quads = s.quads := rfl
@[simp] theorem setFn_frames (p : BitVec 6) (f : FnRegs → FnRegs) : (setFn p f s).frames = s.frames := rfl
@[simp] theorem setFn_mem (p : BitVec 6) (f : FnRegs → FnRegs) : (setFn p f s).mem = s.mem := rfl
@[simp] theorem setFn_poison (p : BitVec 6) (f : FnRegs → FnRegs) : (setFn p f s).poison = s.poison := rfl
@[simp] theorem setFn_tablePoison (p : BitVec 6) (f : FnRegs → FnRegs) : (setFn p f s).tablePoison = s.tablePoison := rfl
@[simp] theorem setFn_copies (p : BitVec 6) (f : FnRegs → FnRegs) : (setFn p f s).copies = s.copies := rfl
@[simp] theorem setFn_clocks (p : BitVec 6) (f : FnRegs → FnRegs) : (setFn p f s).clocks = s.clocks := rfl
@[simp] theorem setFn_lands (p : BitVec 6) (f : FnRegs → FnRegs) : (setFn p f s).lands = s.lands := rfl
@[simp] theorem setFn_stores (p : BitVec 6) (f : FnRegs → FnRegs) : (setFn p f s).stores = s.stores := rfl
@[simp] theorem setFn_upds (p : BitVec 6) (f : FnRegs → FnRegs) : (setFn p f s).upds = s.upds := rfl
@[simp] theorem setFn_cmds (p : BitVec 6) (f : FnRegs → FnRegs) : (setFn p f s).cmds = s.cmds := rfl
@[simp] theorem setFn_pris (p : BitVec 6) (f : FnRegs → FnRegs) : (setFn p f s).pris = s.pris := rfl
@[simp] theorem setFn_recs (p : BitVec 6) (f : FnRegs → FnRegs) : (setFn p f s).recs = s.recs := rfl
@[simp] theorem setFn_dones (p : BitVec 6) (f : FnRegs → FnRegs) : (setFn p f s).dones = s.dones := rfl
@[simp] theorem setFn_sqs (p : BitVec 6) (f : FnRegs → FnRegs) : (setFn p f s).sqs = s.sqs := rfl
@[simp] theorem setFn_dropped (p : BitVec 6) (f : FnRegs → FnRegs) : (setFn p f s).dropped = s.dropped := rfl
@[simp] theorem setFn_deferred (p : BitVec 6) (f : FnRegs → FnRegs) : (setFn p f s).deferred = s.deferred := rfl
@[simp] theorem setFn_breaches (p : BitVec 6) (f : FnRegs → FnRegs) : (setFn p f s).breaches = s.breaches := rfl
@[simp] theorem setFn_stale (p : BitVec 6) (f : FnRegs → FnRegs) : (setFn p f s).stale = s.stale := rfl
@[simp] theorem setFn_bare (p : BitVec 6) (f : FnRegs → FnRegs) : (setFn p f s).bare = s.bare := rfl
@[simp] theorem setFn_kills (p : BitVec 6) (f : FnRegs → FnRegs) : (setFn p f s).kills = s.kills := rfl
@[simp] theorem setFn_notes (p : BitVec 6) (f : FnRegs → FnRegs) : (setFn p f s).notes = s.notes := rfl
@[simp] theorem setFn_ports (p : BitVec 6) (f : FnRegs → FnRegs) : (setFn p f s).ports = s.ports := rfl
@[simp] theorem setFn_peers (p : BitVec 6) (f : FnRegs → FnRegs) : (setFn p f s).peers = s.peers := rfl
@[simp] theorem setFn_peerMem (p : BitVec 6) (f : FnRegs → FnRegs) : (setFn p f s).peerMem = s.peerMem := rfl
@[simp] theorem setFn_arrivals (p : BitVec 6) (f : FnRegs → FnRegs) : (setFn p f s).arrivals = s.arrivals := rfl
@[simp] theorem setFn_ck (p : BitVec 6) (f : FnRegs → FnRegs) : (setFn p f s).ck = s.ck := rfl
@[simp] theorem setFn_tier (p : BitVec 6) (f : FnRegs → FnRegs) : (setFn p f s).tier = s.tier := rfl
@[simp] theorem setFn_out (p : BitVec 6) (f : FnRegs → FnRegs) : (setFn p f s).out = s.out := rfl

/-! ### send -/

@[simp] theorem send_inbox (m : HostMsg) : (send m s).inbox = s.inbox := rfl
@[simp] theorem send_agent (m : HostMsg) : (send m s).agent = s.agent := rfl
@[simp] theorem send_iss (m : HostMsg) : (send m s).iss = s.iss := rfl
@[simp] theorem send_tick (m : HostMsg) : (send m s).tick = s.tick := rfl
@[simp] theorem send_nextId (m : HostMsg) : (send m s).nextId = s.nextId := rfl
@[simp] theorem send_clockMhz (m : HostMsg) : (send m s).clockMhz = s.clockMhz := rfl
@[simp] theorem send_thermalStop (m : HostMsg) : (send m s).thermalStop = s.thermalStop := rfl
@[simp] theorem send_measures (m : HostMsg) : (send m s).measures = s.measures := rfl
@[simp] theorem send_fwVersion (m : HostMsg) : (send m s).fwVersion = s.fwVersion := rfl
@[simp] theorem send_fwImage (m : HostMsg) : (send m s).fwImage = s.fwImage := rfl
@[simp] theorem send_fwRuns (m : HostMsg) : (send m s).fwRuns = s.fwRuns := rfl
@[simp] theorem send_fns (m : HostMsg) : (send m s).fns = s.fns := rfl
@[simp] theorem send_pf (m : HostMsg) : (send m s).pf = s.pf := rfl
@[simp] theorem send_spdm (m : HostMsg) : (send m s).spdm = s.spdm := rfl
@[simp] theorem send_pars (m : HostMsg) : (send m s).pars = s.pars := rfl
@[simp] theorem send_ctxs (m : HostMsg) : (send m s).ctxs = s.ctxs := rfl
@[simp] theorem send_clus (m : HostMsg) : (send m s).clus = s.clus := rfl
@[simp] theorem send_teams (m : HostMsg) : (send m s).teams = s.teams := rfl
@[simp] theorem send_groups (m : HostMsg) : (send m s).groups = s.groups := rfl
@[simp] theorem send_parts (m : HostMsg) : (send m s).parts = s.parts := rfl
@[simp] theorem send_seqs (m : HostMsg) : (send m s).seqs = s.seqs := rfl
@[simp] theorem send_cores (m : HostMsg) : (send m s).cores = s.cores := rfl
@[simp] theorem send_quads (m : HostMsg) : (send m s).quads = s.quads := rfl
@[simp] theorem send_frames (m : HostMsg) : (send m s).frames = s.frames := rfl
@[simp] theorem send_mem (m : HostMsg) : (send m s).mem = s.mem := rfl
@[simp] theorem send_poison (m : HostMsg) : (send m s).poison = s.poison := rfl
@[simp] theorem send_tablePoison (m : HostMsg) : (send m s).tablePoison = s.tablePoison := rfl
@[simp] theorem send_copies (m : HostMsg) : (send m s).copies = s.copies := rfl
@[simp] theorem send_clocks (m : HostMsg) : (send m s).clocks = s.clocks := rfl
@[simp] theorem send_lands (m : HostMsg) : (send m s).lands = s.lands := rfl
@[simp] theorem send_stores (m : HostMsg) : (send m s).stores = s.stores := rfl
@[simp] theorem send_upds (m : HostMsg) : (send m s).upds = s.upds := rfl
@[simp] theorem send_cmds (m : HostMsg) : (send m s).cmds = s.cmds := rfl
@[simp] theorem send_pris (m : HostMsg) : (send m s).pris = s.pris := rfl
@[simp] theorem send_recs (m : HostMsg) : (send m s).recs = s.recs := rfl
@[simp] theorem send_dones (m : HostMsg) : (send m s).dones = s.dones := rfl
@[simp] theorem send_sqs (m : HostMsg) : (send m s).sqs = s.sqs := rfl
@[simp] theorem send_dropped (m : HostMsg) : (send m s).dropped = s.dropped := rfl
@[simp] theorem send_deferred (m : HostMsg) : (send m s).deferred = s.deferred := rfl
@[simp] theorem send_breaches (m : HostMsg) : (send m s).breaches = s.breaches := rfl
@[simp] theorem send_stale (m : HostMsg) : (send m s).stale = s.stale := rfl
@[simp] theorem send_bare (m : HostMsg) : (send m s).bare = s.bare := rfl
@[simp] theorem send_kills (m : HostMsg) : (send m s).kills = s.kills := rfl
@[simp] theorem send_notes (m : HostMsg) : (send m s).notes = s.notes := rfl
@[simp] theorem send_ports (m : HostMsg) : (send m s).ports = s.ports := rfl
@[simp] theorem send_peers (m : HostMsg) : (send m s).peers = s.peers := rfl
@[simp] theorem send_peerMem (m : HostMsg) : (send m s).peerMem = s.peerMem := rfl
@[simp] theorem send_arrivals (m : HostMsg) : (send m s).arrivals = s.arrivals := rfl
@[simp] theorem send_ck (m : HostMsg) : (send m s).ck = s.ck := rfl
@[simp] theorem send_tier (m : HostMsg) : (send m s).tier = s.tier := rfl
@[simp] theorem send_out (m : HostMsg) : (send m s).out = s.out ++ [m] := rfl

/-! ### setThread -/

@[simp] theorem setThread_inbox (a : Agent) (f : Thread → Thread) : (setThread a f s).inbox = s.inbox := by cases a <;> rfl
@[simp] theorem setThread_agent (a : Agent) (f : Thread → Thread) : (setThread a f s).agent = s.agent := by cases a <;> rfl
@[simp] theorem setThread_iss (a : Agent) (f : Thread → Thread) : (setThread a f s).iss = s.iss := by cases a <;> rfl
@[simp] theorem setThread_tick (a : Agent) (f : Thread → Thread) : (setThread a f s).tick = s.tick := by cases a <;> rfl
@[simp] theorem setThread_nextId (a : Agent) (f : Thread → Thread) : (setThread a f s).nextId = s.nextId := by cases a <;> rfl
@[simp] theorem setThread_clockMhz (a : Agent) (f : Thread → Thread) : (setThread a f s).clockMhz = s.clockMhz := by cases a <;> rfl
@[simp] theorem setThread_thermalStop (a : Agent) (f : Thread → Thread) : (setThread a f s).thermalStop = s.thermalStop := by cases a <;> rfl
@[simp] theorem setThread_measures (a : Agent) (f : Thread → Thread) : (setThread a f s).measures = s.measures := by cases a <;> rfl
@[simp] theorem setThread_fwVersion (a : Agent) (f : Thread → Thread) : (setThread a f s).fwVersion = s.fwVersion := by cases a <;> rfl
@[simp] theorem setThread_fwImage (a : Agent) (f : Thread → Thread) : (setThread a f s).fwImage = s.fwImage := by cases a <;> rfl
@[simp] theorem setThread_fwRuns (a : Agent) (f : Thread → Thread) : (setThread a f s).fwRuns = s.fwRuns := by cases a <;> rfl
@[simp] theorem setThread_fns (a : Agent) (f : Thread → Thread) : (setThread a f s).fns = s.fns := by cases a <;> rfl
@[simp] theorem setThread_pf (a : Agent) (f : Thread → Thread) : (setThread a f s).pf = s.pf := by cases a <;> rfl
@[simp] theorem setThread_spdm (a : Agent) (f : Thread → Thread) : (setThread a f s).spdm = s.spdm := by cases a <;> rfl
@[simp] theorem setThread_pars (a : Agent) (f : Thread → Thread) : (setThread a f s).pars = s.pars := by cases a <;> rfl
@[simp] theorem setThread_ctxs (a : Agent) (f : Thread → Thread) : (setThread a f s).ctxs = s.ctxs := by cases a <;> rfl
@[simp] theorem setThread_clus (a : Agent) (f : Thread → Thread) : (setThread a f s).clus = s.clus := by cases a <;> rfl
@[simp] theorem setThread_teams (a : Agent) (f : Thread → Thread) : (setThread a f s).teams = s.teams := by cases a <;> rfl
@[simp] theorem setThread_groups (a : Agent) (f : Thread → Thread) : (setThread a f s).groups = s.groups := by cases a <;> rfl
@[simp] theorem setThread_cores (a : Agent) (f : Thread → Thread) : (setThread a f s).cores = s.cores := by cases a <;> rfl
@[simp] theorem setThread_quads (a : Agent) (f : Thread → Thread) : (setThread a f s).quads = s.quads := by cases a <;> rfl
@[simp] theorem setThread_frames (a : Agent) (f : Thread → Thread) : (setThread a f s).frames = s.frames := by cases a <;> rfl
@[simp] theorem setThread_mem (a : Agent) (f : Thread → Thread) : (setThread a f s).mem = s.mem := by cases a <;> rfl
@[simp] theorem setThread_poison (a : Agent) (f : Thread → Thread) : (setThread a f s).poison = s.poison := by cases a <;> rfl
@[simp] theorem setThread_tablePoison (a : Agent) (f : Thread → Thread) : (setThread a f s).tablePoison = s.tablePoison := by cases a <;> rfl
@[simp] theorem setThread_copies (a : Agent) (f : Thread → Thread) : (setThread a f s).copies = s.copies := by cases a <;> rfl
@[simp] theorem setThread_clocks (a : Agent) (f : Thread → Thread) : (setThread a f s).clocks = s.clocks := by cases a <;> rfl
@[simp] theorem setThread_lands (a : Agent) (f : Thread → Thread) : (setThread a f s).lands = s.lands := by cases a <;> rfl
@[simp] theorem setThread_stores (a : Agent) (f : Thread → Thread) : (setThread a f s).stores = s.stores := by cases a <;> rfl
@[simp] theorem setThread_upds (a : Agent) (f : Thread → Thread) : (setThread a f s).upds = s.upds := by cases a <;> rfl
@[simp] theorem setThread_cmds (a : Agent) (f : Thread → Thread) : (setThread a f s).cmds = s.cmds := by cases a <;> rfl
@[simp] theorem setThread_pris (a : Agent) (f : Thread → Thread) : (setThread a f s).pris = s.pris := by cases a <;> rfl
@[simp] theorem setThread_recs (a : Agent) (f : Thread → Thread) : (setThread a f s).recs = s.recs := by cases a <;> rfl
@[simp] theorem setThread_dones (a : Agent) (f : Thread → Thread) : (setThread a f s).dones = s.dones := by cases a <;> rfl
@[simp] theorem setThread_sqs (a : Agent) (f : Thread → Thread) : (setThread a f s).sqs = s.sqs := by cases a <;> rfl
@[simp] theorem setThread_dropped (a : Agent) (f : Thread → Thread) : (setThread a f s).dropped = s.dropped := by cases a <;> rfl
@[simp] theorem setThread_deferred (a : Agent) (f : Thread → Thread) : (setThread a f s).deferred = s.deferred := by cases a <;> rfl
@[simp] theorem setThread_breaches (a : Agent) (f : Thread → Thread) : (setThread a f s).breaches = s.breaches := by cases a <;> rfl
@[simp] theorem setThread_stale (a : Agent) (f : Thread → Thread) : (setThread a f s).stale = s.stale := by cases a <;> rfl
@[simp] theorem setThread_bare (a : Agent) (f : Thread → Thread) : (setThread a f s).bare = s.bare := by cases a <;> rfl
@[simp] theorem setThread_kills (a : Agent) (f : Thread → Thread) : (setThread a f s).kills = s.kills := by cases a <;> rfl
@[simp] theorem setThread_notes (a : Agent) (f : Thread → Thread) : (setThread a f s).notes = s.notes := by cases a <;> rfl
@[simp] theorem setThread_ports (a : Agent) (f : Thread → Thread) : (setThread a f s).ports = s.ports := by cases a <;> rfl
@[simp] theorem setThread_peers (a : Agent) (f : Thread → Thread) : (setThread a f s).peers = s.peers := by cases a <;> rfl
@[simp] theorem setThread_peerMem (a : Agent) (f : Thread → Thread) : (setThread a f s).peerMem = s.peerMem := by cases a <;> rfl
@[simp] theorem setThread_arrivals (a : Agent) (f : Thread → Thread) : (setThread a f s).arrivals = s.arrivals := by cases a <;> rfl
@[simp] theorem setThread_ck (a : Agent) (f : Thread → Thread) : (setThread a f s).ck = s.ck := by cases a <;> rfl
@[simp] theorem setThread_tier (a : Agent) (f : Thread → Thread) : (setThread a f s).tier = s.tier := by cases a <;> rfl
@[simp] theorem setThread_out (a : Agent) (f : Thread → Thread) : (setThread a f s).out = s.out := by cases a <;> rfl

/-- The thread of the agent whose thread was changed. -/
@[simp] theorem thread?_setThread_self (a : Agent) (f : Thread → Thread) : thread? (setThread a f s) a = (thread? s a).map f := by
  cases a <;> simp [thread?, setThread, Option.map_map, Function.comp_def]
/-- A change of one thread leaves every other alone. -/
theorem thread?_setThread_ne {a b : Agent} (h : b ≠ a) (f : Thread → Thread) : thread? (setThread a f s) b = thread? s b := by
  cases a <;> cases b <;> simp [thread?, setThread] <;> rw [Cells.get?_modify_ne (by simpa using h)]

end Sys2Proof.Machine
end

