-- ==== Sys2Proof/Laws/Retire.lean ====
section
/-!
SUPPORT. How an instruction of a part ends: what retiring changes (R36, R391), and that a meaning that changes only the
part's group, or only the part, leaves all else alone.
-/

namespace Sys2Proof.Claim

open Machine

/-- The active lanes of the meaning are those of the claim. -/
theorem mem_actives {p : Part} {g : Group} {pk : BitVec 2} {l : Nat} : l ∈ actives p g pk ↔ Active p g pk l := by
  simp [actives, Active]

/-- Counting for `prof` changes a core's counts only. -/
theorem countProf_cores (c x k n : Nat) (s : State) : CoresKept s (countProf c x k n s) := by
  intro j
  unfold countProf
  split
  · by_cases h : j = c
    · subst h; simp [coreOf]
    · simp [coreOf, Cells.get_put_ne h]
  · rfl
/-- Counting for `prof` changes nothing but cores. -/
theorem countProf_rest (c x k n : Nat) (s : State) : { countProf c x k n s with cores := s.cores } = s := by
  unfold countProf setCore
  split <;> rfl

/-- Profiling counts kept twice over. -/
theorem CoresKept.trans {s t u : State} (h : CoresKept s t) (h' : CoresKept t u) : CoresKept s u := by
  intro k; rw [h' k, h k]

/-- What `countProf` leaves alone, field by field. -/
@[simp] theorem countProf_parts (c x k n : Nat) (s : State) : (countProf c x k n s).parts = s.parts := by
  unfold countProf; split <;> rfl
@[simp] theorem countProf_groups (c x k n : Nat) (s : State) : (countProf c x k n s).groups = s.groups := by
  unfold countProf; split <;> rfl
@[simp] theorem countProf_tick (c x k n : Nat) (s : State) : (countProf c x k n s).tick = s.tick := by
  unfold countProf; split <;> rfl

/-- A part that retires at an address: its thread and its count change, and profiling counts. -/
theorem retireAt_part {s : State} {pid : Nat} {p : Part} (n : Nat) (pc : DWord) (h : Cells.get? pid s.parts = some p) :
    Cells.get? pid (retireAt (.part pid) n pc s).parts = some (retiredAt s pc p) ∧
      (∀ q, q ≠ pid → Cells.get? q (retireAt (.part pid) n pc s).parts = Cells.get? q s.parts) ∧
      (retireAt (.part pid) n pc s).groups = s.groups ∧ CoresKept s (retireAt (.part pid) n pc s) ∧
      { retireAt (.part pid) n pc s with parts := s.parts, cores := s.cores } = s := by
  simp only [retireAt, countIssue, setThread]
  refine ⟨?_, fun q hq => ?_, by simp, ?_, ?_⟩
  · simp [h, retiredAt, retireThread]
  · simp [Cells.get?_modify_ne hq]
  · intro k
    have := ((countProf_cores (agentCore s (.part pid)) ((agentCtx s (.part pid)).getD 0) 1 1
      (setPart pid (fun p => { p with issued := p.issued + 1, last := s.tick }) s)).trans
      (countProf_cores (agentCore s (.part pid)) ((agentCtx s (.part pid)).getD 0) 2 n _)) k
    simpa [coreOf] using this
  · unfold countProf setCore setPart
    split <;> rfl

/-- A meaning that changes only the executing part's group and retires. -/
theorem finish_group {s : State} {pid : Nat} {p : Part} {g : Group} (h : Runs s pid p g) (n : Nat) (f : Group → Group) :
    OnlyPart s (finish s.agent n (.done (setGroup p.gid f s))) pid p (retired s p) (f g) := by
  obtain ⟨ha, hp, hg⟩ := h
  have hq : Cells.get? pid (setGroup p.gid f s).parts = some p := by simpa using hp
  obtain ⟨h1, h2, h3, h4, h5⟩ := retireAt_part (s := setGroup p.gid f s) n (nextPc s p.thr.pc) hq
  have e : finish s.agent n (.done (setGroup p.gid f s)) =
      retireAt (.part pid) n (nextPc s p.thr.pc) (setGroup p.gid f s) := by
    simp [finish, retire, ha, thread?, hp, nextPc]
  rw [e]
  refine ⟨by simpa [retired, retiredAt, nextPc, pc56] using h1, by simp [h3, hg], ?_, ?_, ?_, ?_⟩
  · simpa using h2
  · intro q hq; rw [h3]; simp [Cells.get?_modify_ne hq]
  · simpa [CoresKept, coreOf] using h4
  · have := congrArg (fun t : State => { t with groups := s.groups }) h5
    exact this

end Sys2Proof.Claim
end

