-- ==== Sys2Proof/Laws/Lanes.lean ====
section
/-!
SUPPORT. Lane operands: when the checks of R137 pass, and what writing lanes of a register changes (R23, R25).
-/

namespace Sys2Proof.Claim

open Machine

/-! ### Sets of lanes -/

/-- Bits of the mask of a list of lanes. -/
theorem getLsbD_maskOf (ls : List Nat) (l : Nat) : (maskOf ls).getLsbD l = (decide (l < 64) && decide (l ∈ ls)) := by
  have go : ∀ (ls : List Nat) (m : DWord), (ls.foldl (fun m l => m ||| (1#64 <<< l)) m).getLsbD l =
      (m.getLsbD l || (decide (l < 64) && decide (l ∈ ls))) := by
    intro ls
    induction ls with
    | nil => simp
    | cons a r ih =>
      intro m
      rw [List.foldl_cons, ih, BitVec.getLsbD_or, BitVec.getLsbD_shiftLeft]
      rcases Nat.lt_trichotomy l a with h | h | h
      · have e : l ≠ a := by omega
        simp [h, e]
      · subst h; by_cases h : l < 64 <;> simp [h]
      · have e : l ≠ a := by omega
        have e' : l - a ≠ 0 := by omega
        simp [e, e', BitVec.getLsbD_one]
  simpa [maskOf] using go ls 0
/-- The mask of a list of lanes below 64 is 0 exactly where the list is empty. -/
theorem maskOf_eq_zero {ls : List Nat} (h : ∀ l ∈ ls, l < 64) : maskOf ls = 0 ↔ ls = [] := by
  constructor
  · intro e
    cases ls with
    | nil => rfl
    | cons a r =>
      have := getLsbD_maskOf (a :: r) a
      rw [e] at this
      simp [h a (by simp)] at this
  · rintro rfl; rfl
/-- The active lanes of a meaning. -/
theorem mem_lanesOf {w l : Nat} {m : DWord} : l ∈ lanesOf w m ↔ l < w ∧ m.getLsbD l = true := by
  simp [lanesOf]
/-- The active set that the meaning of a lane form is given. -/
def actSet (p : Part) (g : Group) (pk : BitVec 2) : DWord :=
  p.em &&& (if pk = 0 then BitVec.allOnes 64 else Cells.get 0 pk.toNat g.masks)
theorem lanesOf_actSet (p : Part) (g : Group) (pk : BitVec 2) : lanesOf g.w (actSet p g pk) = actives p g pk := by
  unfold lanesOf actives actSet
  apply List.filter_congr
  intro l _
  by_cases h : pk = 0
  · rw [if_pos h, BitVec.getLsbD_and, BitVec.getLsbD_allOnes]
    by_cases hl : l < 64
    · simp [h, hl]
    · simp [BitVec.getLsbD_of_ge p.em l (by omega)]
  · rw [if_neg h, BitVec.getLsbD_and]
    rw [decide_eq_false h, Bool.false_or]
theorem mem_act {p : Part} {g : Group} {pk : BitVec 2} {l : Nat} :
    l ∈ lanesOf g.w (actSet p g pk) ↔ Active p g pk l := by rw [lanesOf_actSet, mem_actives]

/-! ### The checks pass -/

/-- No lane of a register is empty. -/
theorem emptyLanes_zero {g : Group} {wb n : Nat} {act : DWord}
    (h : ∀ l ∈ lanesOf g.w act, (laneWord g wb n l).full = true) : emptyLanes g wb n act = 0 := by
  have : (lanesOf g.w act).filter (fun l => !(laneWord g wb n l).full) = [] := by
    rw [List.filter_eq_nil_iff]; intro l hl; simp [h l hl]
  simp [emptyLanes, this, maskOf]
/-- No lane of a register is poisoned. -/
theorem poisonLanes_zero {g : Group} {wb n : Nat} {act : DWord}
    (h : ∀ l ∈ lanesOf g.w act, (laneWord g wb n l).poison = false) : poisonLanes g wb n act = 0 := by
  have : (lanesOf g.w act).filter (fun l => (laneWord g wb n l).poison) = [] := by
    rw [List.filter_eq_nil_iff]; intro l hl; simp [h l hl]
  simp [poisonLanes, this, maskOf]
/-- An OR over a list whose terms are 0. -/
theorem foldl_or_zero {α : Type} (ls : List α) (f : α → DWord) (h : ∀ a ∈ ls, f a = 0) :
    ls.foldl (fun m a => m ||| f a) 0 = 0 := by
  induction ls with
  | nil => rfl
  | cons a r ih =>
    rw [List.foldl_cons, h a (by simp)]
    simpa using ih fun b hb => h b (by simp [hb])

/-- The checks of a form of a part pass where every source is full and unpoisoned and every destination full (R137, R372). -/
theorem gateP_pass {p : Part} {g : Group} {act : DWord} {fs : List LaneSrc} {ss : List SSrc} {ks dv : List Nat}
    {ds : List (BitVec 5)}
    (h1 : ∀ f ∈ fs, ∀ n ∈ f.regs, ∀ l ∈ lanesOf g.w act,
      (laneWord g p.wb n l).full = true ∧ (laneWord g p.wb n l).poison = false)
    (h2 : ∀ f ∈ ss, (sregOf p.thr f.reg.toNat).full = true ∧ (sregOf p.thr f.reg.toNat).poison = false)
    (h3 : ∀ k ∈ ks, k ≠ 0 → k ∉ g.maskPoison)
    (h4 : ∀ n ∈ dv, ∀ l ∈ lanesOf g.w act, (laneWord g p.wb n l).full = true)
    (h5 : ∀ d ∈ ds, (sregOf p.thr d.toNat).full = true) : gateP p g act fs ss ks dv ds = .pass := by
  have e1 : ∀ f ∈ fs, f.empties g p.wb act = 0 := fun f hf =>
    foldl_or_zero _ _ fun n hn => emptyLanes_zero fun l hl => (h1 f hf n hn l hl).1
  have e2 : ∀ f ∈ fs, f.poisons g p.wb act = 0 := fun f hf =>
    foldl_or_zero _ _ fun n hn => poisonLanes_zero fun l hl => (h1 f hf n hn l hl).2
  have e3 : emptyTrap g p.wb act fs = none := by
    simp only [emptyTrap, Option.map_eq_none_iff, List.find?_eq_none]
    intro f hf; simp [e1 f hf]
  have e4 : emptySTrap p.thr ss = none := by
    simp only [emptySTrap, Option.map_eq_none_iff, List.find?_eq_none]
    intro f hf; simp [(h2 f hf).1]
  have e5 : fs.foldl (fun m f => m ||| f.poisons g p.wb act) 0 = 0 := foldl_or_zero _ _ e2
  have a1 : (fs.any fun f => f.empties g p.wb act != 0) = false := by
    rw [List.any_eq_false]; intro f hf; simp [e1 f hf]
  have a2 : (ss.any fun f => !(sregOf p.thr f.reg.toNat).full) = false := by
    rw [List.any_eq_false]; intro f hf; simp [(h2 f hf).1]
  have a3 : (ks.any fun k => k != 0 && g.maskPoison.contains k) = false := by
    rw [List.any_eq_false]; intro k hk
    by_cases e : k = 0
    · simp [e]
    · simpa [e] using h3 k hk e
  have a4 : (ss.any fun f => (sregOf p.thr f.reg.toNat).poison) = false := by
    rw [List.any_eq_false]; intro f hf; simp [(h2 f hf).2]
  have a5 : (dv.any fun n => emptyLanes g p.wb n act != 0) = false := by
    rw [List.any_eq_false]; intro n hn; simp [emptyLanes_zero (h4 n hn)]
  have a6 : (ds.any fun d => !(sregOf p.thr d.toNat).full) = false := by
    rw [List.any_eq_false]; intro d hd; simp [h5 d hd]
  simp only [gateP, e3, e4, e5, a1, a2, a3, a4, a5, a6]
  simp

/-- The checks of a uniform form pass. -/
theorem gateS_pass {t : Thread} {ss : List SSrc} {ds : List (BitVec 5)}
    (h2 : ∀ f ∈ ss, (sregOf t f.reg.toNat).full = true ∧ (sregOf t f.reg.toNat).poison = false)
    (h5 : ∀ d ∈ ds, (sregOf t d.toNat).full = true) : gateS t ss ds = .pass := by
  have e4 : emptySTrap t ss = none := by
    simp only [emptySTrap, Option.map_eq_none_iff, List.find?_eq_none]
    intro f hf; simp [(h2 f hf).1]
  have a2 : (ss.any fun f => !(sregOf t f.reg.toNat).full) = false := by
    rw [List.any_eq_false]; intro f hf; simp [(h2 f hf).1]
  have a4 : (ss.any fun f => (sregOf t f.reg.toNat).poison) = false := by
    rw [List.any_eq_false]; intro f hf; simp [(h2 f hf).2]
  have a6 : (ds.any fun d => !(sregOf t d.toNat).full) = false := by
    rw [List.any_eq_false]; intro d hd; simp [h5 d hd]
  simp only [gateS, e4, a2, a4, a6]
  simp

/-! ### Writing lanes -/

/-- Writing lanes of a register changes the lane words of its group only. -/
theorem putLanes_rest (wb n : Nat) (vs : List (Nat × Word)) (g : Group) : { putLanes wb n vs g with lanes := g.lanes } = g := by
  unfold putLanes
  induction vs generalizing g with
  | nil => rfl
  | cons v r ih => rw [List.foldl_cons]; exact (congrArg (fun h : Group => { h with lanes := g.lanes }) (ih (putLane wb n v.1 v.2 g)))
/-- The same, field by field where later reads need it. -/
@[simp] theorem putLanes_vregs (wb n : Nat) (vs : List (Nat × Word)) (g : Group) : (putLanes wb n vs g).vregs = g.vregs := by
  have h := congrArg Group.vregs (putLanes_rest wb n vs g)
  exact h
/-- A lane word of a group after lanes of one register have been written from a function of the lane. -/
theorem get_putLanes (g : Group) (wb n : Nat) (f : Nat → Word) (ls : List Nat) (h : ∀ l ∈ ls, l < 64) (r l : Nat) (hl : l < 64) :
    Cells.get LaneWord.zero (r * 64 + l) (putLanes wb n (ls.map fun l => (l, f l)) g).lanes =
      if r = physReg g wb n ∧ l ∈ ls then ⟨f l, true, false⟩ else Cells.get LaneWord.zero (r * 64 + l) g.lanes := by
  induction ls generalizing g with
  | nil => simp [putLanes]
  | cons a q ih =>
    have ha := h a (by simp)
    have e : putLanes wb n ((a :: q).map fun l => (l, f l)) g = putLanes wb n (q.map fun l => (l, f l)) (putLane wb n a (f a) g) := rfl
    have er : physReg (putLane wb n a (f a) g) wb n = physReg g wb n := rfl
    rw [e, ih _ (fun l hl => h l (by simp [hl])), er]
    by_cases hm : r = physReg g wb n ∧ l ∈ q
    · simp [hm]
    · rw [if_neg hm]
      simp only [putLane, laneKey]
      by_cases hk : r = physReg g wb n ∧ l = a
      · obtain ⟨rfl, rfl⟩ := hk; simp
      · rw [Cells.get_put_ne (by omega), if_neg]
        rintro ⟨rfl, hx⟩
        rcases List.mem_cons.mp hx with rfl | hx
        · exact hk ⟨rfl, rfl⟩
        · exact hm ⟨rfl, hx⟩

end Sys2Proof.Claim
end

