-- ==== Sys2Proof/Laws/Memory.lean ====
section
/-!
SUPPORT. Laws of memory: what a byte reads as after a write (R35), and that every operation on memory keeps the canonical form.
-/

namespace Sys2Proof.Machine

/-! ### Bytes -/

/-- After a write a byte reads as written, and every other byte as before. -/
theorem memByte_memWrite (m : Cells Byte) (a : Nat) (d : List Byte) (x : Nat) :
    memByte (memWrite m a d) x = if a ≤ x ∧ x < a + d.length then d.getD (x - a) 0 else memByte m x := by
  induction d generalizing m a with
  | nil => rw [memWrite, if_neg fun h => by have := h.2; simp only [List.length_nil, Nat.add_zero] at this; omega]
  | cons b r ih =>
    rw [memWrite, ih]
    by_cases h : x = a
    · subst h; rw [if_neg (by omega), if_pos (by simp)]; simp [memByte]
    · have e : memByte (Cells.put 0 a b m) x = memByte m x := Cells.get_put_ne h 0 b m
      rw [e]
      by_cases h' : a + 1 ≤ x ∧ x < a + 1 + r.length
      · rw [if_pos h', if_pos (by simp; omega)]
        have : x - a = x - (a + 1) + 1 := by omega
        rw [this]; rfl
      · rw [if_neg h', if_neg (by simp; omega)]

/-- A listed pair that a selection by key keeps is still found. -/
theorem get?_filter (f : Nat → Bool) (m : Cells Byte) (x : Nat) :
    Cells.get? x (m.filter fun p => f p.1) = if f x then Cells.get? x m else none := by
  induction m with
  | nil => simp [Cells.get?]
  | cons q r ih =>
    obtain ⟨i, v⟩ := q
    simp only [List.filter_cons, Cells.get?]
    by_cases h : x = i
    · subst h
      by_cases hf : f x = true
      · simp [hf, Cells.get?]
      · simp [hf] at ih ⊢; exact ih
    · by_cases hf : f i = true
      · simp [hf, Cells.get?, Ne.symm h, ih]
      · simp [hf, Ne.symm h, ih]

/-- Zeroed bytes read 0, and every other byte as before. -/
theorem memByte_memZero (m : Cells Byte) (a n x : Nat) :
    memByte (memZero m a n) x = if a ≤ x ∧ x < a + n then 0 else memByte m x := by
  unfold memByte memZero Cells.get
  rw [get?_filter (fun k => decide (k < a) || decide (a + n ≤ k))]
  by_cases h : a ≤ x ∧ x < a + n
  · rw [if_pos h, if_neg (by simp; omega)]; rfl
  · rw [if_neg h, if_pos (by simp; omega)]

/-! ### The canonical form of one memory -/

/-- A write keeps the canonical form. -/
theorem memWrite_wf {m : Cells Byte} (h : Memory.wf m) (a : Nat) (d : List Byte) : Memory.wf (memWrite m a d) := by
  induction d generalizing m a with
  | nil => exact h
  | cons b r ih => exact ih (Cells.canon_put h) (a + 1)
/-- Zeroing keeps the canonical form. -/
theorem memZero_wf {m : Cells Byte} (h : Memory.wf m) (a n : Nat) : Memory.wf (memZero m a n) := Cells.canon_filter _ h
/-- Single writes keep the canonical form. -/
theorem foldl_put_wf {m : Cells Byte} (h : Memory.wf m) (l : List (Nat × Byte)) :
    Memory.wf (l.foldl (fun m q => Cells.put 0 q.1 q.2 m) m) := by
  induction l generalizing m with
  | nil => exact h
  | cons q r ih => exact ih (Cells.canon_put h)

/-! ### The canonical form of a state -/

/-- A pair of a table after a change is an old pair, or the changed one. -/
theorem mem_modify {α : Type} {k : Nat} {f : α → α} {m : Cells α} {p : Nat × α} (h : p ∈ Cells.modify k f m) :
    p ∈ m ∨ ∃ v, (k, v) ∈ m ∧ p = (k, f v) := by
  induction m with
  | nil => simp [Cells.modify] at h
  | cons q r ih =>
    obtain ⟨i, v⟩ := q
    unfold Cells.modify at h
    split at h
    · rename_i e
      subst e
      rcases List.mem_cons.mp h with rfl | h
      · exact .inr ⟨v, by simp, rfl⟩
      · exact .inl (List.mem_cons_of_mem _ h)
    · rcases List.mem_cons.mp h with rfl | h
      · exact .inl (by simp)
      · rcases ih h with e | ⟨w, hw, e⟩
        · exact .inl (List.mem_cons_of_mem _ e)
        · exact .inr ⟨w, List.mem_cons_of_mem _ hw, e⟩

/-- A change of a partition that keeps its host memory canonical keeps the form. -/
theorem setPar_memWf {s : State} (h : s.memWf) (p : BitVec 6) (f : Partition → Partition)
    (hf : ∀ t, Memory.wf t.hostMem → Memory.wf (f t).hostMem) : (setPar p f s).memWf := by
  refine ⟨h.1, h.2.1, fun q hq => ?_⟩
  rcases mem_modify hq with e | ⟨v, hv, rfl⟩
  · exact h.2.2 q e
  · exact hf v (h.2.2 _ hv)

/-- A die's clock touches no memory. -/
theorem joinClock_memWf {s : State} (h : s.memWf) (d : Nat) (c : List Nat) : (joinClock d c s).memWf := h
theorem advanceClock_memWf {s : State} (h : s.memWf) (d : Nat) : (advanceClock d s).memWf := h
theorem applyUpds_memWf {s : State} (h : s.memWf) (c : DieUpd → Bool) : (applyUpds c s).memWf := h
theorem mergeClock_memWf {s : State} (h : s.memWf) (d : Nat) (c : List Nat) : (mergeClock d c s).memWf := h
theorem takeUpd_memWf {s : State} (h : s.memWf) (u : DieUpd) : (takeUpd u s).memWf := h
theorem drainUpds_memWf {s : State} (h : s.memWf) : (drainUpds s).memWf := by
  unfold drainUpds
  have h' : ({ s with copies := s.upds.foldl (fun cs u => cs.map (patchCopy u)) s.copies, upds := [] } : State).memWf := h
  generalize s.upds = l at h'
  revert h'
  generalize ({ s with copies := l.foldl (fun cs u => cs.map (patchCopy u)) s.copies, upds := [] } : State) = u
  intro h'
  induction l generalizing u with
  | nil => exact h'
  | cons q r ih => exact ih _ (mergeClock_memWf h' q.die q.clock)

/-- What a team keeps of bytes that change touches the teams only (R238). -/
theorem keepAt_teams (at_ : BitVec 6 → List Nat) (old : List (Option Byte)) (s : State) :
    ∃ ts, keepAt at_ old s = { s with teams := ts } := by
  have inner (c : Nat) (l : List Nat) (s : State) :
      ∃ ts, l.foldl (fun s va => dropUndo c va old.length (keepViews c va old s)) s = { s with teams := ts } := by
    induction l generalizing s with
    | nil => exact ⟨s.teams, rfl⟩
    | cons v r ih => obtain ⟨ts, e⟩ := ih (dropUndo c v old.length (keepViews c v old s)); exact ⟨ts, by simpa [dropUndo, keepViews] using e⟩
  have outer (l : Cells Context) (s : State) : ∃ ts, l.foldl (fun s k =>
      if k.2.lr.det then
        ((at_ k.2.part).filter (inOrdered k.2)).foldl (fun s va => dropUndo k.1 va old.length (keepViews k.1 va old s)) s
      else s) s = { s with teams := ts } := by
    induction l generalizing s with
    | nil => exact ⟨s.teams, rfl⟩
    | cons k r ih =>
      rw [List.foldl_cons]
      by_cases h : k.2.lr.det = true
      · obtain ⟨ts, e⟩ := inner k.1 ((at_ k.2.part).filter (inOrdered k.2)) s
        rw [if_pos h, e]
        exact (ih { s with teams := ts })
      · rw [if_neg h]; exact ih s
  exact outer s.ctxs s
@[simp] theorem keepAt_mem (at_ : BitVec 6 → List Nat) (old : List (Option Byte)) (s : State) : (keepAt at_ old s).mem = s.mem := by
  obtain ⟨ts, e⟩ := keepAt_teams at_ old s; rw [e]
@[simp] theorem keepAt_peerMem (at_ : BitVec 6 → List Nat) (old : List (Option Byte)) (s : State) : (keepAt at_ old s).peerMem = s.peerMem := by
  obtain ⟨ts, e⟩ := keepAt_teams at_ old s; rw [e]
@[simp] theorem keepAt_pars (at_ : BitVec 6 → List Nat) (old : List (Option Byte)) (s : State) : (keepAt at_ old s).pars = s.pars := by
  obtain ⟨ts, e⟩ := keepAt_teams at_ old s; rw [e]
theorem keepAt_memWf {s : State} (h : s.memWf) (at_ : BitVec 6 → List Nat) (old : List (Option Byte)) : (keepAt at_ old s).memWf := by
  obtain ⟨ts, e⟩ := keepAt_teams at_ old s; rw [e]; exact h
/-- A write behind a peer window keeps the form. -/
theorem peerWrite_memWf {s : State} (h : s.memWf) (o : Nat) (d : List Byte) : (peerWrite o d s).memWf :=
  have k := keepAt_memWf h (fun _ => [region 0x80 + o]) (peerMarks s o d.length)
  ⟨k.1, memWrite_wf k.2.1 _ _, k.2.2⟩

/-- The change of bytes within a line keeps the form. -/
theorem changeLine_memWf {s : State} (h : s.memWf) (m : SectorMark) (pa : Nat) (d : List Byte) : (changeLine m pa d s).memWf :=
  have k := keepAt_memWf h (fun p => virtuals s p pa) (heldBytes s pa d.length)
  ⟨memWrite_wf k.1 pa d, k.2⟩
/-- A write of one line at its home keeps the form. -/
theorem homeLine_memWf {s : State} (h : s.memWf) (m : SectorMark) (src pa : Nat) (d : List Byte) : (homeLine m src pa d s).memWf := by
  have h' := changeLine_memWf (joinClock_memWf h (physDie pa) (dieClock s src)) m pa d
  unfold homeLine
  dsimp only
  split
  · exact mergeClock_memWf (takeUpd_memWf h' _) _ _
  · exact mergeClock_memWf h' _ _
/-- A write at its home keeps the form. -/
theorem homeWrite_memWf {s : State} (h : s.memWf) (src pa : Nat) (d : List Byte) : (homeWrite src pa d s).memWf := by
  unfold homeWrite
  generalize splitLines pa d = l
  induction l generalizing s with
  | nil => exact h
  | cons q r ih => exact ih (homeLine_memWf h .kept src q.1 q.2)
/-- A store at its home keeps the form. -/
theorem homeStore_memWf {s : State} (h : s.memWf) (w : Bool) (src pa : Nat) (d : List Byte) : (homeStore w src pa d s).memWf := by
  unfold homeStore
  split
  · exact homeLine_memWf h _ _ _ _
  · exact homeWrite_memWf h _ _ _
/-- A store that is performed keeps the form. -/
theorem performStore_memWf {s : State} (h : s.memWf) (q : PStore) : (performStore q s).memWf := by
  unfold performStore
  split
  · exact peerWrite_memWf h _ _
  · exact homeStore_memWf h _ _ _ _
/-- Stores that are performed in order keep the form. -/
theorem drainStores_memWf {s : State} (h : s.memWf) (c : PStore → Bool) : (drainStores c s).memWf := by
  unfold drainStores
  generalize s.stores.filter c = l
  have h' : ({ s with stores := s.stores.filter fun q => !c q } : State).memWf := h
  revert h'
  generalize ({ s with stores := s.stores.filter fun q => !c q } : State) = u
  intro h'
  induction l generalizing u with
  | nil => exact h'
  | cons q r ih => exact ih _ (performStore_memWf h' q)
/-- A release keeps the form. -/
theorem releaseAt_memWf {s : State} (h : s.memWf) (pl : Place) (scope : Nat) : (releaseAt pl scope s).memWf := by
  unfold releaseAt
  split
  · exact h
  · dsimp only
    have := drainStores_memWf h fun q => q.core == pl.core && (!q.peer || decide (4 ≤ scope))
    split
    · exact this
    · split
      · exact advanceClock_memWf this _
      · exact drainUpds_memWf (advanceClock_memWf this _)
/-- An acquire keeps the form. -/
theorem acquireAt_memWf {s : State} (h : s.memWf) (pl : Place) (scope : Nat) : (acquireAt pl scope s).memWf := by
  unfold acquireAt discardL1
  repeat' split
  all_goals exact h

/-- A fresh frame keeps the form. -/
theorem allocFrame_memWf {s t : State} {p : BitVec 6} {die z a : Nat} (h : s.memWf) (e : allocFrame p die z s = some (a, t)) :
    t.memWf := by
  unfold allocFrame at e
  split at e
  · cases e
  · cases e; exact ⟨memZero_wf h.1 _ _, h.2⟩
/-- The end of a rotation keeps the form. -/
theorem endRotation_memWf {s : State} (h : s.memWf) (p : BitVec 6) : (endRotation p s).memWf := by
  unfold endRotation
  split
  · exact h
  · exact setPar_memWf h p _ fun _ ht => ht
/-- A frame that is freed keeps the form. -/
theorem freeFrame_memWf {s : State} (h : s.memWf) (a : Nat) : (freeFrame a s).memWf := by
  unfold freeFrame
  split
  · refine endRotation_memWf ?_ _
    exact ⟨memZero_wf h.1 _ _, h.2⟩
  · exact h
/-- A frame's bytes in host memory keep the form. -/
theorem frameToHost_memWf {s : State} (h : s.memWf) (p : BitVec 6) (b ph n : Nat) : (frameToHost p b ph n s).memWf :=
  setPar_memWf h p _ fun _ ht => foldl_put_wf (memZero_wf ht _ _) _
/-- A frame that is left behind keeps the form, whether it goes at once or waits (R333, R337). -/
theorem closeFrame_memWf {s : State} (h : s.memWf) (p : BitVec 6) (b ph n : Nat) (toHost : Bool) :
    (closeFrame p b ph n toHost s).memWf := by
  unfold closeFrame
  split
  · exact setPar_memWf h p _ fun _ ht => ht
  · cases toHost
    · exact freeFrame_memWf h ph
    · exact freeFrame_memWf (frameToHost_memWf h p b ph n) ph
/-- A page that becomes Device keeps the form (R337). -/
theorem admitHost_memWf {s t : State} {p : BitVec 6} {die b : Nat} {pg : Page} (h : s.memWf)
    (e : admitHost p die b pg s = some t) : t.memWf := by
  unfold admitHost at e
  split at e
  · rename_i hu
    have hu := allocFrame_memWf h hu
    split at e
    · cases e
    · cases e
      refine setPar_memWf ?_ p _ fun t ht => ht
      exact ⟨foldl_put_wf hu.1 _, hu.2⟩
  · cases e
/-- A page that becomes Host keeps the form (R337). -/
theorem reclaimPage_memWf {s : State} (h : s.memWf) (p : BitVec 6) (b : Nat) (pg : Page) : (reclaimPage p b pg s).memWf := by
  unfold reclaimPage
  split
  · refine closeFrame_memWf ?_ p b _ _ true
    exact setPar_memWf h p _ fun _ ht => ht
  · exact h

end Sys2Proof.Machine
end

