-- ==== Sys2Proof/Tests/Slice0.lean ====
section
/-!
SUPPORT. Tests: ill-formed terms that the checks refuse, words that decode to what the spec says, and for every statement a
state and operands that meet its hypotheses. Expected values come from the tables and the printed encodings of the spec.
-/

namespace Sys2Proof.Tests

open Sys2Proof Machine Claim

/-! ### Well-formedness and decoding -/

/-- A condition code of `icmp`, a mode of `fround` and `fcvt`, a format of `fcvt` and an operation of `redux` beyond the
table's, and equal formats of `fcvt`, are refused (R148, R156, R158, R174). -/
theorem test_ill_formed_lanes :
    Instr.wf (.icmpI32 ⟨0, 0, 6, 0, 0, false, false⟩) = false ∧ Instr.wf (.icmpN32 ⟨0, 0, 7, 0, 0, false, false⟩) = false ∧
    Instr.wf (.fround ⟨0, 0, 0, 4, false⟩) = false ∧ Instr.wf (.fcvt ⟨0, 0, 0, 1, 0, false, 5⟩) = false ∧
    Instr.wf (.fcvt ⟨0, 0, 0, 1, 7, false, 0⟩) = false ∧ Instr.wf (.fcvt ⟨0, 0, 0, 7, 0, false, 0⟩) = false ∧
    Instr.wf (.fcvt ⟨0, 0, 0, 2, 2, false, 0⟩) = false ∧ Instr.wf (.redux ⟨0, 0, 0, 11, false⟩) = false ∧
    Instr.wf (.scanInc ⟨0, 0, 0, 63, false⟩) = false ∧ Instr.wf (.scanExc ⟨0, 0, 0, 11, false⟩) = false := by decide
/-- A uniform shift by 64 or more, a size, scope or operation that a memory form excludes, and a wait bit on a register that
is only written, are refused (R181, R245 to R256). -/
theorem test_ill_formed_memory :
    Instr.wf (.sshli ⟨0, 0, false, 64⟩) = false ∧ Instr.wf (.sshri ⟨0, 0, false, 64⟩) = false ∧
    Instr.wf (.ssari ⟨0, 0, false, 0x7FF⟩) = false ∧
    Instr.wf (.ld ⟨0, 0, 0, false, false, 5, 0, 0⟩) = false ∧ Instr.wf (.ld ⟨0, 0, 0, false, true, 2, 0, 0⟩) = false ∧
    Instr.wf (.st ⟨0, 0, 0, false, false, 5, 0, 0⟩) = false ∧ Instr.wf (.lda ⟨0, 0, 0, false, false, 1, 0, 0⟩) = false ∧
    Instr.wf (.lda ⟨0, 0, 0, false, true, 2, 0, 0⟩) = false ∧ Instr.wf (.stl ⟨0, 0, 0, false, false, 4, 0, 0⟩) = false ∧
    Instr.wf (.atom ⟨0, 0, 0, false, false, 4, 0, 0⟩) = false ∧ Instr.wf (.atom ⟨0, 0, 0, false, false, 3, 0, 10⟩) = false ∧
    Instr.wf (.atom ⟨0, 0, 0, false, false, 2, 0, 13⟩) = false ∧ Instr.wf (.atom ⟨0, 0, 0, false, false, 4, 0, 14⟩) = false ∧
    Instr.wf (.fenceFull ⟨5⟩) = false ∧ Instr.wf (.fenceAcq ⟨5⟩) = false ∧ Instr.wf (.fenceRel ⟨31⟩) = false ∧
    Instr.wf (.fenceEng ⟨5⟩) = false ∧ Instr.wf (.pgreq ⟨0, 0, false, 5, 0⟩) = false ∧
    Instr.wf (.pfch ⟨0, 0, false, 5⟩) = false ∧ Instr.wf (.bld ⟨0, 0, 0, false, false, 5, 0, 0⟩) = false ∧
    Instr.wf (.bld ⟨0, 0, 0, false, true, 2, 0, 0⟩) = false ∧ Instr.wf (.bst ⟨0, 0, 0, false, false, 7, 0, 0⟩) = false ∧
    Instr.wf (.batom ⟨0, 0, 0, false, false, 14, 0⟩) = false := by decide
/-- A chit without f = 1, and an accumulator or shape that an engine form excludes, are refused (R45, R183, R198). -/
theorem test_ill_formed_chits :
    Instr.wf (.cpy ⟨0, 1, false⟩) = false ∧ Instr.wf (.cpyx ⟨0, 0, 0, 1, false⟩) = false ∧
    Instr.wf (.cpyq ⟨0, 0, 1, false⟩) = false ∧ Instr.wf (.xsend ⟨0, 0, 1, false⟩) = false ∧
    Instr.wf (.xrecv ⟨0, 0, 1, false⟩) = false ∧ Instr.wf (.xred ⟨0, 0, 1, false⟩) = false ∧
    Instr.wf (.mdec ⟨0, 0, 1, false⟩) = false ∧ Instr.wf (.menc ⟨0, 0, 0, 1, false⟩) = false ∧
    Instr.wf (.mpost ⟨0, 0, 0, 1, false⟩) = false ∧ Instr.wf (.mma ⟨0, 0, 0, 0, 1, false⟩) = false ∧
    Instr.wf (.mma ⟨1, 2, 0, 0, 0, false⟩) = false ∧ Instr.wf (.mstore ⟨0, 0, 0, 0, 1, false⟩) = false ∧
    Instr.wf (.mmb ⟨0, 4, 0, 0, 1, false⟩) = false ∧ Instr.wf (.mmb ⟨0, 3, 0, 0, 0, false⟩) = false ∧
    Instr.wf (.mmb ⟨0, 7, 0, 0, 0, false⟩) = false ∧ Instr.wf (.mzero ⟨0, 1, false⟩) = false ∧
    Instr.wf (.mdrain ⟨0, 0, 1, false⟩) = false := by decide
/-- Fields of sequence, branch and special-register forms beyond those their rules define are refused (R271, R313, R387,
R391). -/
theorem test_ill_formed_selectors :
    Instr.wf (.sqlen ⟨0, 1, false, 0, true⟩) = false ∧ Instr.wf (.sqlen ⟨0, 0, true, 0, true⟩) = false ∧
    Instr.wf (.sqlen ⟨0, 0, false, 1, false⟩) = false ∧ Instr.wf (.sqwait ⟨0, 1, 0, false, false, 0, true⟩) = false ∧
    Instr.wf (.sqwait ⟨0, 0, 0, true, false, 0, true⟩) = false ∧ Instr.wf (.sqwait ⟨0, 0, 0, false, false, 1, false⟩) = false ∧
    Instr.wf (.sqbind ⟨1, false, 0, true⟩) = false ∧ Instr.wf (.sqbind ⟨0, true, 0, true⟩) = false ∧
    Instr.wf (.sqinfo ⟨0, 0, false, 6⟩) = false ∧ Instr.wf (.bs ⟨6, 0, 0⟩) = false ∧ Instr.wf (.sget ⟨0, 25⟩) = false ∧
    Instr.wf (.sset ⟨0, false, 25⟩) = false ∧ Instr.wf (.prof ⟨0, 14⟩) = false := by decide
/-- Words whose field values are excluded, and majors without a form, do not decode (R47, R50). -/
theorem test_undefined_words :
    (∀ i, decode32 0x00000029 ≠ .ok i) ∧ (∀ i, decode32 0x02800049 ≠ .ok i) ∧ (∀ i, decode32 0x0000007F ≠ .ok i) := by
  refine ⟨?_, ?_, ?_⟩ <;> intro i h <;> cases h

/-- Every compact form, with operands of zero where its rule allows them (spec/opcode_table.json). -/
theorem test_decode_compact :
    decode16 0x0000 = .ok (.compactMov ⟨0, 0⟩) ∧ decode16 0x0004 = .ok (.compactIadd ⟨0, 0⟩) ∧
    decode16 0x0008 = .ok (.compactIsub ⟨0, 0⟩) ∧ decode16 0x000C = .ok (.compactImul ⟨0, 0⟩) ∧
    decode16 0x0010 = .ok (.compactAnd ⟨0, 0⟩) ∧ decode16 0x0014 = .ok (.compactOr ⟨0, 0⟩) ∧
    decode16 0x0018 = .ok (.compactXor ⟨0, 0⟩) ∧ decode16 0x001C = .ok (.compactShl ⟨0, 0⟩) ∧
    decode16 0x0020 = .ok (.compactShr ⟨0, 0⟩) ∧ decode16 0x0024 = .ok (.compactSar ⟨0, 0⟩) ∧
    decode16 0x0028 = .ok (.compactIminI32 ⟨0, 0⟩) ∧ decode16 0x002C = .ok (.compactImaxI32 ⟨0, 0⟩) ∧
    decode16 0x0030 = .ok (.compactFadd ⟨0, 0⟩) ∧ decode16 0x0034 = .ok (.compactFsub ⟨0, 0⟩) ∧
    decode16 0x0038 = .ok (.compactFmul ⟨0, 0⟩) ∧ decode16 0x003C = .ok (.compactFmax ⟨0, 0⟩) ∧
    decode16 0x0002 = .ok (.dictionaryReference ⟨0, 0, 0⟩) :=
  ⟨rfl, rfl, rfl, rfl, rfl, rfl, rfl, rfl, rfl, rfl, rfl, rfl, rfl, rfl, rfl, rfl, rfl⟩
/-- Every integer form, with operands of zero where its rule allows them (spec/opcode_table.json). -/
theorem test_decode_integer :
    decode32 0x00000003 = .ok (.iadd ⟨0, 0, 0, 0, false, false⟩) ∧
    decode32 0x20000003 = .ok (.isub ⟨0, 0, 0, 0, false, false⟩) ∧
    decode32 0x40000003 = .ok (.iaddsatI32 ⟨0, 0, 0, 0, false, false⟩) ∧
    decode32 0x60000003 = .ok (.iaddsatN32 ⟨0, 0, 0, 0, false, false⟩) ∧
    decode32 0x80000003 = .ok (.imul ⟨0, 0, 0, 0, false, false⟩) ∧
    decode32 0xA0000003 = .ok (.imulhI32 ⟨0, 0, 0, 0, false, false⟩) ∧
    decode32 0xC0000003 = .ok (.imulhN32 ⟨0, 0, 0, 0, false, false⟩) ∧ decode32 0xE0000003 = .ok (.ineg ⟨0, 0, 0, false⟩) ∧
    decode32 0x00000005 = .ok (.iminI32 ⟨0, 0, 0, 0, false, false⟩) ∧
    decode32 0x20000005 = .ok (.iminN32 ⟨0, 0, 0, 0, false, false⟩) ∧
    decode32 0x40000005 = .ok (.imaxI32 ⟨0, 0, 0, 0, false, false⟩) ∧
    decode32 0x60000005 = .ok (.imaxN32 ⟨0, 0, 0, 0, false, false⟩) ∧
    decode32 0x80000005 = .ok (.and ⟨0, 0, 0, 0, false, false⟩) ∧ decode32 0xA0000005 = .ok (.or ⟨0, 0, 0, 0, false, false⟩) ∧
    decode32 0xC0000005 = .ok (.xor ⟨0, 0, 0, 0, false, false⟩) ∧ decode32 0xE0000005 = .ok (.andn ⟨0, 0, 0, 0, false, false⟩) ∧
    decode32 0x00000007 = .ok (.shl ⟨0, 0, 0, 0, false, false⟩) ∧ decode32 0x20000007 = .ok (.shr ⟨0, 0, 0, 0, false, false⟩) ∧
    decode32 0x40000007 = .ok (.sar ⟨0, 0, 0, 0, false, false⟩) ∧ decode32 0x60000007 = .ok (.rotl ⟨0, 0, 0, 0, false, false⟩) ∧
    decode32 0x80000007 = .ok (.clz ⟨0, 0, 0, false⟩) ∧ decode32 0xA0000007 = .ok (.popc ⟨0, 0, 0, false⟩) ∧
    decode32 0xC0000007 = .ok (.brev ⟨0, 0, 0, false⟩) ∧ decode32 0xE0000007 = .ok (.not ⟨0, 0, 0, false⟩) ∧
    decode32 0x00000009 = .ok (.bfxN32 ⟨0, 0, 0, 0, false, false⟩) ∧
    decode32 0x20000009 = .ok (.bfxI32 ⟨0, 0, 0, 0, false, false⟩) ∧
    decode32 0x40000009 = .ok (.bfi ⟨0, 0, 0, 0, false, false⟩) ∧ decode32 0x60000009 = .ok (.sel ⟨0, 0, 0, 0, false, false⟩) ∧
    decode32 0x80000009 = .ok (.mov ⟨0, 0, 0, false⟩) ∧ decode32 0xA0000009 = .ok (.lea1 ⟨0, 0, 0, 0, false, false⟩) ∧
    decode32 0xC0000009 = .ok (.lea2 ⟨0, 0, 0, 0, false, false⟩) ∧
    decode32 0xE0000009 = .ok (.lea3 ⟨0, 0, 0, 0, false, false⟩) :=
  ⟨rfl, rfl, rfl, rfl, rfl, rfl, rfl, rfl, rfl, rfl, rfl, rfl, rfl, rfl, rfl, rfl, rfl, rfl, rfl, rfl, rfl, rfl, rfl, rfl, rfl, rfl, rfl, rfl, rfl, rfl, rfl, rfl⟩
/-- Every integer immediate form, with operands of zero where its rule allows them (spec/opcode_table.json). -/
theorem test_decode_integer_immediate :
    decode32 0x0000000B = .ok (.imad ⟨0, 0, 0, 0, false, false, false⟩) ∧
    decode32 0x0000000D = .ok (.icmpI32 ⟨0, 0, 0, 0, 0, false, false⟩) ∧
    decode32 0x2000000D = .ok (.icmpN32 ⟨0, 0, 0, 0, 0, false, false⟩) ∧
    decode32 0x0000000F = .ok (.iaddi ⟨0, 0, 0, false, 0⟩) ∧ decode32 0x00000011 = .ok (.andi ⟨0, 0, 0, false, 0⟩) ∧
    decode32 0x00000013 = .ok (.ori ⟨0, 0, 0, false, 0⟩) ∧ decode32 0x00000015 = .ok (.xori ⟨0, 0, 0, false, 0⟩) ∧
    decode32 0x00000017 = .ok (.shfi ⟨0, 0, 0, false, 0, 0⟩) ∧ decode32 0x00000019 = .ok (.movi ⟨0, 0, 0⟩) ∧
    decode32 0x0000001B = .ok (.movw ⟨0, 0, 0⟩) ∧ decode32 0x0000801B = .ok (.movwHi ⟨0, 0, 0⟩) :=
  ⟨rfl, rfl, rfl, rfl, rfl, rfl, rfl, rfl, rfl, rfl, rfl⟩
/-- Every floating form, with operands of zero where its rule allows them (spec/opcode_table.json). -/
theorem test_decode_floating :
    decode32 0x00000021 = .ok (.fadd ⟨0, 0, 0, 0, false, false⟩) ∧
    decode32 0x20000021 = .ok (.fsub ⟨0, 0, 0, 0, false, false⟩) ∧
    decode32 0x40000021 = .ok (.fmul ⟨0, 0, 0, 0, false, false⟩) ∧
    decode32 0x60000021 = .ok (.fdiv ⟨0, 0, 0, 0, false, false⟩) ∧
    decode32 0x80000021 = .ok (.fmin ⟨0, 0, 0, 0, false, false⟩) ∧
    decode32 0xA0000021 = .ok (.fmax ⟨0, 0, 0, 0, false, false⟩) ∧
    decode32 0xC0000021 = .ok (.fminn ⟨0, 0, 0, 0, false, false⟩) ∧
    decode32 0xE0000021 = .ok (.fmaxn ⟨0, 0, 0, 0, false, false⟩) ∧
    decode32 0x00000023 = .ok (.ffma ⟨0, 0, 0, 0, false, false, false⟩) ∧
    decode32 0x40000023 = .ok (.fnma ⟨0, 0, 0, 0, false, false, false⟩) ∧
    decode32 0x80000023 = .ok (.pfmaBf16x2 ⟨0, 0, 0, 0, false, false, false⟩) ∧
    decode32 0xC0000023 = .ok (.pfmaF16x2 ⟨0, 0, 0, 0, false, false, false⟩) ∧
    decode32 0x00000025 = .ok (.fsqrt ⟨0, 0, 0, false⟩) ∧ decode32 0x20000025 = .ok (.frcp ⟨0, 0, 0, false⟩) ∧
    decode32 0x40000025 = .ok (.frsq ⟨0, 0, 0, false⟩) ∧ decode32 0x60000025 = .ok (.exp2 ⟨0, 0, 0, false⟩) ∧
    decode32 0x80000025 = .ok (.fneg ⟨0, 0, 0, false⟩) ∧ decode32 0xA0000025 = .ok (.fabs ⟨0, 0, 0, false⟩) ∧
    decode32 0xC0000025 = .ok (.fclass ⟨0, 0, 0, false⟩) ∧ decode32 0xE0000025 = .ok (.fround ⟨0, 0, 0, 0, false⟩) ∧
    decode32 0x00000027 = .ok (.fcmpF32 ⟨0, 0, 0, 0, 0, false, false⟩) ∧
    decode32 0x20000027 = .ok (.fcmpF16 ⟨0, 0, 0, 0, 0, false, false⟩) ∧
    decode32 0x40000027 = .ok (.fcmpBf16 ⟨0, 0, 0, 0, 0, false, false⟩) ∧
    decode32 0x00200029 = .ok (.fcvt ⟨0, 0, 0, 1, 0, false, 0⟩) ∧
    decode32 0x0000002B = .ok (.paddBf16x2 ⟨0, 0, 0, 0, false, false⟩) ∧
    decode32 0x2000002B = .ok (.paddF16x2 ⟨0, 0, 0, 0, false, false⟩) ∧
    decode32 0x4000002B = .ok (.pmulBf16x2 ⟨0, 0, 0, 0, false, false⟩) ∧
    decode32 0x6000002B = .ok (.pmulF16x2 ⟨0, 0, 0, 0, false, false⟩) ∧
    decode32 0x8000002B = .ok (.pk2h ⟨0, 0, 0, 0, false, false⟩) ∧
    decode32 0xA000002B = .ok (.fscale ⟨0, 0, 0, 0, false, false⟩) ∧ decode32 0x0000002D = .ok (.bexp ⟨0, 0, 0, false⟩) ∧
    decode32 0x2000002D = .ok (.bcvt ⟨0, 0, 0, 0, false, false⟩) ∧
    decode32 0x4000002D = .ok (.badd ⟨0, 0, 0, 0, false, false⟩) ∧
    decode32 0x6000002D = .ok (.bfin ⟨0, 0, 0, 0, false, false⟩) :=
  ⟨rfl, rfl, rfl, rfl, rfl, rfl, rfl, rfl, rfl, rfl, rfl, rfl, rfl, rfl, rfl, rfl, rfl, rfl, rfl, rfl, rfl, rfl, rfl, rfl, rfl, rfl, rfl, rfl, rfl, rfl, rfl, rfl, rfl, rfl⟩
/-- Every group form, with operands of zero where its rule allows them (spec/opcode_table.json). -/
theorem test_decode_group :
    decode32 0x00000031 = .ok (.shflIdx ⟨0, 0, 0, 0, false, false⟩) ∧
    decode32 0x20000031 = .ok (.shflXor ⟨0, 0, 0, 0, false, false⟩) ∧
    decode32 0x40000031 = .ok (.shflUp ⟨0, 0, 0, 0, false, false⟩) ∧
    decode32 0x60000031 = .ok (.shflDown ⟨0, 0, 0, 0, false, false⟩) ∧ decode32 0x80000031 = .ok (.ballot ⟨0, 0, 0, false⟩) ∧
    decode32 0xA0000031 = .ok (.topkMax ⟨0, 0, 0, 0, false, false⟩) ∧
    decode32 0xC0000031 = .ok (.topkMin ⟨0, 0, 0, 0, false, false⟩) ∧ decode32 0x00000033 = .ok (.redux ⟨0, 0, 0, 0, false⟩) ∧
    decode32 0x20000033 = .ok (.scanInc ⟨0, 0, 0, 0, false⟩) ∧ decode32 0x40000033 = .ok (.scanExc ⟨0, 0, 0, 0, false⟩) ∧
    decode32 0x00000035 = .ok (.maxidxF32 ⟨0, 0, 0, false⟩) ∧ decode32 0x20000035 = .ok (.maxidxF16 ⟨0, 0, 0, false⟩) ∧
    decode32 0x40000035 = .ok (.maxidxBf16 ⟨0, 0, 0, false⟩) ∧ decode32 0x60000035 = .ok (.minidxF32 ⟨0, 0, 0, false⟩) ∧
    decode32 0x80000035 = .ok (.minidxF16 ⟨0, 0, 0, false⟩) ∧ decode32 0xA0000035 = .ok (.minidxBf16 ⟨0, 0, 0, false⟩) ∧
    decode32 0x00000037 = .ok (.kand ⟨0, 0, 0, 0⟩) ∧ decode32 0x20000037 = .ok (.kor ⟨0, 0, 0, 0⟩) ∧
    decode32 0x40000037 = .ok (.kxor ⟨0, 0, 0, 0⟩) ∧ decode32 0x60000037 = .ok (.kandn ⟨0, 0, 0, 0⟩) ∧
    decode32 0x80000037 = .ok (.knot ⟨0, 0, 0⟩) ∧ decode32 0xA0000037 = .ok (.kpop ⟨0, 0, 0⟩) ∧
    decode32 0xC0000037 = .ok (.kffs ⟨0, 0, 0⟩) ∧ decode32 0xE0000037 = .ok (.kmov ⟨0, 0, 0⟩) ∧
    decode32 0x00000039 = .ok (.vbcast ⟨0, 0, 0, false, false⟩) ∧ decode32 0x20000039 = .ok (.vread ⟨0, 0, 0, false⟩) ∧
    decode32 0x40000039 = .ok (.kget ⟨0, 0⟩) ∧ decode32 0x60000039 = .ok (.kset ⟨0, 0, 0, false⟩) ∧
    decode32 0x80000039 = .ok (.emget ⟨0⟩) ∧ decode32 0xA0000039 = .ok (.emset ⟨0, false⟩) ∧
    decode32 0xC0000039 = .ok (.emand ⟨0⟩) :=
  ⟨rfl, rfl, rfl, rfl, rfl, rfl, rfl, rfl, rfl, rfl, rfl, rfl, rfl, rfl, rfl, rfl, rfl, rfl, rfl, rfl, rfl, rfl, rfl, rfl, rfl, rfl, rfl, rfl, rfl, rfl, rfl⟩
/-- Every uniform form, with operands of zero where its rule allows them (spec/opcode_table.json). -/
theorem test_decode_uniform :
    decode32 0x0000003D = .ok (.sadd ⟨0, 0, 0, false, false⟩) ∧ decode32 0x000000BD = .ok (.ssub ⟨0, 0, 0, false, false⟩) ∧
    decode32 0x0000013D = .ok (.smul ⟨0, 0, 0, false, false⟩) ∧ decode32 0x000001BD = .ok (.sand ⟨0, 0, 0, false, false⟩) ∧
    decode32 0x0000023D = .ok (.sor ⟨0, 0, 0, false, false⟩) ∧ decode32 0x000002BD = .ok (.sxor ⟨0, 0, 0, false, false⟩) ∧
    decode32 0x0000033D = .ok (.sshl ⟨0, 0, 0, false, false⟩) ∧ decode32 0x000003BD = .ok (.sshr ⟨0, 0, 0, false, false⟩) ∧
    decode32 0x0000003F = .ok (.saddi ⟨0, 0, false, 0⟩) ∧ decode32 0x000000BF = .ok (.sandi ⟨0, 0, false, 0⟩) ∧
    decode32 0x0000013F = .ok (.sori ⟨0, 0, false, 0⟩) ∧ decode32 0x000001BF = .ok (.smovi ⟨0, 0⟩) ∧
    decode32 0x0000023F = .ok (.sshli ⟨0, 0, false, 0⟩) ∧ decode32 0x000002BF = .ok (.sshri ⟨0, 0, false, 0⟩) ∧
    decode32 0x0000033F = .ok (.ssari ⟨0, 0, false, 0⟩) :=
  ⟨rfl, rfl, rfl, rfl, rfl, rfl, rfl, rfl, rfl, rfl, rfl, rfl, rfl, rfl, rfl⟩
/-- Every memory form, with operands of zero where its rule allows them (spec/opcode_table.json). -/
theorem test_decode_memory :
    decode32 0x00000041 = .ok (.sld64 ⟨0, 0, false, 0⟩) ∧ decode32 0x000000C1 = .ok (.sld32 ⟨0, 0, false, 0⟩) ∧
    decode32 0x00000141 = .ok (.sst64 ⟨0, 0, false, 0⟩) ∧ decode32 0x000001C1 = .ok (.sst32 ⟨0, 0, false, 0⟩) ∧
    decode32 0x00000241 = .ok (.slda ⟨0, 0, false, 0⟩) ∧ decode32 0x000002C1 = .ok (.sstl ⟨0, 0, false, 0⟩) ∧
    decode32 0x00000045 = .ok (.ld ⟨0, 0, 0, false, false, 0, 0, 0⟩) ∧
    decode32 0x00000047 = .ok (.st ⟨0, 0, 0, false, false, 0, 0, 0⟩) ∧
    decode32 0x01000049 = .ok (.atom ⟨0, 0, 0, false, false, 2, 0, 0⟩) ∧
    decode32 0x0100004B = .ok (.lda ⟨0, 0, 0, false, false, 2, 0, 0⟩) ∧
    decode32 0x0100004D = .ok (.stl ⟨0, 0, 0, false, false, 2, 0, 0⟩) ∧ decode32 0x0000004F = .ok (.fenceFull ⟨0⟩) ∧
    decode32 0x000000CF = .ok (.fenceAcq ⟨0⟩) ∧ decode32 0x0000014F = .ok (.fenceRel ⟨0⟩) ∧
    decode32 0x000001CF = .ok (.fenceEng ⟨0⟩) ∧ decode32 0x00000051 = .ok (.pgreq ⟨0, 0, false, 0, 0⟩) ∧
    decode32 0x10000051 = .ok (.pfch ⟨0, 0, false, 0⟩) :=
  ⟨rfl, rfl, rfl, rfl, rfl, rfl, rfl, rfl, rfl, rfl, rfl, rfl, rfl, rfl, rfl, rfl, rfl⟩
/-- Every boxes and commands form, with operands of zero where its rule allows them (spec/opcode_table.json). -/
theorem test_decode_boxes_and_commands :
    decode32 0x00000055 = .ok (.bld ⟨0, 0, 0, false, false, 0, 0, 0⟩) ∧
    decode32 0x00000057 = .ok (.bst ⟨0, 0, 0, false, false, 0, 0, 0⟩) ∧
    decode32 0x00000059 = .ok (.batom ⟨0, 0, 0, false, false, 0, 0⟩) ∧ decode32 0x0000005B = .ok (.bxnew ⟨0, 0, false⟩) ∧
    decode32 0x000000DB = .ok (.bxfree ⟨0⟩) ∧ decode32 0x0000015B = .ok (.bxgive ⟨0, 0⟩) ∧
    decode32 0x000001DB = .ok (.bxtake ⟨0, false⟩) ∧ decode32 0x8000025B = .ok (.bxlend ⟨0, 0, 0⟩) ∧
    decode32 0x000002DB = .ok (.settle ⟨0⟩) ∧ decode32 0x0000035B = .ok (.bxinfo ⟨0, 0⟩) ∧
    decode32 0x000003DB = .ok (.bxrecall ⟨0⟩) ∧ decode32 0x0000005D = .ok (.cpy ⟨0, 0, false⟩) ∧
    decode32 0x000000DD = .ok (.cpyx ⟨0, 0, 0, 0, false⟩) ∧ decode32 0x0000015D = .ok (.cpyq ⟨0, 0, 0, false⟩) :=
  ⟨rfl, rfl, rfl, rfl, rfl, rfl, rfl, rfl, rfl, rfl, rfl, rfl, rfl, rfl⟩
/-- Every chits and sequences form, with operands of zero where its rule allows them (spec/opcode_table.json). -/
theorem test_decode_chits_and_sequences :
    decode32 0x0000005F = .ok (.xsend ⟨0, 0, 0, false⟩) ∧ decode32 0x000000DF = .ok (.xrecv ⟨0, 0, 0, false⟩) ∧
    decode32 0x0000015F = .ok (.xred ⟨0, 0, 0, false⟩) ∧ decode32 0x00000061 = .ok (.chwa ⟨0, 0, false⟩) ∧
    decode32 0x000000E1 = .ok (.chwl ⟨0, 0, false⟩) ∧ decode32 0x00000161 = .ok (.chff ⟨0, 0, false⟩) ∧
    decode32 0x000001E1 = .ok (.chclr ⟨0, false⟩) ∧ decode32 0x00000261 = .ok (.chget ⟨0, 0, false, false⟩) ∧
    decode32 0x000002E1 = .ok (.chset ⟨0, false⟩) ∧ decode32 0x00000063 = .ok (.sqmint ⟨0, false⟩) ∧
    decode32 0x000000E3 = .ok (.sqres ⟨0, 0, 0, false, false, false⟩) ∧
    decode32 0x00000163 = .ok (.sqcom ⟨0, 0, 0, false, false⟩) ∧ decode32 0x000001E3 = .ok (.sqlen ⟨0, 0, false, 0, false⟩) ∧
    decode32 0x00000263 = .ok (.sqwait ⟨0, 0, 0, false, false, 0, false⟩) ∧
    decode32 0x000002E3 = .ok (.sqfork ⟨0, 0, 0, false, false⟩) ∧ decode32 0x00000363 = .ok (.sqbind ⟨0, false, 0, false⟩) ∧
    decode32 0x000003E3 = .ok (.sqdrop ⟨0, false⟩) ∧ decode32 0x00000065 = .ok (.sqext ⟨0, 0, false, false⟩) ∧
    decode32 0x000000E5 = .ok (.sqsum ⟨0, 0, 0, false, false⟩) ∧ decode32 0x00000165 = .ok (.sqaddr ⟨0, 0, 0, false, false⟩) ∧
    decode32 0x000001E5 = .ok (.sqinfo ⟨0, 0, false, 0⟩) :=
  ⟨rfl, rfl, rfl, rfl, rfl, rfl, rfl, rfl, rfl, rfl, rfl, rfl, rfl, rfl, rfl, rfl, rfl, rfl, rfl, rfl, rfl⟩
/-- Every engine form, with operands of zero where its rule allows them (spec/opcode_table.json). -/
theorem test_decode_engine :
    decode32 0x00000069 = .ok (.menc ⟨0, 0, 0, 0, false⟩) ∧ decode32 0x000000E9 = .ok (.mdec ⟨0, 0, 0, false⟩) ∧
    decode32 0x00000169 = .ok (.mpost ⟨0, 0, 0, 0, false⟩) ∧ decode32 0x0000006D = .ok (.mma ⟨0, 0, 0, 0, 0, false⟩) ∧
    decode32 0x000040ED = .ok (.mmb ⟨0, 4, 0, 0, 0, false⟩) ∧ decode32 0x0000016D = .ok (.mzero ⟨0, 0, false⟩) ∧
    decode32 0x000001ED = .ok (.mdrain ⟨0, 0, 0, false⟩) ∧ decode32 0x0000026D = .ok (.mstore ⟨0, 0, 0, 0, 0, false⟩) ∧
    decode32 0x000002ED = .ok (.mscale ⟨0, 0, false⟩) ∧ decode32 0x0000006F = .ok (.mwait ⟨0, false⟩) ∧
    decode32 0x000000EF = .ok (.msig ⟨0, 0⟩) ∧ decode32 0x0000016F = .ok (.mpick ⟨0, false⟩) ∧
    decode32 0x000001EF = .ok (.mrel ⟨0⟩) :=
  ⟨rfl, rfl, rfl, rfl, rfl, rfl, rfl, rfl, rfl, rfl, rfl, rfl, rfl⟩
/-- Every control form, with operands of zero where its rule allows them (spec/opcode_table.json). -/
theorem test_decode_control :
    decode32 0x00000071 = .ok (.bk ⟨0, 0⟩) ∧ decode32 0x000000F1 = .ok (.bkany ⟨0, 0⟩) ∧
    decode32 0x00000171 = .ok (.bkall ⟨0, 0⟩) ∧ decode32 0x000001F1 = .ok (.bknone ⟨0, 0⟩) ∧
    decode32 0x00000073 = .ok (.bs ⟨0, 0, 0⟩) ∧ decode32 0x00000075 = .ok (.jmp ⟨0⟩) ∧
    decode32 0x000000F5 = .ok (.call ⟨0, 0⟩) ∧ decode32 0x00000077 = .ok (.jmpr ⟨0, false⟩) ∧
    decode32 0x000000F7 = .ok (.callr ⟨0, false, 0⟩) ∧ decode32 0x00000177 = .ok .ret ∧ decode32 0x000001F7 = .ok (.join ⟨0⟩) ∧
    decode32 0x00000277 = .ok .exit ∧ decode32 0x000002F7 = .ok .yield ∧ decode32 0x00000377 = .ok (.brkp ⟨0⟩) ∧
    decode32 0x000003F7 = .ok (.watch ⟨0, 0, 0, false, false, false⟩) :=
  ⟨rfl, rfl, rfl, rfl, rfl, rfl, rfl, rfl, rfl, rfl, rfl, rfl, rfl, rfl, rfl⟩
/-- Every system form, with operands of zero where its rule allows them (spec/opcode_table.json). -/
theorem test_decode_system :
    decode32 0x00000079 = .ok (.tbarArrive ⟨0⟩) ∧ decode32 0x000000F9 = .ok (.tbarWait ⟨0⟩) ∧
    decode32 0x00000179 = .ok (.tbarSync ⟨0⟩) ∧ decode32 0x000001F9 = .ok (.cbarArrive ⟨0⟩) ∧
    decode32 0x00000279 = .ok (.cbarWait ⟨0⟩) ∧ decode32 0x000002F9 = .ok (.cbarSync ⟨0⟩) ∧
    decode32 0x00000379 = .ok (.gbarSync ⟨0⟩) ∧ decode32 0x0000007B = .ok (.trap ⟨0⟩) ∧ decode32 0x000000FB = .ok (.tret ⟨0⟩) ∧
    decode32 0x0000017B = .ok .tfence ∧ decode32 0x000001FB = .ok (.sget ⟨0, 0⟩) ∧
    decode32 0x0000027B = .ok (.sset ⟨0, false, 0⟩) ∧ decode32 0x000002FB = .ok (.dload ⟨0, 0, false, false⟩) ∧
    decode32 0x0000037B = .ok .dfence ∧ decode32 0x000003FB = .ok (.dget ⟨0, 0, false⟩) ∧
    decode32 0x0000007D = .ok (.prof ⟨0, 0⟩) ∧ decode32 0x000000FD = .ok (.fltget ⟨0, 0⟩) ∧
    decode32 0x080000FD = .ok (.fltgetMask ⟨0, 0⟩) :=
  ⟨rfl, rfl, rfl, rfl, rfl, rfl, rfl, rfl, rfl, rfl, rfl, rfl, rfl, rfl, rfl, rfl, rfl, rfl⟩
/-- Words that the spec prints beside their instructions (R148 to R325). -/
theorem test_decode_printed_lanes :
    decode32 0x0061140B = .ok (.imad ⟨0, 10, 2, 3, false, false, false⟩) ∧
    decode32 0x00E3240D = .ok (.icmpI32 ⟨0, 2, 2, 6, 7, false, false⟩) ∧
    decode32 0x11C20617 = .ok (.shfi ⟨0, 3, 4, false, 7, 2⟩) ∧ decode32 0x3F80921B = .ok (.movwHi ⟨0, 9, 0x3F80⟩) ∧
    decode32 0x40628829 = .ok (.fcvt ⟨0, 4, 5, 3, 0, false, 2⟩) ∧
    decode32 0x20A2282D = .ok (.bcvt ⟨0, 20, 4, 5, false, false⟩) ∧ decode32 0x8001A031 = .ok (.ballot ⟨0, 16, 3, false⟩) ∧
    decode32 0xA1242831 = .ok (.topkMax ⟨0, 20, 8, 9, false, false⟩) ∧
    decode32 0x20031835 = .ok (.maxidxF16 ⟨0, 12, 6, false⟩) ∧ decode32 0x01021433 = .ok (.redux ⟨0, 10, 4, 8, false⟩) ∧
    decode32 0x00408637 = .ok (.kand ⟨0, 3, 1, 2⟩) ∧ decode32 0x20AA1239 = .ok (.vread ⟨9, 20, 5, false⟩) :=
  ⟨rfl, rfl, rfl, rfl, rfl, rfl, rfl, rfl, rfl, rfl, rfl, rfl⟩
/-- Words that the spec prints: uniform, memory, box and command forms. -/
theorem test_decode_printed_memory :
    decode32 0x00612041 = .ok (.sld64 ⟨8, 2, false, 3⟩) ∧ decode32 0x09040A4B = .ok (.lda ⟨0, 5, 8, false, false, 2, 2, 0⟩) ∧
    decode32 0x49810C49 = .ok (.atom ⟨0, 6, 2, false, false, 3, 2, 4⟩) ∧ decode32 0x00000C4F = .ok (.fenceFull ⟨3⟩) ∧
    decode32 0x05020051 = .ok (.pgreq ⟨0, 4, false, 2, 1⟩) ∧ decode32 0x31038455 = .ok (.bld ⟨0, 2, 7, false, false, 2, 0, 3⟩) ∧
    decode32 0x10061259 = .ok (.batom ⟨0, 9, 12, false, false, 0, 1⟩) ∧ decode32 0x000282DB = .ok (.settle ⟨5⟩) ∧
    decode32 0x8A04005D = .ok (.cpy ⟨8, 5, true⟩) ∧ decode32 0x848330DD = .ok (.cpyx ⟨12, 6, 8, 2, true⟩) ∧
    decode32 0x935A015F = .ok (.xred ⟨20, 21, 9, true⟩) ∧ decode32 0x00039861 = .ok (.chwa ⟨6, 7, false⟩) :=
  ⟨rfl, rfl, rfl, rfl, rfl, rfl, rfl, rfl, rfl, rfl, rfl, rfl⟩
/-- Words that the spec prints: sequences and control. -/
theorem test_decode_printed_control :
    decode32 0x005228E3 = .ok (.sqres ⟨10, 4, 5, false, false, false⟩) ∧
    decode32 0x00A21563 = .ok (.sqcom ⟨5, 4, 10, false, false⟩) ∧ decode32 0x98001DE3 = .ok (.sqlen ⟨7, 0, false, 3, true⟩) ∧
    decode32 0x00050D73 = .ok (.bs ⟨2, 3, 10⟩) ∧ decode32 0x00028077 = .ok (.jmpr ⟨5, false⟩) ∧
    decode32 0x080280F7 = .ok (.callr ⟨5, false, 1⟩) ∧ decode32 0x00000177 = .ok .ret ∧ decode32 0x080001F7 = .ok (.join ⟨1⟩) ∧
    decode32 0x000002F7 = .ok .yield ∧ decode32 0x18000377 = .ok (.brkp ⟨3⟩) ∧
    decode32 0x08941FF7 = .ok (.watch ⟨7, 8, 9, false, false, true⟩) ∧ decode32 0x10000179 = .ok (.tbarSync ⟨2⟩) :=
  ⟨rfl, rfl, rfl, rfl, rfl, rfl, rfl, rfl, rfl, rfl, rfl, rfl⟩

/-- A property of every instruction of a list. -/
def AllOf (P : Instr → Prop) : List Instr → Prop
  | [] => True
  | [i] => P i
  | i :: j :: r => P i ∧ AllOf P (j :: r)

/-! ### A small state whose part may run any form -/

/-- A part of 64 lanes in a launch of one group, its registers as a launch leaves them. -/
def base : State := { State.reset.withFetchWord 16 0 with agent := .part 0 }
/-- The same launch with its sequencer context executing. -/
def seqBase : State := { base with agent := .seq 0 }
/-- The part executes. -/
theorem runs_base : Runs base 0 placedPart placedGroup := ⟨rfl, rfl, rfl⟩
/-- Every lane register of the base state is full and unpoisoned. -/
theorem laneWord_base (n l : Nat) : laneWord placedGroup placedPart.wb n l = LaneWord.zero := rfl
/-- Every uniform register of the base state is full and unpoisoned. -/
theorem sregOf_base (n : Nat) : (sregOf placedPart.thr n).full = true ∧ (sregOf placedPart.thr n).poison = false := by
  constructor <;> rfl
/-- Every lane form whose destinations differ can run at once in the base state. -/
theorem lanesReady_base (F : LaneForm) (h : (F.dsts.map (physReg placedGroup 0)).Nodup) : LanesReady F placedPart placedGroup :=
  ⟨fun n _ l _ => by rw [laneWord_base]; exact ⟨rfl, rfl⟩, fun n _ l _ => by rw [laneWord_base]; rfl, fun _ _ _ => by simp [placedGroup],
    fun r _ => sregOf_base _, h⟩
/-- Every mask form can run at once in the base state. -/
theorem maskReady_base (F : MaskForm) : MaskReady F placedPart placedGroup :=
  ⟨fun n _ l _ => by rw [laneWord_base]; exact ⟨rfl, rfl⟩, fun _ _ _ => by simp [placedGroup], fun r _ => sregOf_base _⟩
/-- Every part form can run at once with the registers of the base state. -/
theorem partReady_base (F : PartForm) : PartReady F placedPart placedGroup :=
  ⟨fun n _ l _ => by rw [laneWord_base]; exact ⟨rfl, rfl⟩, fun n _ l _ => by rw [laneWord_base]; rfl,
    fun _ _ _ => by simp [placedGroup], fun r _ => sregOf_base _, fun r _ => (sregOf_base _).1⟩

/-- A lane form that the base state can run. -/
def laneWitness (form : Instr → Option LaneForm) (i : Instr) : Prop :=
  ∃ F, form i = some F ∧ Runs base 0 placedPart placedGroup ∧ LanesReady F placedPart placedGroup ∧
    actives placedPart placedGroup F.pk ≠ []
/-- A lane form of one destination. -/
theorem laneWitness_of {form : Instr → Option LaneForm} {i : Instr} (F : LaneForm) (h : form i = some F)
    (hd : (F.dsts.map (physReg placedGroup 0)).Nodup) (ha : actives placedPart placedGroup F.pk ≠ []) : laneWitness form i :=
  ⟨F, h, runs_base, lanesReady_base F hd, ha⟩

/-- Every form of Obligations.IntegerLaneForms runs from the base state. -/
theorem witness_IntegerLaneForms :
    AllOf (laneWitness integerForm) [
      .compactMov ⟨1, 2⟩, .compactIadd ⟨1, 2⟩, .compactIsub ⟨1, 2⟩, .compactImul ⟨1, 2⟩, .compactAnd ⟨1, 2⟩, .compactOr ⟨1, 2⟩,
      .compactXor ⟨1, 2⟩, .compactShl ⟨1, 2⟩, .compactShr ⟨1, 2⟩, .compactSar ⟨1, 2⟩, .compactIminI32 ⟨1, 2⟩,
      .compactImaxI32 ⟨1, 2⟩, .iadd ⟨0, 1, 2, 3, false, false⟩, .isub ⟨0, 1, 2, 3, false, false⟩,
      .iaddsatI32 ⟨0, 1, 2, 3, false, false⟩, .iaddsatN32 ⟨0, 1, 2, 3, false, false⟩, .imul ⟨0, 1, 2, 3, false, false⟩,
      .imulhI32 ⟨0, 1, 2, 3, false, false⟩, .imulhN32 ⟨0, 1, 2, 3, false, false⟩, .ineg ⟨0, 1, 2, false⟩,
      .iminI32 ⟨0, 1, 2, 3, false, false⟩, .iminN32 ⟨0, 1, 2, 3, false, false⟩, .imaxI32 ⟨0, 1, 2, 3, false, false⟩,
      .imaxN32 ⟨0, 1, 2, 3, false, false⟩, .and ⟨0, 1, 2, 3, false, false⟩, .or ⟨0, 1, 2, 3, false, false⟩,
      .xor ⟨0, 1, 2, 3, false, false⟩, .andn ⟨0, 1, 2, 3, false, false⟩, .shl ⟨0, 1, 2, 3, false, false⟩,
      .shr ⟨0, 1, 2, 3, false, false⟩, .sar ⟨0, 1, 2, 3, false, false⟩, .rotl ⟨0, 1, 2, 3, false, false⟩,
      .clz ⟨0, 1, 2, false⟩, .popc ⟨0, 1, 2, false⟩, .brev ⟨0, 1, 2, false⟩, .not ⟨0, 1, 2, false⟩,
      .bfxN32 ⟨0, 1, 2, 3, false, false⟩, .bfxI32 ⟨0, 1, 2, 3, false, false⟩, .bfi ⟨0, 1, 2, 3, false, false⟩,
      .sel ⟨0, 1, 2, 3, false, false⟩, .mov ⟨0, 1, 2, false⟩, .lea1 ⟨0, 1, 2, 3, false, false⟩,
      .lea2 ⟨0, 1, 2, 3, false, false⟩, .lea3 ⟨0, 1, 2, 3, false, false⟩, .imad ⟨0, 1, 2, 3, false, false, false⟩,
      .iaddi ⟨0, 1, 2, false, 5⟩, .andi ⟨0, 1, 2, false, 5⟩, .ori ⟨0, 1, 2, false, 5⟩, .xori ⟨0, 1, 2, false, 5⟩,
      .shfi ⟨0, 1, 2, false, 7, 2⟩, .movi ⟨0, 1, 5⟩, .movw ⟨0, 1, 5⟩, .movwHi ⟨0, 1, 5⟩] := by
  refine ⟨?_, ?_, ?_, ?_, ?_, ?_, ?_, ?_, ?_, ?_, ?_, ?_, ?_, ?_, ?_, ?_, ?_, ?_, ?_, ?_, ?_, ?_, ?_, ?_, ?_, ?_, ?_, ?_, ?_, ?_, ?_, ?_, ?_, ?_, ?_, ?_, ?_, ?_, ?_, ?_, ?_, ?_, ?_, ?_, ?_, ?_, ?_, ?_, ?_, ?_, ?_, ?_, ?_⟩ <;> exact laneWitness_of _ rfl (by decide) (by decide)
/-- Every form of Obligations.FloatLaneForms runs from the base state. -/
theorem witness_FloatLaneForms :
    AllOf (laneWitness floatForm) [
      .compactFadd ⟨1, 2⟩, .compactFsub ⟨1, 2⟩, .compactFmul ⟨1, 2⟩, .compactFmax ⟨1, 2⟩, .fadd ⟨0, 1, 2, 3, false, false⟩,
      .fsub ⟨0, 1, 2, 3, false, false⟩, .fmul ⟨0, 1, 2, 3, false, false⟩, .fdiv ⟨0, 1, 2, 3, false, false⟩,
      .fmin ⟨0, 1, 2, 3, false, false⟩, .fmax ⟨0, 1, 2, 3, false, false⟩, .fminn ⟨0, 1, 2, 3, false, false⟩,
      .fmaxn ⟨0, 1, 2, 3, false, false⟩, .ffma ⟨0, 1, 2, 3, false, false, false⟩, .fnma ⟨0, 1, 2, 3, false, false, false⟩,
      .pfmaBf16x2 ⟨0, 1, 2, 3, false, false, false⟩, .pfmaF16x2 ⟨0, 1, 2, 3, false, false, false⟩, .fsqrt ⟨0, 1, 2, false⟩,
      .frcp ⟨0, 1, 2, false⟩, .frsq ⟨0, 1, 2, false⟩, .exp2 ⟨0, 1, 2, false⟩, .fneg ⟨0, 1, 2, false⟩, .fabs ⟨0, 1, 2, false⟩,
      .fclass ⟨0, 1, 2, false⟩, .fround ⟨0, 1, 2, 1, false⟩, .fcvt ⟨0, 1, 2, 1, 0, false, 1⟩,
      .paddBf16x2 ⟨0, 1, 2, 3, false, false⟩, .paddF16x2 ⟨0, 1, 2, 3, false, false⟩, .pmulBf16x2 ⟨0, 1, 2, 3, false, false⟩,
      .pmulF16x2 ⟨0, 1, 2, 3, false, false⟩, .pk2h ⟨0, 1, 2, 3, false, false⟩, .fscale ⟨0, 1, 2, 3, false, false⟩] := by
  refine ⟨?_, ?_, ?_, ?_, ?_, ?_, ?_, ?_, ?_, ?_, ?_, ?_, ?_, ?_, ?_, ?_, ?_, ?_, ?_, ?_, ?_, ?_, ?_, ?_, ?_, ?_, ?_, ?_, ?_, ?_, ?_⟩ <;> exact laneWitness_of _ rfl (by decide) (by decide)
/-- Every form of Obligations.BinnedLaneForms runs from the base state. -/
theorem witness_BinnedLaneForms :
    AllOf (laneWitness binnedForm) [
      .bexp ⟨0, 1, 2, false⟩, .bcvt ⟨0, 1, 2, 3, false, false⟩, .badd ⟨0, 1, 2, 3, false, false⟩,
      .bfin ⟨0, 1, 2, 3, false, false⟩] := by
  refine ⟨?_, ?_, ?_, ?_⟩ <;> exact laneWitness_of _ rfl (by decide) (by decide)
/-- Every form of Obligations.GroupLaneForms runs from the base state. -/
theorem witness_GroupLaneForms :
    AllOf (laneWitness groupForm) [
      .shflIdx ⟨0, 1, 2, 3, false, false⟩, .shflXor ⟨0, 1, 2, 3, false, false⟩, .shflUp ⟨0, 1, 2, 3, false, false⟩,
      .shflDown ⟨0, 1, 2, 3, false, false⟩, .ballot ⟨0, 1, 2, false⟩, .topkMax ⟨0, 1, 2, 3, false, false⟩,
      .topkMin ⟨0, 1, 2, 3, false, false⟩, .redux ⟨0, 1, 2, 0, false⟩, .scanInc ⟨0, 1, 2, 0, false⟩,
      .scanExc ⟨0, 1, 2, 0, false⟩, .maxidxF32 ⟨0, 1, 2, false⟩, .maxidxF16 ⟨0, 1, 2, false⟩, .maxidxBf16 ⟨0, 1, 2, false⟩,
      .minidxF32 ⟨0, 1, 2, false⟩, .minidxF16 ⟨0, 1, 2, false⟩, .minidxBf16 ⟨0, 1, 2, false⟩, .kpop ⟨0, 1, 2⟩, .kffs ⟨0, 1, 2⟩,
      .vbcast ⟨0, 1, 2, false, false⟩, .redux ⟨0, 1, 2, 10, false⟩] := by
  refine ⟨?_, ?_, ?_, ?_, ?_, ?_, ?_, ?_, ?_, ?_, ?_, ?_, ?_, ?_, ?_, ?_, ?_, ?_, ?_, ?_⟩ <;> exact laneWitness_of _ rfl (by decide) (by decide)
/-- Every form of Obligations.MaskForms runs from the base state, and one whose destination is k0. -/
theorem witness_MaskForms :
    AllOf (fun i => ∃ F, maskForm i = some F ∧ Runs base 0 placedPart placedGroup ∧
      MaskReady F placedPart placedGroup) [
      .icmpI32 ⟨0, 1, 2, 2, 3, false, false⟩, .icmpN32 ⟨0, 1, 2, 2, 3, false, false⟩, .fcmpF32 ⟨0, 1, 2, 2, 3, false, false⟩,
      .fcmpF16 ⟨0, 1, 2, 2, 3, false, false⟩, .fcmpBf16 ⟨0, 1, 2, 2, 3, false, false⟩, .kand ⟨0, 1, 2, 3⟩, .kor ⟨0, 1, 2, 3⟩,
      .kxor ⟨0, 1, 2, 3⟩, .kandn ⟨0, 1, 2, 3⟩, .knot ⟨0, 1, 2⟩, .kmov ⟨0, 1, 2⟩, .kset ⟨0, 1, 2, false⟩, .kmov ⟨0, 0, 2⟩] := by
  refine ⟨?_, ?_, ?_, ?_, ?_, ?_, ?_, ?_, ?_, ?_, ?_, ?_, ?_⟩ <;> exact ⟨_, rfl, runs_base, maskReady_base _⟩
/-- Every form of Obligations.UniformForms runs from the base state, in the part and in the sequencer context. -/
theorem witness_UniformForms :
    AllOf (fun i => ∃ F, uniForm i = some F ∧ thread? base base.agent = some placedPart.thr ∧
      thread? seqBase seqBase.agent = some placedPart.thr ∧
      (∀ r ∈ F.srcs, (sregOf placedPart.thr r.toNat).full = true ∧ (sregOf placedPart.thr r.toNat).poison = false) ∧
      (sregOf placedPart.thr F.sd.toNat).full = true) [
      .sadd ⟨1, 2, 3, false, false⟩, .ssub ⟨1, 2, 3, false, false⟩, .smul ⟨1, 2, 3, false, false⟩,
      .sand ⟨1, 2, 3, false, false⟩, .sor ⟨1, 2, 3, false, false⟩, .sxor ⟨1, 2, 3, false, false⟩,
      .sshl ⟨1, 2, 3, false, false⟩, .sshr ⟨1, 2, 3, false, false⟩, .saddi ⟨1, 2, false, 5⟩, .sandi ⟨1, 2, false, 5⟩,
      .sori ⟨1, 2, false, 5⟩, .smovi ⟨1, 5⟩, .sshli ⟨1, 2, false, 5⟩, .sshri ⟨1, 2, false, 5⟩, .ssari ⟨1, 2, false, 5⟩] := by
  refine ⟨?_, ?_, ?_, ?_, ?_, ?_, ?_, ?_, ?_, ?_, ?_, ?_, ?_, ?_, ?_⟩ <;>
    exact ⟨_, rfl, rfl, rfl, fun _ _ => sregOf_base _, (sregOf_base _).1⟩

/-! ### Scenes: states in which part forms complete -/

/-- The placed part with values in some of its uniform registers, and its lowest and highest lane active. -/
def regPart (rs : List (Nat × DWord)) : Part :=
  { placedPart with em := 0x8000000000000001, thr := Thread.fresh 0x1000 (rs.map fun r => (r.1, ⟨r.2, true, false⟩)) }
/-- Its uniform registers can all be read and written. -/
theorem sregOf_regPart (rs : List (Nat × DWord)) (n : Nat) :
    (sregOf (regPart rs).thr n).full = true ∧ (sregOf (regPart rs).thr n).poison = false := by
  induction rs with
  | nil => exact sregOf_base n
  | cons r rs ih =>
    simp only [regPart, Thread.fresh, sregOf, List.map_cons, Cells.get, Cells.get?] at ih ⊢
    split
    · exact ⟨rfl, rfl⟩
    · exact ih
/-- A box of one granule that the placed group holds under handle 1. -/
def heldOne : Box :=
  { gen := 1, gran := 1, escrow := true, holder := some 0, tid := 0, front := [], back := [], frontPoison := [], backPoison := [],
    lends := [] }
/-- The data page: the second frame at address 0, for loads and stores. -/
def dataPage : Page := { placedPage with wr := true, ex := false, state := .device 4096 }
/-- The base state with a given part and group, the data page at address 0 and the box. -/
def sceneOf (p : Part) (g : Group) : State :=
  setCluster 0 (fun u => { u with boxes := [(0, heldOne)] })
    (setPar 0 (fun t => { t with pages := [(0, dataPage), (0x1000, placedPage)] })
      { base with parts := [(0, p)], groups := [(0, g)], frames := [(0, ⟨4096, 0, false⟩), (4096, ⟨4096, 0, false⟩)] })
/-- Its part executes. -/
theorem runs_scene (p : Part) (g : Group) (h : p.gid = 0) : Runs (sceneOf p g) 0 p g := ⟨rfl, rfl, by rw [h]; rfl⟩
/-- The scene whose part has given uniform registers. -/
def scene (rs : List (Nat × DWord)) : State := sceneOf (regPart rs) placedGroup
/-- A part whose uniform registers, in a group whose lanes and masks can all be used, is ready for any form. -/
theorem partReady_of (F : PartForm) (p : Part) (g : Group) (hp : ∀ n, (sregOf p.thr n).full = true ∧ (sregOf p.thr n).poison = false)
    (hl : g.lanes = []) (hm : g.maskPoison = []) : PartReady F p g := by
  have hw : ∀ n l, laneWord g p.wb n l = LaneWord.zero := fun n l => by simp [laneWord, hl, Cells.get, Cells.get?]
  exact ⟨fun n _ l _ => by rw [hw]; exact ⟨rfl, rfl⟩, fun n _ l _ => by rw [hw]; rfl, fun _ _ _ => by simp [hm],
    fun r _ => hp _, fun r _ => (hp _).1⟩
/-- A part form that completes in a state. -/
def PartWitness (form : State → Nat → Part → Group → Instr → Option PartForm) (s : State) (p : Part) (g : Group) (i : Instr) : Prop :=
  ∃ F, form s 0 p g i = some F ∧ Runs s 0 p g ∧ F.ok ∧ PartReady F p g
/-- A form that completes in the scene with given registers. -/
def SceneWitness (form : State → Nat → Part → Group → Instr → Option PartForm) (rs : List (Nat × DWord)) (i : Instr) : Prop :=
  PartWitness form (scene rs) (regPart rs) placedGroup i
/-- Its proof from the form's own checks. -/
theorem scene_of {form : State → Nat → Part → Group → Instr → Option PartForm} {rs : List (Nat × DWord)} {i : Instr} (F : PartForm)
    (h : form (scene rs) 0 (regPart rs) placedGroup i = some F) (ok : F.ok) : SceneWitness form rs i :=
  ⟨F, h, runs_scene _ _ rfl, ok, partReady_of F _ _ (sregOf_regPart rs) rfl rfl⟩
/-- The same in a state of its own, with a part that keeps the placed part's registers. -/
theorem witness_of {form : State → Nat → Part → Group → Instr → Option PartForm} {s : State} {p : Part} {g : Group} {i : Instr}
    (F : PartForm) (h : form s 0 p g i = some F) (r : Runs s 0 p g) (ok : F.ok) (hr : ∃ rs, p.thr.sregs = (regPart rs).thr.sregs)
    (hl : g.lanes = []) (hm : g.maskPoison = []) : PartWitness form s p g i :=
  ⟨F, h, r, ok, partReady_of F _ _ (by
    intro n; obtain ⟨rs, hr⟩ := hr; have := sregOf_regPart rs n; simp only [sregOf, hr] at this ⊢; exact this) hl hm⟩

/-- Obligations.SystemForms: an active lane, an inactive one, and masks. -/
theorem witness_SystemForms_bridges :
    AllOf (SceneWitness bridgeForm []) [.vread ⟨1, 2, 0, false⟩, .vread ⟨1, 2, 1, false⟩, .vread ⟨1, 2, 63, false⟩, .kget ⟨1, 2⟩,
      .emget ⟨1⟩, .emset ⟨2, false⟩, .emand ⟨1⟩] := by
  refine ⟨?_, ?_, ?_, ?_, ?_, ?_, ?_⟩ <;> exact scene_of _ rfl (by decide)
/-- The group whose lane 0 of v2 waits for a load. -/
def loadingGroup : Group := { placedGroup with lanes := [(2 * 64, ⟨0, false, false⟩)] }
/-- Obligations.SystemForms: a read of a lane that is empty. -/
theorem witness_SystemForms_empty :
    PartWitness bridgeForm (sceneOf (regPart []) loadingGroup) (regPart []) loadingGroup (.vread ⟨1, 2, 0, false⟩) :=
  ⟨_, rfl, runs_scene _ _ rfl, (by decide), ⟨fun _ h => absurd h List.not_mem_nil, fun _ h => absurd h List.not_mem_nil,
    fun _ h => absurd h List.not_mem_nil, fun _ h => absurd h List.not_mem_nil, fun r _ => (sregOf_regPart [] _).1⟩⟩
/-- Obligations.SystemForms: fences and reads of the table and of counters, loads of the first and the last entry. -/
theorem witness_SystemForms :
    AllOf (SceneWitness systemForm []) [.tfence, .dfence, .dget ⟨1, 2, false⟩, .prof ⟨1, 0⟩, .prof ⟨1, 13⟩, .fltgetMask ⟨1, 0⟩,
      .fltget ⟨2, 0⟩] ∧
    SceneWitness loadTableForm [(3, 0x100)] (.dload ⟨2, 3, false, false⟩) ∧
    SceneWitness loadTableForm [(3, 0x17F)] (.dload ⟨2, 3, false, false⟩) := by
  refine ⟨⟨?_, ?_, ?_, ?_, ?_, ?_, ?_⟩, ?_, ?_⟩ <;> exact scene_of _ rfl (by decide)
/-- The scene with breakpoints armed, in a debug session that allows them. -/
def armedScene : State := setCtx 0 (fun k => { k with armed := true }) { scene [] with fns := [(0, { FnRegs.zero with dlock := 2 })] }
/-- Obligations.SystemForms: an armed breakpoint. -/
theorem witness_SystemForms_armed : PartWitness loadTableForm armedScene (regPart []) placedGroup (.brkp ⟨3⟩) :=
  witness_of _ rfl ⟨rfl, rfl, rfl⟩ ⟨_, rfl, rfl⟩ ⟨[], rfl⟩ rfl rfl
/-- Obligations.ControlForms: branches whose lanes agree, calls that spill nothing, a join of a lone part. -/
theorem witness_ControlForms :
    AllOf (SceneWitness controlForm []) [.bk ⟨0, 8⟩, .bk ⟨1, 8⟩, .bkany ⟨0, 8⟩, .bkany ⟨1, 8⟩, .bkall ⟨0, 8⟩, .bkall ⟨1, 8⟩,
      .bknone ⟨0, 8⟩, .bknone ⟨1, 8⟩, .call ⟨0, 8⟩, .callr ⟨2, false, 0⟩, .join ⟨15⟩] ∧
    SceneWitness controlForm [(2, 0xFFFFFFFFFFFFFE)] (.callr ⟨2, false, 0⟩) := by
  refine ⟨⟨?_, ?_, ?_, ?_, ?_, ?_, ?_, ?_, ?_, ?_, ?_⟩, ?_⟩ <;> exact scene_of _ rfl (by decide)

/-- A part of two lanes with a window stack and a save area in the data page. -/
def windowPart (st : List WFrame) (wsp : DWord) (spc : Nat) : Part :=
  { regPart [] with own := 0x8000000000000001, wstack := st, wsp := wsp, spc := spc }
/-- Its form completes in the scene. -/
def WindowWitness (st : List WFrame) (wsp : DWord) (spc : Nat) (i : Instr) : Prop :=
  PartWitness controlForm (sceneOf (windowPart st wsp spc) placedGroup) (windowPart st wsp spc) placedGroup i
set_option maxRecDepth 8000 in
/-- Obligations.ControlForms: a call that spills its own frame, a return in the window, and one whose frame is in memory. -/
theorem witness_ControlForms_windows :
    WindowWitness [] 0x100 0 (.call ⟨1, 8⟩) ∧ WindowWitness [⟨0x1000, 0⟩] 0x100 0 .ret ∧ WindowWitness [] 0x400 1 .ret := by
  refine ⟨?_, ?_, ?_⟩
  · exact witness_of _ rfl (runs_scene _ _ rfl) (by decide) ⟨[], rfl⟩ rfl rfl
  · exact witness_of _ rfl (runs_scene _ _ rfl) (by decide) ⟨[], rfl⟩ rfl rfl
  · exact witness_of _ rfl (runs_scene _ _ rfl) (by decide) ⟨[], rfl⟩ rfl rfl
/-- A part in its handler, with a number of frames. -/
def handlerPartOf (n : Nat) : Part :=
  { regPart [] with priv := true, tstack := List.replicate n ⟨0x1000, 4, 1, 0, false, Report.zero⟩ }
/-- Obligations.ControlForms: returns from a trap to its instruction and past it. -/
theorem witness_ControlForms_tret :
    PartWitness controlForm (sceneOf (handlerPartOf 1) placedGroup) (handlerPartOf 1) placedGroup (.tret ⟨0⟩) ∧
    PartWitness controlForm (sceneOf (handlerPartOf 4) placedGroup) (handlerPartOf 4) placedGroup (.tret ⟨2⟩) := by
  refine ⟨?_, ?_⟩ <;> exact witness_of _ rfl (runs_scene _ _ rfl) (by decide) ⟨[], rfl⟩ rfl rfl
/-- An agent form that completes in the scene, in the part and in the sequencer context. -/
def AgentWitness (form : State → Thread → Instr → Option AgentForm) (rs : List (Nat × DWord)) (i : Instr) : Prop :=
  (∃ F, form (scene rs) (regPart rs).thr i = some F ∧ thread? (scene rs) (scene rs).agent = some (regPart rs).thr ∧ F.ok ∧
    (∀ r ∈ F.unis, (sregOf (regPart rs).thr r.toNat).full = true ∧ (sregOf (regPart rs).thr r.toNat).poison = false) ∧
    (∀ r ∈ F.udsts, (sregOf (regPart rs).thr r.toNat).full = true))
/-- Its proof from the form's own checks. -/
theorem agent_of {form : State → Thread → Instr → Option AgentForm} {rs : List (Nat × DWord)} {i : Instr} (F : AgentForm)
    (h : form (scene rs) (regPart rs).thr i = some F) (ok : F.ok) : AgentWitness form rs i :=
  ⟨F, h, rfl, ok, fun _ _ => sregOf_regPart rs _, fun _ _ => (sregOf_regPart rs _).1⟩
/-- The scene with its sequencer context executing, and that context's registers as given. -/
def seqScene (rs : List (Nat × DWord)) : State :=
  setSeq 0 (fun q => { q with thr := (regPart rs).thr }) { scene rs with agent := .seq 0 }
/-- An agent form that completes in the sequencer context of the scene. -/
def SeqWitness (form : State → Thread → Instr → Option AgentForm) (rs : List (Nat × DWord)) (i : Instr) : Prop :=
  (∃ F, form (seqScene rs) (regPart rs).thr i = some F ∧ thread? (seqScene rs) (seqScene rs).agent = some (regPart rs).thr ∧ F.ok ∧
    (∀ r ∈ F.unis, (sregOf (regPart rs).thr r.toNat).full = true ∧ (sregOf (regPart rs).thr r.toNat).poison = false) ∧
    (∀ r ∈ F.udsts, (sregOf (regPart rs).thr r.toNat).full = true))
/-- Its proof from the form's own checks. -/
theorem seq_of {form : State → Thread → Instr → Option AgentForm} {rs : List (Nat × DWord)} {i : Instr} (F : AgentForm)
    (h : form (seqScene rs) (regPart rs).thr i = some F) (ok : F.ok) : SeqWitness form rs i :=
  ⟨F, h, rfl, ok, fun _ _ => sregOf_regPart rs _, fun _ _ => (sregOf_regPart rs _).1⟩
/-- Obligations.SpecialRegisterForms: the first, the last and the writable selectors. -/
theorem witness_SpecialRegisterForms :
    AllOf (AgentWitness specialForm []) [.sget ⟨1, 0⟩, .sget ⟨1, 24⟩, .sset ⟨2, false, 0⟩, .sset ⟨2, false, 5⟩, .sset ⟨2, false, 7⟩,
      .sset ⟨2, false, 8⟩, .sset ⟨2, false, 10⟩, .sset ⟨2, false, 21⟩, .sset ⟨2, false, 24⟩] ∧
    AllOf (SeqWitness specialForm []) [.sget ⟨1, 0⟩, .sget ⟨1, 24⟩, .sset ⟨2, false, 8⟩, .sset ⟨2, false, 21⟩] := by
  refine ⟨⟨?_, ?_, ?_, ?_, ?_, ?_, ?_, ?_, ?_⟩, ⟨?_, ?_, ?_, ?_⟩⟩ <;> first | exact agent_of _ rfl (by decide) | exact seq_of _ rfl (by decide)
/-- Obligations.BranchAndChitForms: each condition of `bs` at zero, jumps, and yield. -/
theorem witness_BranchAndChitForms :
    AllOf (AgentWitness branchForm []) [.bs ⟨0, 2, 8⟩, .bs ⟨1, 2, 8⟩, .bs ⟨2, 2, 8⟩, .bs ⟨3, 2, 8⟩, .bs ⟨4, 2, 8⟩, .bs ⟨5, 2, 8⟩, .jmp ⟨8⟩,
      .jmpr ⟨2, false⟩, .yield] ∧
    AllOf (SeqWitness branchForm []) [.bs ⟨0, 2, 8⟩, .jmp ⟨8⟩, .jmpr ⟨2, false⟩, .yield] := by
  refine ⟨⟨?_, ?_, ?_, ?_, ?_, ?_, ?_, ?_, ?_⟩, ⟨?_, ?_, ?_, ?_⟩⟩ <;> first | exact agent_of _ rfl (by decide) | exact seq_of _ rfl (by decide)
/-- Obligations.UniformMemoryForms: at the first word of the data page and at its last. -/
theorem witness_UniformMemoryForms :
    AllOf (AgentWitness uniMemForm []) [.sld64 ⟨1, 2, false, 511⟩, .sld32 ⟨1, 2, false, 1023⟩, .slda ⟨1, 2, false, 0⟩,
      .sst64 ⟨1, 2, false, 511⟩, .sst32 ⟨1, 2, false, 0⟩, .sstl ⟨1, 2, false, 0⟩] ∧
    AllOf (SeqWitness uniMemForm []) [.sld64 ⟨1, 2, false, 0⟩, .sld32 ⟨1, 2, false, 0⟩, .slda ⟨1, 2, false, 0⟩, .sst64 ⟨1, 2, false, 0⟩,
      .sst32 ⟨1, 2, false, 0⟩, .sstl ⟨1, 2, false, 0⟩] := by
  refine ⟨⟨?_, ?_, ?_, ?_, ?_, ?_⟩, ⟨?_, ?_, ?_, ?_, ?_, ?_⟩⟩ <;> first | exact agent_of _ rfl (by decide) | exact seq_of _ rfl (by decide)
/-- Obligations.BranchAndChitForms: no chit of the range, and a wait of none. -/
theorem witness_BranchAndChitForms_chits :
    AllOf (AgentWitness chitForm []) [.chwa ⟨1, 2, false⟩, .chwl ⟨1, 2, false⟩, .chff ⟨1, 2, false⟩, .chclr ⟨2, false⟩,
      .chget ⟨1, 2, false, true⟩, .chset ⟨2, false⟩] ∧
    AllOf (SeqWitness chitForm []) [.chwa ⟨1, 2, false⟩, .chwl ⟨1, 2, false⟩, .chff ⟨1, 2, false⟩, .chclr ⟨2, false⟩,
      .chget ⟨1, 2, false, true⟩, .chset ⟨2, false⟩] := by
  refine ⟨⟨?_, ?_, ?_, ?_, ?_, ?_⟩, ⟨?_, ?_, ?_, ?_, ?_, ?_⟩⟩ <;> first | exact agent_of _ rfl (by decide) | exact seq_of _ rfl (by decide)
/-- Obligations.LaneMemoryForms: each size of a load and store, and the last word of the data page. -/
theorem witness_LaneMemoryForms :
    AllOf (SceneWitness memoryForm []) [.ld ⟨0, 4, 2, false, false, 0, 1, 0⟩, .ld ⟨0, 4, 2, false, false, 4, 0, 7⟩,
      .lda ⟨0, 4, 2, false, false, 3, 2, 0⟩, .st ⟨0, 4, 2, false, false, 1, 0, 0⟩, .stl ⟨0, 4, 2, false, false, 2, 2, 0⟩,
      .atom ⟨0, 4, 2, false, false, 2, 2, 0⟩, .atom ⟨0, 4, 2, false, false, 4, 0, 13⟩, .pgreq ⟨0, 2, false, 2, 1⟩, .pfch ⟨0, 2, false, 2⟩,
      .fenceFull ⟨4⟩, .fenceAcq ⟨0⟩, .fenceRel ⟨3⟩, .fenceEng ⟨2⟩] := by
  refine ⟨?_, ?_, ?_, ?_, ?_, ?_, ?_, ?_, ?_, ?_, ?_, ?_, ?_⟩ <;> exact scene_of _ rfl (by decide)
/-- Obligations.BoxAccessForms, with the handle in s0. -/
theorem witness_BoxAccessForms :
    AllOf (SceneWitness boxAccessForm [(0, 1)]) [.bld ⟨0, 4, 2, false, false, 4, 0, 0⟩, .bst ⟨0, 4, 2, false, false, 0, 1, 0⟩,
      .batom ⟨0, 4, 2, false, false, 0, 0⟩, .batom ⟨0, 4, 2, false, false, 9, 0⟩, .batom ⟨0, 4, 2, false, false, 13, 0⟩] := by
  refine ⟨?_, ?_, ?_, ?_, ?_⟩ <;> exact scene_of _ rfl (by decide)

/-- A group whose take queue holds the handle of box 1. -/
def takingGroup : Group := { placedGroup with takeq := [1] }
set_option maxRecDepth 20000 in
/-- Obligations.BoxForms: the handle in s2; a new box of one granule and of 256, without and with a quota. -/
theorem witness_BoxForms :
    AllOf (SceneWitness boxForm [(2, 1)]) [.bxfree ⟨2⟩, .bxgive ⟨2, 3⟩, .bxtake ⟨1, true⟩, .bxlend ⟨2, 3, 0⟩, .settle ⟨2⟩, .bxinfo ⟨1, 2⟩,
      .bxinfo ⟨1, 3⟩, .bxrecall ⟨2⟩] ∧
    SceneWitness boxForm [(2, 4096)] (.bxnew ⟨1, 2, false⟩) ∧ SceneWitness boxForm [(2, 1048576)] (.bxnew ⟨1, 2, true⟩) := by
  refine ⟨⟨?_, ?_, ?_, ?_, ?_, ?_, ?_, ?_⟩, ?_, ?_⟩ <;> exact scene_of _ rfl (by decide)
/-- The scene of a launch whose teams may hold two granules. -/
def quotaScene : State := setCtx 0 (fun k => { k with lr := { k.lr with boxq := 2 } }) (scene [(2, 4096)])
set_option maxRecDepth 20000 in
/-- Obligations.BoxForms: a new box within the quota, and a box taken from the queue. -/
theorem witness_BoxForms_more :
    PartWitness boxForm quotaScene (regPart [(2, 4096)]) placedGroup (.bxnew ⟨1, 2, false⟩) ∧
    PartWitness boxForm (sceneOf (regPart []) takingGroup) (regPart []) takingGroup (.bxtake ⟨1, false⟩) := by
  refine ⟨?_, ?_⟩
  · exact witness_of _ rfl ⟨rfl, rfl, rfl⟩ (by decide) ⟨_, rfl⟩ rfl rfl
  · exact witness_of _ rfl (runs_scene _ _ rfl) (by decide) ⟨_, rfl⟩ rfl rfl

/-- A sequence of 256 slots of 16 bytes, four reserved and two committed, with a segment at the third frame. -/
def oneSq : Sq :=
  { part := 0, handle := 0, cfg := 0x104, cap := 256, cl := 2, rl := 4, win := 0x10000, wmax := 256, stab := 0, sumt := 0,
    committed := [], segs := [(0, [8192])], queue := [], tampered := false, clock := [0, 0, 0, 0] }
/-- A scene with descriptors at addresses 0 and 64 of the data page, a window of kind SEQ, and live sequences. -/
def sqScene (qs : List Sq) (rs : List (Nat × DWord)) : State :=
  setPar 0 (fun t => { t with pages := t.pages ++ [(0x10000, { dataPage with size := 65536, kind := .seq, state := .touch })] })
    { scene rs with
      sqs := qs
      mem := [(4096, 4), (4097, 1), (4105, 1), (4130, 1), (4137, 1), (4193, 0x10), (4194, 1), (4201, 1)]
      frames := [(0, ⟨4096, 0, false⟩), (4096, ⟨4096, 0, false⟩), (8192, ⟨4096, 0, false⟩)] }
/-- A sequence form that completes there. -/
def SqWitness (qs : List Sq) (rs : List (Nat × DWord)) (i : Instr) : Prop :=
  PartWitness (fun s pid p g i => seqForm s pid p g i <|> forkForm s pid p g i) (sqScene qs rs) (regPart rs) placedGroup i
/-- Its proof from the form's own checks. -/
theorem sq_of {qs : List Sq} {rs : List (Nat × DWord)} {i : Instr} (F : PartForm)
    (h : (seqForm (sqScene qs rs) 0 (regPart rs) placedGroup i <|> forkForm (sqScene qs rs) 0 (regPart rs) placedGroup i) = some F)
    (ok : F.ok) : SqWitness qs rs i :=
  ⟨F, h, ⟨rfl, rfl, rfl⟩, ok, partReady_of F _ _ (sregOf_regPart rs) rfl rfl⟩
/-- Obligations.SequenceForms: a new sequence, and the forms on a live one. -/
theorem witness_SequenceForms :
    SqWitness [] [] (.sqmint ⟨2, false⟩) ∧
    AllOf (SqWitness [oneSq] []) [.sqdrop ⟨2, false⟩, .sqlen ⟨1, 2, false, 0, false⟩, .sqlen ⟨1, 0, false, 15, true⟩,
      .sqwait ⟨1, 2, 3, false, false, 0, false⟩, .sqbind ⟨2, false, 0, false⟩, .sqbind ⟨0, false, 15, true⟩, .sqext ⟨2, 3, false, false⟩,
      .sqsum ⟨1, 2, 3, false, false⟩, .sqaddr ⟨1, 2, 3, false, false⟩, .sqinfo ⟨1, 2, false, 0⟩, .sqinfo ⟨1, 2, false, 5⟩] := by
  refine ⟨?_, ?_, ?_, ?_, ?_, ?_, ?_, ?_, ?_, ?_, ?_, ?_⟩ <;> exact sq_of _ rfl (by decide)
/-- Obligations.SequenceForms: reservations that are granted, that allocate, and that only try; commits; waits on a bound length;
an extension; forks at a whole and at a partial segment. -/
theorem witness_SequenceForms_more :
    SqWitness [oneSq] [(3, 1)] (.sqres ⟨1, 2, 3, false, false, true⟩) ∧
    SqWitness [oneSq] [(3, 252)] (.sqres ⟨1, 2, 3, false, false, false⟩) ∧
    SqWitness [oneSq] [(3, 65536)] (.sqres ⟨1, 2, 3, false, false, true⟩) ∧
    SqWitness [{ oneSq with cl := 0, rl := 0, segs := [] }] [(3, 1)] (.sqres ⟨1, 2, 3, false, false, false⟩) ∧
    SqWitness [oneSq] [(3, 2), (4, 2)] (.sqcom ⟨4, 2, 3, false, false⟩) ∧
    SqWitness [oneSq] [(3, 2)] (.sqwait ⟨1, 2, 3, false, false, 0, false⟩) ∧
    SqWitness [{ oneSq with cap := 0, cl := 0, rl := 0 }] [(3, 256)] (.sqext ⟨2, 3, false, false⟩) ∧
    SqWitness [oneSq] [(4, 64)] (.sqfork ⟨4, 2, 3, false, false⟩) ∧
    SqWitness [oneSq] [(3, 2), (4, 64)] (.sqfork ⟨4, 2, 3, false, false⟩) := by
  refine ⟨?_, ?_, ?_, ?_, ?_, ?_, ?_, ?_, ?_⟩ <;> exact sq_of _ rfl (by decide)
/-- The scene whose team has bound CL0 to the sequence. -/
def boundScene : State := setTeam 0 (fun t => { t with cls := [(0, ⟨0, true, 2, [0, 0, 0, 0]⟩)] }) (sqScene [oneSq] [(3, 2)])
/-- Obligations.SequenceForms: a wait on the bound length. -/
theorem witness_SequenceForms_bound :
    PartWitness seqForm boundScene (regPart [(3, 2)]) placedGroup (.sqwait ⟨1, 0, 3, false, false, 0, true⟩) :=
  witness_of _ rfl ⟨rfl, rfl, rfl⟩ (by decide) ⟨_, rfl⟩ rfl rfl

/-- A command scene: a box of sixteen granules under handle 1, and a copy descriptor of one element at address 0. -/
def cmdScene (rs : List (Nat × DWord)) : State :=
  { setCluster 0 (fun u => { u with boxes := [(0, { heldOne with gran := 16 })] }) (scene rs) with mem := [(4128, 1)] }
/-- A command that passes its checks there. -/
def CmdWitness (rs : List (Nat × DWord)) (i : Instr) : Prop :=
  ∃ F, commandForm (cmdScene rs) 0 (regPart rs) placedGroup i = some F ∧ Runs (cmdScene rs) 0 (regPart rs) placedGroup ∧ F.ok ∧
    CmdReady F (regPart rs) placedGroup
/-- Its proof from the command's own checks. -/
theorem cmd_of {rs : List (Nat × DWord)} {i : Instr} (F : CmdForm)
    (h : commandForm (cmdScene rs) 0 (regPart rs) placedGroup i = some F) (ok : F.ok) : CmdWitness rs i :=
  ⟨F, h, ⟨rfl, rfl, rfl⟩, ok, ⟨fun _ _ _ _ => ⟨rfl, rfl⟩, fun _ _ => sregOf_regPart rs _⟩⟩
/-- Chit 0 is in the range of the placed team. -/
theorem chitFits_of {s : State} {f : Bool} (h : s.teams = [(0, placedTeam)]) : chitFits s placedGroup f 0 := by
  intro _ t ht
  rw [h] at ht
  cases ht
  decide
/-- The transfer word of a number of bytes to this module itself. -/
def selfWord : DWord := 0x800000 ||| Config.deviceId.setWidth 64
/-- Its fields, whatever the module's device number is. -/
theorem selfWord_fields : selfWord.extractLsb' 0 9 = Config.deviceId ∧ selfWord.extractLsb' 48 16 = 0 ∧
    selfWord.extractLsb' 16 32 = 128 ∧ selfWord.getLsbD 15 = false := by
  have h : ∀ d : BitVec 9, (0x800000#64 ||| d.setWidth 64).extractLsb' 0 9 = d ∧
      (0x800000#64 ||| d.setWidth 64).extractLsb' 48 16 = 0 ∧ (0x800000#64 ||| d.setWidth 64).extractLsb' 16 32 = 128 ∧
      (0x800000#64 ||| d.setWidth 64).getLsbD 15 = false := by decide +kernel
  exact h Config.deviceId
/-- The checks of a transfer to this module pass. -/
theorem xfer_self : xferTrap (cmdScene [(3, selfWord)]) (regPart [(3, selfWord)]) placedGroup 0 selfWord true 0 = none := by
  obtain ⟨h0, h1, h2, h3⟩ := selfWord_fields
  have h4 : chitTrap (cmdScene [(3, selfWord)]) placedGroup.tid true 0 = none := by rfl
  simp only [xferTrap, xferLen, h0, h1, h2, h3, h4, ofDomain]
  rfl

/-- Obligations.CommandForms: a copy, a gather, a take, transfers, a reduction, an encoding and a decoding; asynchronous, and held
until they complete. -/
theorem witness_CommandForms :
    CmdWitness [] (.cpy ⟨2, 0, true⟩) ∧ CmdWitness [(2, 1), (4, 1)] (.cpyx ⟨6, 2, 3, 0, true⟩) ∧ CmdWitness [] (.cpyq ⟨2, 3, 0, true⟩) ∧
    CmdWitness [(3, selfWord)] (.xsend ⟨2, 3, 0, true⟩) ∧ CmdWitness [(3, selfWord)] (.xrecv ⟨2, 3, 0, true⟩) ∧
    CmdWitness [(3, 0x4000200)] (.xred ⟨2, 3, 0, false⟩) ∧ CmdWitness [(2, 0x200000000001), (3, 1)] (.menc ⟨4, 2, 3, 0, false⟩) ∧
    CmdWitness [(2, 0x200000000001), (3, 1)] (.mdec ⟨2, 3, 0, false⟩) := by
  refine ⟨?_, ?_, ?_, ?_, ?_, ?_, ?_, ?_⟩
  · exact cmd_of _ rfl ⟨⟨by decide, by decide +kernel, chitFits_of rfl⟩, by decide +kernel⟩
  · exact cmd_of _ rfl ⟨by decide, by decide, by decide, chitFits_of rfl, by decide⟩
  · exact cmd_of _ rfl ⟨⟨by decide, by decide, by decide, chitFits_of rfl⟩, by decide⟩
  · exact cmd_of _ rfl ⟨xfer_self, by decide⟩
  · exact cmd_of _ rfl ⟨xfer_self, by decide⟩
  · exact cmd_of _ rfl ⟨⟨by decide, by decide, chitFits_of rfl⟩, by decide⟩
  · exact cmd_of _ rfl ⟨⟨by decide, by decide, by decide, by decide, chitFits_of rfl⟩, by decide⟩
  · exact cmd_of _ rfl ⟨⟨by decide, by decide, by decide, by decide, chitFits_of rfl⟩, by decide⟩

/-- The sequencer context of the scene with given registers. -/
def regSeq (rs : List (Nat × DWord)) (ops : List EngOp) : SeqCtx := { placedSeq with thr := (regPart rs).thr, ops := ops }
/-- Its scene, with entries in the quad's FIFO. -/
def engScene (rs : List (Nat × DWord)) (ops : List EngOp) (es : List FifoEntry) : State :=
  { scene rs with agent := .seq 0, seqs := [(0, regSeq rs ops)], quads := [(0, { Quad.zero with fifo := es })] }
/-- An engine form that completes there. -/
def EngWitness (rs : List (Nat × DWord)) (ops : List EngOp) (es : List FifoEntry) (i : Instr) : Prop :=
  ∃ F, (engScene rs ops es).agent = .seq 0 ∧ Cells.get? 0 (engScene rs ops es).seqs = some (regSeq rs ops) ∧
    engineForm (engScene rs ops es) 0 (regSeq rs ops) i = some F ∧ F.ok ∧
    (∀ r ∈ F.unis, (sregOf (regSeq rs ops).thr r.toNat).full = true ∧ (sregOf (regSeq rs ops).thr r.toNat).poison = false) ∧
    (∀ r ∈ F.udsts, (sregOf (regSeq rs ops).thr r.toNat).full = true)
/-- Its proof from the form's own checks. -/
theorem eng_of {rs : List (Nat × DWord)} {ops : List EngOp} {es : List FifoEntry} {i : Instr} (F : SeqCtxForm)
    (h : engineForm (engScene rs ops es) 0 (regSeq rs ops) i = some F) (ok : F.ok) : EngWitness rs ops es i :=
  ⟨F, rfl, rfl, h, ok, fun _ _ => sregOf_regPart rs _, fun _ _ => (sregOf_regPart rs _).1⟩
/-- Obligations.EngineForms: every form without operations posted, and `mpick` with an entry for it. -/
theorem witness_EngineForms :
    AllOf (EngWitness [] [] []) [.mma ⟨0, 0, 2, 3, 0, true⟩, .mma ⟨2, 3, 2, 3, 0, false⟩, .mmb ⟨3, 6, 2, 3, 0, true⟩, .mzero ⟨1, 0, true⟩,
      .mdrain ⟨1, 2, 0, true⟩, .mstore ⟨1, 3, 2, 3, 0, true⟩, .mscale ⟨1, 2, false⟩, .mscale ⟨1, 2, true⟩, .msig ⟨15, 2⟩, .mrel ⟨2⟩,
      .mwait ⟨15, true⟩, .mwait ⟨0, false⟩, .mpick ⟨1, true⟩] ∧
    EngWitness [] [] [⟨0, 0, 1, 2, 3, false⟩] (.mpick ⟨29, false⟩) := by
  refine ⟨⟨?_, ?_, ?_, ?_, ?_, ?_, ?_, ?_, ?_, ?_, ?_, ?_, ?_⟩, ?_⟩ <;> exact eng_of _ rfl (by decide)
/-- A posted pass over accumulator 0. -/
def postedPass : EngOp :=
  { id := 9, kind := .pass false 0 0 0, accs := 1, chit := none, pc := 0x1000, granted := false, age := 0, elig := none, flags := 0
    popped := [], heads := [], asked := [], pos := 0, cut := false, failed := none }
/-- Obligations.EngineForms: a drain posted beside a pass, and a wait for another accumulator. -/
theorem witness_EngineForms_posted :
    AllOf (EngWitness [] [postedPass] []) [.mdrain ⟨1, 2, 0, false⟩, .mwait ⟨14, false⟩] := by
  refine ⟨?_, ?_⟩ <;> exact eng_of _ rfl (by decide)

/-- The scene after the first phase of each first barrier, and its part, which latched that phase. -/
def pastScene (b : Barrier) : State :=
  let one : Cells BarState := [(0, ⟨1, []⟩)]
  let s := sceneOf { regPart [] with pend := [(b, 0)], latch := some (b, 0) } placedGroup
  setCtx 0 (fun k => { k with gbars := one }) (setCluster 0 (fun u => { u with cbars := one }) (setTeam 0 (fun t => { t with tbars := one }) s))
/-- A form that completes past that phase. -/
def PastWitness (b : Barrier) (i : Instr) : Prop :=
  PartWitness waitingForm (pastScene b) { regPart [] with pend := [(b, 0)], latch := some (b, 0) } placedGroup i
/-- Its proof from the form's own checks. -/
theorem past_of {b : Barrier} {i : Instr} (F : PartForm)
    (h : waitingForm (pastScene b) 0 { regPart [] with pend := [(b, 0)], latch := some (b, 0) } placedGroup i = some F) (ok : F.ok) :
    PastWitness b i :=
  ⟨F, h, ⟨rfl, rfl, rfl⟩, ok, partReady_of F _ _ (sregOf_regPart []) rfl rfl⟩
/-- Obligations.WaitingForms: a watch whose value differs, arrivals at the last barriers a launch may name, waits past a completed
phase, and a post. -/
theorem witness_WaitingForms :
    AllOf (SceneWitness waitingForm [(3, 1)]) [.watch ⟨1, 2, 3, false, false, true⟩, .watch ⟨1, 2, 3, false, false, false⟩,
      .tbarArrive ⟨0⟩, .tbarArrive ⟨15⟩, .cbarArrive ⟨7⟩] ∧
    AllOf (PastWitness (.team 0 0)) [.tbarWait ⟨0⟩, .tbarSync ⟨0⟩] ∧ AllOf (PastWitness (.cluster 0 0)) [.cbarWait ⟨0⟩, .cbarSync ⟨0⟩] ∧
    PastWitness (.grid 0 0) (.gbarSync ⟨0⟩) ∧ SceneWitness postForm [] (.mpost ⟨0, 2, 3, 0, true⟩) := by
  refine ⟨⟨?_, ?_, ?_, ?_, ?_⟩, ⟨?_, ?_⟩, ⟨?_, ?_⟩, ?_, ?_⟩
  · exact scene_of _ rfl (by decide)
  · exact scene_of _ rfl (by decide)
  · exact scene_of _ rfl (by decide)
  · exact scene_of _ rfl (by decide)
  · exact scene_of _ rfl (by decide)
  · exact past_of _ rfl (by decide)
  · exact past_of _ rfl (by decide)
  · exact past_of _ rfl (by decide)
  · exact past_of _ rfl (by decide)
  · exact past_of _ rfl (by decide)
  · exact scene_of _ rfl (by decide)
/-- The hypotheses of Obligations.EndForms: a part, a sequencer context without operations, and handlers of one and four
frames. -/
theorem witness_EndForms :
    Runs (scene []) 0 (regPart []) placedGroup ∧
    ((engScene [] [] []).agent = .seq 0 ∧ Cells.get? 0 (engScene [] [] []).seqs = some (regSeq [] []) ∧ (regSeq [] []).ops = []) ∧
    (Runs (sceneOf (handlerPartOf 1) placedGroup) 0 (handlerPartOf 1) placedGroup ∧ (handlerPartOf 1).priv = true ∧
      (handlerPartOf 1).tstack ≠ []) ∧
    (⟨1⟩ : OpTret).mode = 1 ∧ (⟨3⟩ : OpTret).mode = 3 :=
  ⟨runs_scene _ _ rfl, ⟨rfl, rfl, rfl⟩, ⟨runs_scene _ _ rfl, rfl, by decide⟩, rfl, rfl⟩
/-- Two parts of a group, the second with a wait. -/
def pairScene (w : Wait) : State :=
  let q : Part := { regPart [] with own := 2, em := 2, thr := { (regPart []).thr with wait := w } }
  { scene [] with parts := [(0, regPart []), (1, q)] }
/-- The hypotheses of Obligations.EndForms on what is left: another part at no join, one at a join, none with the group its team's last,
and none with another group of the team. -/
theorem witness_EndForms_left :
    (Cells.get? 0 (pairScene .none).parts = some (regPart []) ∧
      (∃ q ∈ (groupParts (pairScene .none) 0).filter fun q => q.1 != 0, joinOf q.2 = none)) ∧
    (Cells.get? 0 (pairScene (.join 15 4)).parts = some (regPart []) ∧
      (groupParts (pairScene (.join 15 4)) 0).filter (fun q => q.1 != 0) ≠ [] ∧
      ∀ q ∈ (groupParts (pairScene (.join 15 4)) 0).filter fun q => q.1 != 0, (joinOf q.2).map Prod.fst = some 15) ∧
    (Cells.get? 0 (scene []).parts = some (regPart []) ∧ (groupParts (scene []) 0).filter (fun q => q.1 != 0) = [] ∧
      (∃ g, Cells.get? 0 (departed 0 (regPart []) (scene [])).groups = some g ∧ g.tid = 0) ∧
      Cells.get? 0 (scene []).teams = some placedTeam ∧
      ∀ x ∈ groupsAfter (departed 0 (regPart []) (scene [])) 0, x.2.tid = 0 → x.2.exited = true) ∧
    (∃ x ∈ groupsAfter (departed 0 (regPart []) { scene [] with groups := [(0, placedGroup), (1, { placedGroup with grp := 1 })] }) 0,
      x.2.tid = 0 ∧ x.2.exited = false) ∧
    ∃ g, Cells.get? 0 ((groupParts (pairScene .none) 0).foldl (fun r q => ((Cells.get? q.1 r.parts).map fun p => departed q.1 p r).getD r)
      (pairScene .none)).groups = some g ∧ g.tid = 0 := by
  refine ⟨⟨rfl, by decide⟩, ⟨rfl, by decide, by decide⟩, ⟨rfl, rfl, ⟨_, rfl, rfl⟩, rfl, by decide⟩, by decide, _, rfl, rfl⟩
/-- The second of them waits at a join. -/
def joinScene (tok : Nat) : State := pairScene (.join tok 4)
/-- The hypotheses of Obligations.JoinMerges: the other part waits with the same token, and with another. -/
theorem witness_JoinMerges :
    (Runs (joinScene 1) 0 (regPart []) placedGroup ∧ (groupParts (joinScene 1) (regPart []).gid).length ≠ 1 ∧ (regPart []).tstack = [] ∧
      (regPart []).thr.stop = .running ∧ (groupParts (joinScene 1) (regPart []).gid).length ≠ 0 ∧
      (∀ q ∈ groupParts (joinScene 1) (regPart []).gid, q.1 ≠ 0 → (joinOf q.2).map Prod.fst = some (⟨1⟩ : OpTok).tok.toNat) ∧
      (∀ q ∈ groupParts (joinScene 1) (regPart []).gid, q.1 = 0 → q.2 = regPart [])) ∧
    (Runs (joinScene 2) 0 (regPart []) placedGroup ∧ (groupParts (joinScene 2) (regPart []).gid).length ≠ 1) := by
  refine ⟨⟨⟨rfl, rfl, rfl⟩, by decide, rfl, rfl, by decide, by decide, by decide⟩, ⟨rfl, rfl, rfl⟩, by decide⟩
/-- Two parts of a group that wait at one join, the lower lanes in the first. -/
def joinedScene : State :=
  let w (p : Part) : Part := { p with thr := { p.thr with wait := .join 1 4 } }
  { scene [] with parts := [(0, w (regPart [])), (1, w { regPart [] with own := 2, em := 2 })] }
/-- The other hypotheses of Obligations.JoinMerges: the first part is the one that is kept. -/
theorem witness_JoinMerges_kept :
    ∃ k, (0, k) ∈ groupParts joinedScene 0 ∧ joinOf k = some (1, 4) ∧
      (∀ q ∈ groupParts joinedScene 0, q.1 ≠ 0 → lowLane k.own < lowLane q.2.own) ∧
      ∀ q ∈ groupParts joinedScene 0, q.1 = 0 → q.2 = k :=
  ⟨_, .head _, rfl, by decide, by decide⟩
/-- A group whose first mask names lane 0, and whose second names lanes 0 to 62. -/
def maskedGroup : Group := { placedGroup with masks := [(1, 1), (2, 0x7FFFFFFFFFFFFFFF)] }
/-- The hypotheses of Obligations.BranchSplits: lane 0 takes the branch and lane 63 does not. -/
theorem witness_BranchSplits :
    Runs (sceneOf (regPart []) maskedGroup) 0 (regPart []) maskedGroup ∧ ((⟨1, 8⟩ : OpBk).k.toNat ∉ maskedGroup.maskPoison) ∧
    (regPart []).em &&& maskVal maskedGroup (⟨1, 8⟩ : OpBk).k.toNat ≠ 0 ∧
    (regPart []).em &&& ~~~maskVal maskedGroup (⟨1, 8⟩ : OpBk).k.toNat ≠ 0 := by
  refine ⟨runs_scene _ _ rfl, by decide, by decide, by decide⟩

/-- The other hypotheses of Obligations.BranchSplits. -/
theorem witness_BranchSplits_fragment : 
    Cells.get? 0 ({ scene [] with nextId := 1 } : State).parts = some (regPart []) ∧ ({ scene [] with nextId := 1 } : State).nextId ≠ 0 :=
  ⟨rfl, by decide⟩

/-- A scene with a handler at 0x2000, or none at 0, and a part with a number of frames. -/
def trapScene (tvec : DWord) (n : Nat) : State :=
  setCtx 0 (fun k => { k with tvec := tvec }) (sceneOf { handlerPartOf n with priv := false } placedGroup)
/-- Its part. -/
def trapPart (n : Nat) : Part := { handlerPartOf n with priv := false }
/-- Its context. -/
def trapContext (tvec : DWord) : Context := { placedContext with tvec := tvec }
/-- What the statements on traps ask of it. -/
theorem trap_scene (tvec : DWord) (n : Nat) :
    Runs (trapScene tvec n) 0 (trapPart n) placedGroup ∧ agentCtx (trapScene tvec n) (trapScene tvec n).agent = some 0 ∧
    Cells.get? 0 (trapScene tvec n).ctxs = some (trapContext tvec) ∧ ringBusy (trapScene tvec n) (trapScene tvec n).agent 0 = false :=
  ⟨⟨rfl, rfl, rfl⟩, rfl, rfl, rfl⟩
/-- The remaining hypotheses of Obligations.TrapEntersHandler and Obligations.TrapStopsPart: a handler and up to three frames; no
handler; a handler and four frames. -/
theorem witness_TrapEntersHandler_TrapStopsPart :
    ownTrap (armedIn (trapScene 0x2000 0) (trapContext 0x2000)) (.trap ⟨31⟩) = some (0x0E, 31) ∧
    ownTrap (armedIn (trapScene 0x2000 0) (trapContext 0x2000)) (.brkp ⟨3⟩) = some (0x0D, 3) ∧
    ownTrap (armedIn (trapScene 0 4) (trapContext 0)) (.trap ⟨0⟩) = some (0x0E, 0) ∧
    (trapContext 0x2000).tvec ≠ 0 ∧ (trapPart 0).tstack.length < 4 ∧ (trapPart 3).tstack.length < 4 ∧
    (trapContext 0).tvec = 0 ∧ (trapPart 4).tstack.length = 4 := by decide
/-- The hypotheses of Obligations.TrapReturns. -/
theorem witness_TrapReturns :
    Runs (sceneOf (handlerPartOf 4) placedGroup) 0 (handlerPartOf 4) placedGroup ∧ (handlerPartOf 4).priv = true ∧
    (∃ f r, (handlerPartOf 4).tstack = f :: r) ∧ ((⟨0⟩ : OpTret).mode = 0 ∨ (⟨2⟩ : OpTret).mode = 2) :=
  ⟨runs_scene _ _ rfl, rfl, ⟨_, _, rfl⟩, .inl rfl⟩
/-- The hypotheses of Obligations.PrivilegeAndContextTraps: T0, T1 without a frame, and a write of TVEC in T0. -/
theorem witness_PrivilegeAndContextTraps :
    (Runs (scene []) 0 (regPart []) placedGroup ∧ (regPart []).priv = false ∧ (⟨2, false, 12⟩ : OpSset).sel = 12) ∧
    (Runs (sceneOf (handlerPartOf 0) placedGroup) 0 (handlerPartOf 0) placedGroup ∧ (handlerPartOf 0).priv = true ∧
      (handlerPartOf 0).tstack = []) :=
  ⟨⟨runs_scene _ _ rfl, rfl, rfl⟩, runs_scene _ _ rfl, rfl, rfl⟩
/-- Its other hypotheses: forms of groups in a sequencer context, and a form of sequencer contexts in a part. -/
theorem witness_PrivilegeAndContextTraps_contexts :
    ((engScene [] [] []).agent = .seq 0 ∧ Cells.get? 0 (engScene [] [] []).seqs = some (regSeq [] []) ∧
      (engScene [] [] []).iss.entry = none ∧ onlyGroups (.iadd ⟨0, 1, 2, 3, false, false⟩) ∧ onlyGroups (.ld ⟨0, 4, 2, false, false, 2, 0, 0⟩) ∧
      onlyGroups .ret) ∧
    (Runs (scene []) 0 (regPart []) placedGroup ∧ (scene []).iss.entry = none ∧ onlySequencers (.mzero ⟨0, 0, false⟩)) :=
  ⟨⟨rfl, rfl, rfl, .inl rfl, .inr (.inr (.inr (.inr (.inr trivial)))), .inr (.inr (.inr (.inr (.inr trivial))))⟩,
    runs_scene _ _ rfl, rfl, trivial⟩
/-- The hypotheses of Obligations.PriorityCeiling: a value above the ceiling, and one at it. -/
theorem witness_PriorityCeiling :
    AllOf (fun i => ∃ o, i = .sset o ∧ o.sel = 21 ∧ thread? (scene [(2, 3)]) (scene [(2, 3)]).agent = some (regPart [(2, 3)]).thr ∧
      agentCtx (scene [(2, 3)]) (scene [(2, 3)]).agent = some 0 ∧ Cells.get? 0 (scene [(2, 3)]).ctxs = some placedContext ∧
      (sregOf (regPart [(2, 3)]).thr o.sa.toNat).full = true ∧ (sregOf (regPart [(2, 3)]).thr o.sa.toNat).poison = false ∧
      placedContext.lr.qos < 4) [.sset ⟨2, false, 21⟩, .sset ⟨3, false, 21⟩] ∧
    placedContext.lr.qos < (sVal (regPart [(2, 3)]).thr 2).toNat % 4 ∧ (sVal (regPart [(2, 3)]).thr 3).toNat % 4 ≤ placedContext.lr.qos := by
  refine ⟨⟨⟨_, rfl, rfl, rfl, rfl, rfl, rfl, rfl, by decide⟩, ⟨_, rfl, rfl, rfl, rfl, rfl, rfl, rfl, by decide⟩⟩, by decide, by decide⟩
/-- The hypotheses of Obligations.MaskBranches, for each clause: some lanes in the mask, none, all, and an empty EM. -/
theorem witness_MaskBranches :
    Runs (sceneOf (regPart []) maskedGroup) 0 (regPart []) maskedGroup ∧ maskedGroup.maskPoison = [] ∧
    (regPart []).em &&& maskVal maskedGroup 1 ≠ 0 ∧ (regPart []).em &&& ~~~maskVal maskedGroup 1 ≠ 0 ∧
    (regPart []).em &&& maskVal maskedGroup 3 = 0 ∧ (regPart []).em &&& ~~~maskVal maskedGroup 0 = 0 ∧
    Runs (sceneOf { regPart [] with em := 0 } maskedGroup) 0 { regPart [] with em := 0 } maskedGroup :=
  ⟨runs_scene _ _ rfl, rfl, by decide, by decide, by decide, by decide, runs_scene _ _ rfl⟩
/-- The hypotheses of Obligations.StepRunsInstruction: the placed word is the agent's next instruction; an operation of the
table, one that comes without IDE, and a new layout of a BAR. -/
theorem witness_StepRunsInstruction :
    (∃ u th w, nextTurn (State.reset.withFetchWord 16 0) = (.turn (.agent (.part 0)), u) ∧ mayIssue u (.part 0) = true ∧
      thread? u (.part 0) = some th ∧ heldWait th.wait = false ∧
      fetchAt u (placeOf u (.part 0)) th.pc = (.instr 2 (.compactMov ⟨0, 0⟩), w)) ∧
    (∃ u, nextTurn { State.reset with inbox := [.event .deviceStart] } = (.turn (.event .deviceStart), u) ∧ encode .deviceStart = none) ∧
    (∃ u t, nextTurn { State.reset with inbox := [.bare (.registerWrite (.vf 0) 0x1000 1)] } =
        (.turn (.bare (.registerWrite (.vf 0) 0x1000 1)), u) ∧ encode (.registerWrite (.vf 0) 0x1000 1) = none ∧
      exec (.registerWrite (.vf 0) 0x1000 1) { u with agent := .none, bare := true } = .next t) ∧
    (∃ u, nextTurn { State.reset with inbox := [.relayout 63 5] } = (.turn (.relayout 63 5), u)) ∧
    ((State.reset.withFetchWord 16 0).breaches = [] ∧ (State.reset.withFetchWord 16 0).inbox = .agent (.part 0) :: []) ∧
    State.reset.breaches = [] ∧ State.reset.inbox = [] :=
  ⟨⟨_, placedPart.thr, _, rfl, by decide, rfl, rfl, rfl⟩, ⟨_, rfl, rfl⟩, ⟨_, _, rfl, rfl, rfl⟩, ⟨_, rfl⟩, ⟨rfl, rfl⟩, rfl, rfl⟩

/-- A scene whose core holds one entry of its context's dictionary: `iadd`, without holes. -/
def dictScene : State :=
  { scene [] with cores := [(0, { Core.zero with tableCtx := some 0, table := ⟨[(0, ⟨0x8000000000000003, false⟩)], 1, 1⟩ })] }
/-- The hypotheses of Obligations.ReferenceRunsEntry. -/
theorem witness_ReferenceRunsEntry :
    Runs dictScene 0 (regPart []) placedGroup ∧
    let e := Cells.get ⟨0, false⟩ (0 : BitVec 7).toNat
      (refTable dictScene (regPart []) (agentCore dictScene dictScene.agent) ((agentCtx dictScene dictScene.agent).getD 0)).entries
    e.poison = false ∧ e.val.getLsbD 63 = true ∧ decode32 (fillEntry e.val 0 0) = .ok (.iadd ⟨0, 0, 0, 0, false, false⟩) :=
  ⟨⟨rfl, rfl, rfl⟩, rfl, by decide, rfl⟩
/-- A part whose dfence came after the last dload of its core. -/
theorem witness_ReferenceRunsEntry_fenced :
    let s : State := { dictScene with cores := [(0, { Core.zero with tableCtx := some 0, olds := [(4, DictTable.empty)] })] }
    ∀ q ∈ (coreOf s 0).olds, q.1 < ({ regPart [] with fenced := 5 } : Part).fenced := by decide
/-- R57: before its dfence the part may still be decoded against the table that a dload has replaced. -/
theorem test_stale_tables :
    let s : State := { dictScene with cores := [(0, { Core.zero with tableCtx := some 0, olds := [(4, DictTable.empty)] })] }
    (staleTables s { regPart [] with fenced := 4 } 0 0).length = 1 ∧ staleTables s { regPart [] with fenced := 5 } 0 0 = [] := by
  decide
/-- Where the placed part executes, and the same on die 1. -/
def placedPlace : Place := placeOf base (.part 0)
set_option maxRecDepth 40000 in
/-- The hypotheses of Obligations.FetchDecodes: a line in the instruction cache, in home memory, first read there by another die, in
another die's copy, sound and poisoned; a halfword and a word. -/
theorem witness_FetchDecodes :
    (∃ l, codeLine? (setCore 0 (fun c => { c with l1i := [⟨0, 32, 0, [(0, 3)]⟩] }) base) placedPlace 0x1000 = some l) ∧
    (∀ d ∈ ([0, 1] : List Nat), codeLine? base { placedPlace with die := d } 0x1000 = none ∧
      ∃ u pa b z w, translate base { placedPlace with die := d } .fetch (0x1000 : DWord).toNat 2 = .phys u pa b z w ∧ pa % 2 = 0 ∧
        poisonedAt base (pa / 32 * 32) 32 = none ∧
        (physDie pa = d ∨ base.copies.find? (fun c => c.die == d && c.line == pa / 128 && c.part == 0) = none)) ∧
    (∀ m ∈ ([[], [0]] : List (List Nat)),
      let s : State := { base with copies := [⟨1, 0, 0, ⟨[], m⟩⟩] }
      ∃ u pa b z w c, codeLine? s { placedPlace with die := 1 } 0x1000 = none ∧
        translate s { placedPlace with die := 1 } .fetch (0x1000 : DWord).toNat 2 = .phys u pa b z w ∧ pa % 2 = 0 ∧ physDie pa ≠ 1 ∧
        s.copies.find? (fun c => c.die == 1 && c.line == pa / 128 && c.part == 0) = some c ∧ c.data.marked (pa % 128) 2 = !m.isEmpty) ∧
    (∃ h t, fetchHalf base placedPlace 0x1000 = (.ok h, t) ∧ h.getLsbD 0 = false ∧ decode16 h = .ok (.compactMov ⟨0, 0⟩)) ∧
    ∃ h t k v, fetchHalf (State.reset.withFetchWord 32 3) placedPlace 0x1000 = (.ok h, t) ∧ h.getLsbD 0 = true ∧
      fetchHalf t placedPlace (pc56 (0x1000 + 2)) = (.ok k, v) ∧ decode32 (k ++ h) = .ok (.iadd ⟨0, 0, 0, 0, false, false⟩) :=
  ⟨⟨_, rfl⟩, fun d h => by
      simp only [List.mem_cons, List.not_mem_nil, or_false] at h
      obtain rfl | rfl := h <;> exact ⟨rfl, _, _, _, _, _, rfl, rfl, rfl, by decide⟩,
    fun m h => by
      simp only [List.mem_cons, List.not_mem_nil, or_false] at h
      obtain rfl | rfl := h <;> exact ⟨_, _, _, _, _, _, rfl, rfl, rfl, by decide, rfl, rfl⟩,
    ⟨_, _, rfl, rfl, rfl⟩, _, _, _, _, rfl, rfl, rfl, rfl⟩
/-- The hypotheses of Obligations.DecodeEncode, for a halfword and a word, each way. -/
theorem witness_DecodeEncode :
    (decode16 0xFFC0 = .ok (.compactMov ⟨31, 31⟩) ∧ decode32 0x0061140B = .ok (.imad ⟨0, 10, 2, 3, false, false, false⟩)) ∧
    (Instr.wf (.compactMov ⟨31, 31⟩) = true ∧ encode (.compactMov ⟨31, 31⟩) = some (.half 0xFFC0)) ∧
    (Instr.wf (.imad ⟨0, 10, 2, 3, false, false, false⟩) = true ∧
      encode (.imad ⟨0, 10, 2, 3, false, false, false⟩) = some (.word 0x0061140B)) := ⟨⟨rfl, rfl⟩, by decide⟩
/-- The hypotheses of Obligations.StepKeepsMemoryForm: the placed word is executed by the next step. -/
theorem witness_StepKeepsMemoryForm :
    (State.reset.withFetchWord 16 0x1234).memWf ∧ ∃ t, step (State.reset.withFetchWord 16 0) = .next t := by
  refine ⟨⟨rfl, rfl, ?_⟩, _, rfl⟩
  intro p hp
  cases hp with
  | head => rfl
  | tail _ h => cases h
/-- The hypothesis of Obligations.RetireFrame. -/
theorem witness_RetireFrame : Cells.get? 0 base.parts = some placedPart := rfl
/-- The state after an instruction. -/
def after (i : Instr) (s : State) : State :=
  match exec i s with
  | .next t => t
  | _ => s
/-- The quiet forms of a part, and of an agent. -/
def quietForm (s : State) (pid : Nat) (p : Part) (g : Group) (i : Instr) : Option PartForm :=
  bridgeForm s pid p g i <|> systemForm s pid p g i <|> controlForm s pid p g i
/-- The quiet forms of an agent. -/
def quietAgent (s : State) (th : Thread) (i : Instr) : Option AgentForm := specialForm s th i <|> branchForm s th i <|> chitForm s th i
/-- The hypotheses of Obligations.QuietForms: each family, a call that spills nothing and a return in the window; loads at the first
and the last words of the data page, which find no translation outside the pool. -/
theorem witness_QuietForms :
    AllOf (SceneWitness quietForm []) [.emget ⟨1⟩, .dfence, .bk ⟨0, 8⟩, .call ⟨0, 8⟩] ∧
    noSpill (scene []) (regPart []) placedGroup ((⟨0, 8⟩ : OpCall).frame.toNat * 8) ∧
    (PartWitness quietForm (sceneOf (windowPart [⟨0x1000, 0⟩] 0x100 0) placedGroup) (windowPart [⟨0x1000, 0⟩] 0x100 0) placedGroup .ret ∧
      (windowPart [⟨0x1000, 0⟩] 0x100 0).wstack ≠ []) ∧
    AllOf (AgentWitness quietAgent []) [.sget ⟨1, 0⟩, .yield, .chset ⟨2, false⟩] ∧
    AllOf (AgentWitness uniMemForm []) [.sld64 ⟨1, 2, false, 511⟩, .sld32 ⟨1, 2, false, 0⟩, .slda ⟨1, 2, false, 0⟩] ∧
    AllOf (SceneWitness memoryForm []) [.ld ⟨0, 4, 2, false, false, 2, 1, 0⟩, .lda ⟨0, 4, 2, false, false, 3, 2, 0⟩] ∧
    SceneWitness boxAccessForm [(0, 1)] (.bld ⟨0, 4, 2, false, false, 4, 0, 0⟩) ∧ InFrame (scene []) 4096 ∧ InFrame (scene []) 8191 := by
  refine ⟨⟨?_, ?_, ?_, ?_⟩, rfl, ⟨?_, by decide⟩, ⟨?_, ?_, ?_⟩, ⟨?_, ?_, ?_⟩, ⟨?_, ?_⟩, ?_, ⟨(4096, ⟨4096, 0, false⟩), .tail _ (.head _), by decide⟩,
    ⟨(4096, ⟨4096, 0, false⟩), .tail _ (.head _), by decide⟩⟩ <;>
    (first
      | exact scene_of _ rfl (by decide)
      | exact agent_of _ rfl (by decide)
      | exact witness_of _ rfl (runs_scene _ _ rfl) (by decide) ⟨[], rfl⟩ rfl rfl)
/-- The premise on translations outside the pool holds of those loads. -/
theorem witness_QuietForms_inside :
    (after (.sld64 ⟨1, 2, false, 511⟩) (scene [])).breaches = (scene []).breaches ∧
    (after (.ld ⟨0, 4, 2, false, false, 2, 1, 0⟩) (scene [])).breaches = (scene []).breaches := by decide +kernel
/-- A form that faults in a scene whose part has given registers and whose pages are given. -/
def faultScene (rs : List (Nat × DWord)) (ps : Cells Page) : State := setPar 0 (fun t => { t with pages := ps }) (scene rs)
/-- Its faulting forms. -/
def faulting (s : State) (_ : Nat) (p : Part) (g : Group) (i : Instr) : Option PartForm := faultForm s p g i
/-- Obligations.FaultsPerformNothing: lanes whose address lies beyond the address space, pages that are not mapped, and a stale handle;
misaligned uniform accesses. -/
theorem witness_FaultsPerformNothing :
    AllOf (SceneWitness faulting []) [.ld ⟨0, 4, 2, false, false, 2, 1, 15⟩, .lda ⟨0, 4, 2, false, false, 2, 2, 15⟩,
      .st ⟨0, 4, 2, false, false, 2, 1, 15⟩, .stl ⟨0, 4, 2, false, false, 2, 2, 15⟩, .bld ⟨0, 4, 2, false, false, 2, 0, 0⟩,
      .bst ⟨0, 4, 2, false, false, 2, 1, 0⟩, .batom ⟨0, 4, 2, false, false, 0, 0⟩] ∧
    AllOf (PartWitness faulting (faultScene [] []) (regPart []) placedGroup)
      [.st ⟨0, 4, 2, false, false, 2, 1, 0⟩, .atom ⟨0, 4, 2, false, false, 2, 2, 0⟩] ∧
    AllOf (AgentWitness uniFaultForm [(2, 4)]) [.sld64 ⟨1, 2, false, 0⟩, .slda ⟨1, 2, false, 0⟩, .sst64 ⟨1, 2, false, 0⟩, .sstl ⟨1, 2, false, 0⟩] ∧
    AllOf (AgentWitness uniFaultForm [(2, 2)]) [.sld32 ⟨1, 2, false, 0⟩, .sst32 ⟨1, 2, false, 0⟩] ∧
    AllOf (SeqWitness uniFaultForm [(2, 4)]) [.sld64 ⟨1, 2, false, 0⟩, .sst64 ⟨1, 2, false, 0⟩] := by
  refine ⟨⟨?_, ?_, ?_, ?_, ?_, ?_, ?_⟩, ⟨?_, ?_⟩, ⟨?_, ?_, ?_, ?_⟩, ⟨?_, ?_⟩, ?_, ?_⟩ <;>
    (first
      | exact scene_of _ rfl (by decide)
      | exact agent_of _ rfl (by decide)
      | exact seq_of _ rfl (by decide)
      | exact witness_of _ rfl ⟨rfl, rfl, rfl⟩ (by decide) ⟨[], rfl⟩ rfl rfl)
/-- The group whose lane 63 of v2 is poisoned. -/
def spoiltGroup : Group := { placedGroup with lanes := [(2 * 64 + 63, ⟨0, true, true⟩)] }
/-- The other hypotheses of Obligations.FaultsPerformNothing: an empty lane of a field with wait bit 1, a poisoned lane among full
registers, and a part with three frames and a handler. -/
theorem witness_FaultsPerformNothing_registers :
    (Runs (sceneOf (regPart []) loadingGroup) 0 (regPart []) loadingGroup ∧
      accessFields (.ld ⟨0, 4, 2, true, false, 2, 0, 0⟩) = some (0, [([2, 3], true)]) ∧ 0 ∈ actives (regPart []) loadingGroup 0 ∧
      (laneWord loadingGroup 0 2 0).full = false) ∧
    (Runs (sceneOf (regPart []) spoiltGroup) 0 (regPart []) spoiltGroup ∧
      accessFields (.bld ⟨0, 4, 2, false, false, 2, 0, 0⟩) = some (0, [([2], false)]) ∧
      (∀ l ∈ actives (regPart []) spoiltGroup 0, (laneWord spoiltGroup 0 2 l).full = true) ∧
      accessBox (.bld ⟨0, 4, 2, false, false, 2, 0, 0⟩) = some 0 ∧ (sregOf (regPart []).thr 0).full = true ∧
      63 ∈ actives (regPart []) spoiltGroup 0 ∧ (laneWord spoiltGroup 0 2 63).poison = true) ∧
    (Trap.plain 0x06 0).cause ≠ 0x0F ∧ (trapPart 3).tstack.length < 4 := by
  refine ⟨⟨runs_scene _ _ rfl, rfl, by decide, by decide⟩, ⟨runs_scene _ _ rfl, rfl, by decide, by decide, by decide, by decide,
    by decide⟩, by decide, by decide⟩
/-- The scene of a deterministic launch whose first kilobyte of the data page is ordered, its team writing through or not. -/
def orderedScene (through : Bool) : State :=
  setTeam 0 (fun t => { t with through := through })
    (setCtx 0 (fun k => { k with lr := { k.lr with det := true }, ordered := [(0, 1024)] }) (scene []))
/-- Stores of an agent have room where no lower team is left to be applied, whatever a staged store takes. -/
theorem room_of {s : State} {a : Agent} (pl : Place) (addrs : List Nat)
    (h : ∀ x, agentTeam s a = some x → lowerApplied s x.2 = true) : ∃ u, stagingRoom s a pl addrs = some u := by
  unfold stagingRoom
  split
  · exact ⟨_, rfl⟩
  · next tid t e =>
    simp only [h _ e, if_true]
    split <;> first | exact ⟨_, rfl⟩ | (split <;> exact ⟨_, rfl⟩)
/-- What the lanes of the scene's part reach with a store. -/
def storeHits (s : State) (o : OpM) : List LaneHit × State :=
  laneHits s (regPart []) placedGroup o.pk o.va (o.x.toInt * (2 ^ o.size.toNat : Nat)) .write .none (2 ^ o.size.toNat)
/-- A lane store that completes, with room for what it stages. -/
def LaneStores (s : State) (o : OpM) (i : Instr) : Prop :=
  (i = .st o ∨ i = .stl o) ∧ PartWitness memoryForm s (regPart []) placedGroup i ∧
  ∃ u, stagingRoom (storeHits s o).2 s.agent (placeOf s s.agent) ((storeHits s o).1.map LaneHit.addr) = some u
/-- Its proof from the checks of its lanes. -/
theorem store_of {s : State} {o : OpM} {i : Instr} (hi : i = .st o ∨ i = .stl o) (r : Runs s 0 (regPart []) placedGroup)
    (low : ∀ x, agentTeam (storeHits s o).2 s.agent = some x → lowerApplied (storeHits s o).2 x.2 = true)
    (ok : roomFor s s.agent false true = true ∧ laneTrap true true (storeHits s o).1 = none) : LaneStores s o i := by
  obtain ⟨u, hu⟩ := room_of (placeOf s s.agent) ((storeHits s o).1.map LaneHit.addr) low
  have f : ∀ scope, ∃ F, laneStoreForm s (regPart []) placedGroup o scope = some F ∧ F.ok := by
    intro scope
    simp only [laneStoreForm]
    split
    · next e => exact absurd (hu.symm.trans e) (by simp)
    · exact ⟨_, rfl, ok⟩
  refine ⟨hi, ?_, u, hu⟩
  obtain rfl | rfl := hi
  · obtain ⟨F, h, y⟩ := f none
    exact witness_of F h r y ⟨[], rfl⟩ rfl rfl
  · obtain ⟨F, h, y⟩ := f (some (o.kr.toNat + 1))
    exact witness_of F h r y ⟨[], rfl⟩ rfl rfl
/-- The hypotheses of Obligations.StoresAreQueued for lanes: plain and strict stores at once, in an ordered range with staging and with a
team that writes through. -/
theorem witness_StoresAreQueued :
    LaneStores (scene []) ⟨0, 4, 2, false, false, 2, 0, 0⟩ (.st ⟨0, 4, 2, false, false, 2, 0, 0⟩) ∧
    LaneStores (scene []) ⟨0, 4, 2, false, false, 3, 2, 0⟩ (.stl ⟨0, 4, 2, false, false, 3, 2, 0⟩) ∧
    LaneStores (orderedScene false) ⟨0, 4, 2, false, false, 2, 0, 0⟩ (.st ⟨0, 4, 2, false, false, 2, 0, 0⟩) ∧
    LaneStores (orderedScene true) ⟨0, 4, 2, false, false, 2, 2, 0⟩ (.stl ⟨0, 4, 2, false, false, 2, 2, 0⟩) ∧
    (∀ h ∈ (storeHits (orderedScene false) ⟨0, 4, 2, false, false, 2, 0, 0⟩).1,
      (stagingTeam (storeHits (orderedScene false) ⟨0, 4, 2, false, false, 2, 0, 0⟩).2 (.part 0) 0 h.addr).isSome = true) ∧
    (∀ h ∈ (storeHits (scene []) ⟨0, 4, 2, false, false, 2, 0, 0⟩).1,
      stagingTeam (storeHits (scene []) ⟨0, 4, 2, false, false, 2, 0, 0⟩).2 (.part 0) 0 h.addr = none) ∧
    (after (.st ⟨0, 4, 2, false, false, 2, 0, 0⟩) (scene [])).breaches = (scene []).breaches ∧
    (after (.stl ⟨0, 4, 2, false, false, 2, 2, 0⟩) (orderedScene true)).breaches = (orderedScene true).breaches := by
  refine ⟨store_of (.inl rfl) ⟨rfl, rfl, rfl⟩ (by decide) (by decide), store_of (.inr rfl) ⟨rfl, rfl, rfl⟩ (by decide) (by decide),
    store_of (.inl rfl) ⟨rfl, rfl, rfl⟩ (by decide) (by decide), store_of (.inr rfl) ⟨rfl, rfl, rfl⟩ (by decide) (by decide),
    by decide, by decide, by decide +kernel, by decide +kernel⟩
/-- The other hypotheses of Obligations.StoresAreQueued: an agent's stores at the ends of the data page, on a slot that is reserved and on
the last byte of an ordered range; a store to a box. -/
theorem witness_StoresAreQueued_agents :
    (AllOf (AgentWitness uniMemForm []) [.sst64 ⟨1, 2, false, 511⟩, .sst32 ⟨1, 2, false, 0⟩, .sstl ⟨1, 2, false, 0⟩] ∧
      stagingTeam (scene []) (scene []).agent 0 4088 = none ∧ seqAt (scene []) 0 4088 = none ∧
      ∃ u, stagingRoom (scene []) (scene []).agent (placeOf (scene []) (scene []).agent) [4088] = some u) ∧
    (∃ F, uniMemForm (sqScene [oneSq] [(2, 0x10020)]) (regPart [(2, 0x10020)]).thr (.sst64 ⟨1, 2, false, 0⟩) = some F ∧ F.ok ∧
      seqAt (sqScene [oneSq] [(2, 0x10020)]) 0 0x10020 = some (oneSq, 2) ∧
      (after (.sst64 ⟨1, 2, false, 0⟩) (sqScene [oneSq] [(2, 0x10020)])).breaches = []) ∧
    (∃ F, uniMemForm (orderedScene true) (regPart []).thr (.sst64 ⟨1, 2, false, 127⟩) = some F ∧ F.ok ∧
      (stagingTeam (orderedScene true) (.part 0) 0 1016).isSome = true ∧
      (after (.sst64 ⟨1, 2, false, 127⟩) (orderedScene true)).breaches = []) ∧
    SceneWitness boxAccessForm [(0, 1)] (.bst ⟨0, 4, 2, false, false, 2, 0, 0⟩) ∧
    heldBox (scene [(0, 1)]) 0 placedGroup (sVal (regPart [(0, 1)]).thr (boxReg 0)) = some (0, heldOne) :=
  ⟨⟨⟨agent_of _ rfl (by decide), agent_of _ rfl (by decide), agent_of _ rfl (by decide)⟩, rfl, rfl, _, rfl⟩,
    ⟨_, rfl, by decide, rfl, by decide +kernel⟩, ⟨_, rfl, by decide, rfl, by decide +kernel⟩, scene_of _ rfl (by decide), rfl⟩
/-- A state with a store at the end of the data frame, and one at a peer. -/
def storeState : State :=
  { scene [] with stores :=
      [{ ticket := 1, who := .part 0, core := 0, ctx := 0, instr := 0, peer := false, addr := 8188, data := [1, 2, 3, 4], whole := false },
       { ticket := 2, who := .part 0, core := 0, ctx := 0, instr := 1, peer := true, addr := 0, data := [1], whole := false }] }
/-- The hypotheses of Obligations.StoreWritesItsBytes. -/
theorem witness_StoreWritesItsBytes :
    (∃ q, (storeState.stores.find? fun x => x.ticket == 1) = some q ∧ storeFirst storeState q = true ∧ q.peer = false) ∧
    (∃ q, (storeState.stores.find? fun x => x.ticket == 2) = some q ∧ storeFirst storeState q = true ∧ q.peer = true) :=
  ⟨⟨_, rfl, by decide, rfl⟩, ⟨_, rfl, by decide, rfl⟩⟩
/-- The scene with a poisoned sector at the start of the data page. -/
def spoiltScene : State := { scene [] with poison := [4096] }
/-- The hypothesis of Obligations.ResidentPageReached: the first and the last word of the data page, read and written; poison is met and
not met. -/
theorem witness_ResidentPageReached :
    Mapped (scene []) (placeOf (scene []) (.part 0)) .read 4092 4 8188 0 dataPage ∧
    Mapped (scene []) (placeOf (scene []) (.part 0)) .write 0 4 4096 0 dataPage ∧
    Mapped spoiltScene (placeOf spoiltScene (.part 0)) .read 4092 4 8188 0 dataPage ∧
    Mapped spoiltScene (placeOf spoiltScene (.part 0)) .read 0 4 4096 0 dataPage ∧
    poisonMet spoiltScene (placeOf spoiltScene (.part 0)) .home 4092 8188 4 = false ∧
    poisonMet spoiltScene (placeOf spoiltScene (.part 0)) .home 0 4096 4 = true := by
  refine ⟨?_, ?_, ?_, ?_, by decide, by decide⟩ <;>
    exact ⟨rfl, .inl (by decide), ⟨_, rfl, rfl⟩, by decide, by decide, by decide, by decide, ⟨_, rfl, by decide, rfl⟩⟩
/-! ### Causes -/

/-- The first check fails. -/
theorem first_here {P : Prop} {r : Trap × State} {cs : List Check} (h : P) : FirstFails ((P, r) :: cs) (P, r) :=
  ⟨[], cs, rfl, by simp, h⟩
/-- The first check passes, and a later one is the first that fails. -/
theorem first_later {P : Prop} {r : Trap × State} {cs : List Check} {c : Check} (h : ¬ P) (f : FirstFails cs c) :
    FirstFails ((P, r) :: cs) c := by
  obtain ⟨pre, post, rfl, a, b⟩ := f
  exact ⟨(P, r) :: pre, post, rfl, List.forall_mem_cons.2 ⟨h, a⟩, b⟩
/-- An instruction of a part whose first check that fails raises a cause with its detail. -/
def CauseWitness (s : State) (p : Part) (g : Group) (i : Instr) (cause detail : BitVec 8) : Prop :=
  ∃ F c, Runs s 0 p g ∧ causeForm s 0 p g i = some F ∧ CauseReady F p g ∧ FirstFails F.checks c ∧
    c.2.1.cause = cause ∧ c.2.1.detail = detail
/-- Its proof, for a part and a group that keep the placed ones' registers. -/
theorem cause_of {s : State} {p : Part} {g : Group} {i : Instr} {n m : BitVec 8} {F : CauseForm} {c : Check}
    (h : causeForm s 0 p g i = some F) (r : Runs s 0 p g) (hr : ∃ rs, p.thr.sregs = (regPart rs).thr.sregs) (hl : g.lanes = [])
    (f : FirstFails F.checks c) (hc : c.2.1.cause = n ∧ c.2.1.detail = m) : CauseWitness s p g i n m := by
  obtain ⟨rs, hr⟩ := hr
  have hp : ∀ k, (sregOf p.thr k).full = true ∧ (sregOf p.thr k).poison = false := fun k => by
    have := sregOf_regPart rs k; simp only [sregOf, hr] at this ⊢; exact this
  have hw : ∀ n l, laneWord g p.wb n l = LaneWord.zero := fun n l => by simp [laneWord, hl, Cells.get, Cells.get?]
  exact ⟨F, c, r, h, ⟨fun n _ l _ => by rw [hw]; exact ⟨rfl, rfl⟩, fun _ _ => hp _, fun _ _ => (hp _).1⟩, f, hc⟩
/-- The same in the scene with given registers. -/
theorem scene_cause {rs : List (Nat × DWord)} {i : Instr} {n m : BitVec 8} {F : CauseForm} {c : Check}
    (h : causeForm (scene rs) 0 (regPart rs) placedGroup i = some F) (f : FirstFails F.checks c)
    (hc : c.2.1.cause = n ∧ c.2.1.detail = m) : CauseWitness (scene rs) (regPart rs) placedGroup i n m :=
  cause_of h ⟨rfl, rfl, rfl⟩ ⟨_, rfl⟩ rfl f hc
/-- A group with a flag that its AEN names. -/
def flaggedGroup : Group := { placedGroup with afl := 9, aen := 8 }
set_option maxRecDepth 20000 in
/-- Obligations.CausesRaised: targets of calls, the windows of calls and returns, a flag at a `tfence`. -/
theorem witness_CausesRaised :
    CauseWitness (scene [(2, 3)]) (regPart [(2, 3)]) placedGroup (.callr ⟨2, false, 0⟩) 0x06 0x00 ∧
    CauseWitness (scene [(2, 0x100000000000000)]) (regPart [(2, 0x100000000000000)]) placedGroup (.callr ⟨2, false, 0⟩) 0x08 0x01 ∧
    CauseWitness (scene [(2, 0xFFFFFFFFFFFFFE)]) (regPart [(2, 0xFFFFFFFFFFFFFE)]) placedGroup (.callr ⟨2, false, 1⟩) 0x12 0x01 ∧
    CauseWitness (scene []) (regPart []) placedGroup (.call ⟨1, 8⟩) 0x12 0x01 ∧
    CauseWitness (sceneOf (windowPart [] 0x100 0xFFFFFFFF) placedGroup) (windowPart [] 0x100 0xFFFFFFFF) placedGroup (.call ⟨1, 8⟩) 0x12 0x03 ∧
    CauseWitness (scene []) (regPart []) placedGroup .ret 0x12 0x02 ∧
    CauseWitness (sceneOf (regPart []) flaggedGroup) (regPart []) flaggedGroup .tfence 0x0C 0x08 :=
  ⟨scene_cause rfl (first_here (by decide)) ⟨rfl, rfl⟩,
   scene_cause rfl (first_later (by decide) (first_here (by decide))) ⟨rfl, rfl⟩,
   scene_cause rfl (first_later (by decide) (first_later (by decide) (first_here (by decide)))) ⟨rfl, rfl⟩,
   scene_cause rfl (first_here (by decide)) ⟨rfl, rfl⟩,
   cause_of rfl ⟨rfl, rfl, rfl⟩ ⟨[], rfl⟩ rfl (first_later (by decide) (first_here (by decide))) ⟨rfl, rfl⟩,
   scene_cause rfl (first_here (by decide)) ⟨rfl, rfl⟩,
   cause_of rfl ⟨rfl, rfl, rfl⟩ ⟨[], rfl⟩ rfl (first_here (by decide)) ⟨rfl, rfl⟩⟩
set_option maxRecDepth 20000 in
/-- Obligations.CausesRaised: a `dload` with a reserved bit, from a misaligned address, beyond the last entry, and of an entry that names no
instruction. -/
theorem witness_CausesRaised_dload :
    CauseWitness (scene [(2, 0), (3, 0x180)]) (regPart [(2, 0), (3, 0x180)]) placedGroup (.dload ⟨2, 3, false, false⟩) 0x03 0xFF ∧
    CauseWitness (scene [(2, 4), (3, 0x100)]) (regPart [(2, 4), (3, 0x100)]) placedGroup (.dload ⟨2, 3, false, false⟩) 0x06 0x00 ∧
    CauseWitness (scene [(2, 0), (3, 0x27F)]) (regPart [(2, 0), (3, 0x27F)]) placedGroup (.dload ⟨2, 3, false, false⟩) 0x03 0xFF ∧
    CauseWitness { scene [(2, 0), (3, 0x205)] with mem := [(4111, 0x80)] } (regPart [(2, 0), (3, 0x205)]) placedGroup
      (.dload ⟨2, 3, false, false⟩) 0x03 0x06 :=
  ⟨scene_cause rfl (first_here (by decide)) ⟨rfl, rfl⟩,
   scene_cause rfl (first_later (by decide) (first_here (by decide))) ⟨rfl, rfl⟩,
   scene_cause rfl (first_later (by decide) (first_later (by decide) (first_here (by decide)))) ⟨rfl, rfl⟩,
   cause_of rfl ⟨rfl, rfl, rfl⟩ ⟨_, rfl⟩ rfl (first_later (by decide) (first_later (by decide) (first_later (by decide)
     (first_later (by decide) (first_here (by decide)))))) ⟨rfl, rfl⟩⟩
/-- A box that is held is not as said. -/
theorem not_held {s : State} {p : Part} {g : Group} {h : DWord} {f : Nat → Box → Prop} {u : Nat} {b : Box}
    (e : heldBox s p.gid g h = some (u, b)) (n : ¬ f u b) : ¬ heldWith s p g h f := by
  rintro ⟨v, c, e', y⟩
  cases e.symm.trans e'
  exact n y
/-- The scene with its box as said. -/
def boxScene (b : Box) (rs : List (Nat × DWord)) : State := setCluster 0 (fun u => { u with boxes := [(0, b)] }) (scene rs)
set_option maxRecDepth 20000 in
/-- Obligations.CausesRaised: sizes of a new box, a stale handle, a box without a second copy, a box that is lent, targets that the cluster
has not, a chit outside the team's range. -/
theorem witness_CausesRaised_boxes :
    CauseWitness (scene [(2, 0)]) (regPart [(2, 0)]) placedGroup (.bxnew ⟨1, 2, false⟩) 0x09 0x05 ∧
    CauseWitness (scene [(2, 1052672)]) (regPart [(2, 1052672)]) placedGroup (.bxnew ⟨1, 2, true⟩) 0x09 0x05 ∧
    CauseWitness (scene [(2, 0x101)]) (regPart [(2, 0x101)]) placedGroup (.bxfree ⟨2⟩) 0x09 0x01 ∧
    CauseWitness (scene [(2, 0)]) (regPart [(2, 0)]) placedGroup (.bxrecall ⟨2⟩) 0x09 0x01 ∧
    CauseWitness (boxScene { heldOne with escrow := false } [(2, 1)]) (regPart [(2, 1)]) placedGroup (.settle ⟨2⟩) 0x09 0x06 ∧
    CauseWitness (scene [(2, 1), (3, 0x100)]) (regPart [(2, 1), (3, 0x100)]) placedGroup (.bxgive ⟨2, 3⟩) 0x09 0x07 ∧
    CauseWitness (boxScene { heldOne with lends := [⟨0, 0, 0, false⟩] } [(2, 1)]) (regPart [(2, 1)]) placedGroup (.bxgive ⟨2, 3⟩) 0x09 0x03 ∧
    CauseWitness (scene [(2, 1), (3, 64)]) (regPart [(2, 1), (3, 64)]) placedGroup (.bxlend ⟨2, 3, 0⟩) 0x09 0x07 ∧
    CauseWitness (boxScene { heldOne with lends := [⟨0, 0, 0, false⟩] } [(2, 1)]) (regPart [(2, 1)]) placedGroup (.bxlend ⟨2, 3, 0⟩) 0x09 0x08 ∧
    CauseWitness (scene [(2, 1)]) (regPart [(2, 1)]) placedGroup (.bxlend ⟨2, 3, 1⟩) 0x09 0x09 :=
  ⟨scene_cause rfl (first_here (by decide)) ⟨rfl, rfl⟩,
   scene_cause rfl (first_here (by decide)) ⟨rfl, rfl⟩,
   scene_cause rfl (first_here (by decide)) ⟨rfl, rfl⟩,
   scene_cause rfl (first_here (by decide)) ⟨rfl, rfl⟩,
   cause_of rfl ⟨rfl, rfl, rfl⟩ ⟨_, rfl⟩ rfl (first_later (by decide) (first_here ⟨_, _, rfl, by decide⟩)) ⟨rfl, rfl⟩,
   scene_cause rfl (first_later (by decide) (first_here ⟨_, _, rfl, .inl (by decide)⟩)) ⟨rfl, rfl⟩,
   cause_of rfl ⟨rfl, rfl, rfl⟩ ⟨_, rfl⟩ rfl (first_later (by decide) (first_later (not_held rfl (by
     rintro (h | h)
     · exact absurd h (by decide)
     · exact h _ (.head _) _ rfl ⟨rfl, rfl, rfl⟩)) (first_here ⟨_, _, rfl, by decide⟩))) ⟨rfl, rfl⟩,
   scene_cause rfl (first_later (by decide) (first_here ⟨_, _, rfl, by decide⟩)) ⟨rfl, rfl⟩,
   cause_of rfl ⟨rfl, rfl, rfl⟩ ⟨_, rfl⟩ rfl (first_later (by decide) (first_later (not_held rfl (by decide))
     (first_here ⟨_, _, rfl, _, .head _, rfl⟩))) ⟨rfl, rfl⟩,
   scene_cause rfl (first_later (by decide) (first_later (not_held rfl (by decide)) (first_later (not_held rfl (by
     rintro ⟨l, h, -⟩; cases h)) (first_here ⟨_, _, rfl, _, rfl, by decide⟩)))) ⟨rfl, rfl⟩⟩
/-- A command's cause in the command scene. -/
theorem cmd_cause {rs : List (Nat × DWord)} {i : Instr} {n m : BitVec 8} {F : CauseForm} {c : Check}
    (h : causeForm (cmdScene rs) 0 (regPart rs) placedGroup i = some F) (f : FirstFails F.checks c)
    (hc : c.2.1.cause = n ∧ c.2.1.detail = m) : CauseWitness (cmdScene rs) (regPart rs) placedGroup i n m :=
  cause_of h ⟨rfl, rfl, rfl⟩ ⟨_, rfl⟩ rfl f hc
set_option maxRecDepth 20000 in
/-- Obligations.CausesRaised: commands with a misaligned descriptor, base or buffer, with a value out of range, with a queue that the context
does not own, with a stale handle, with a tile that leaves its box, and with a chit outside the team's range. -/
theorem witness_CausesRaised_commands :
    CauseWitness (cmdScene [(2, 64)]) (regPart [(2, 64)]) placedGroup (.cpy ⟨2, 0, true⟩) 0x06 0x00 ∧
    CauseWitness (cmdScene [(2, 128)]) (regPart [(2, 128)]) placedGroup (.cpy ⟨2, 0, true⟩) 0x13 0x06 ∧
    CauseWitness (cmdScene [(2, 1), (4, 1), (5, 0x800)]) (regPart [(2, 1), (4, 1), (5, 0x800)]) placedGroup (.cpyx ⟨6, 2, 4, 0, true⟩) 0x13 0x06 ∧
    CauseWitness (cmdScene [(2, 1), (4, 64), (5, 1)]) (regPart [(2, 1), (4, 64), (5, 1)]) placedGroup (.cpyx ⟨6, 2, 4, 0, true⟩) 0x06 0x00 ∧
    CauseWitness (cmdScene [(3, 0x4000200)]) (regPart [(3, 0x4000200)]) placedGroup (.xred ⟨2, 3, 1, true⟩) 0x13 0x07 ∧
    CauseWitness (cmdScene [(3, 128)]) (regPart [(3, 128)]) placedGroup (.cpyq ⟨2, 3, 0, true⟩) 0x13 0x06 ∧
    CauseWitness (cmdScene [(3, 2)]) (regPart [(3, 2)]) placedGroup (.cpyq ⟨2, 3, 0, true⟩) 0x13 0x05 ∧
    CauseWitness (cmdScene [(3, 0)]) (regPart [(3, 0)]) placedGroup (.xsend ⟨2, 3, 0, true⟩) 0x13 0x06 ∧
    CauseWitness (cmdScene [(3, 0x1000000800000)]) (regPart [(3, 0x1000000800000)]) placedGroup (.xrecv ⟨2, 3, 0, true⟩) 0x13 0x06 ∧
    CauseWitness (cmdScene [(3, 0)]) (regPart [(3, 0)]) placedGroup (.xred ⟨2, 3, 0, true⟩) 0x13 0x06 ∧
    CauseWitness (cmdScene [(2, 127), (3, 0x4000200)]) (regPart [(2, 127), (3, 0x4000200)]) placedGroup (.xred ⟨2, 3, 0, true⟩) 0x06 0x00 ∧
    CauseWitness (cmdScene [(2, 0x200000000001), (3, 0x101)]) (regPart [(2, 0x200000000001), (3, 0x101)]) placedGroup (.menc ⟨4, 2, 3, 0, false⟩)
      0x09 0x01 ∧
    CauseWitness (cmdScene [(2, 1), (3, 0x1000000000001)]) (regPart [(2, 1), (3, 0x1000000000001)]) placedGroup (.mdec ⟨2, 3, 0, false⟩)
      0x09 0x02 :=
  ⟨cmd_cause rfl (first_here (by decide)) ⟨rfl, rfl⟩,
   cmd_cause rfl (first_later (by decide) (first_here fun h => absurd (h.used 0 (by decide)) (by decide))) ⟨rfl, rfl⟩,
   cmd_cause rfl (first_here (by decide)) ⟨rfl, rfl⟩,
   cmd_cause rfl (first_later (by decide) (first_here (by decide))) ⟨rfl, rfl⟩,
   cmd_cause rfl (first_later (by decide) (first_later (by decide) (first_here fun h => absurd (h rfl _ rfl) (by decide)))) ⟨rfl, rfl⟩,
   cmd_cause rfl (first_here (by decide)) ⟨rfl, rfl⟩,
   cmd_cause rfl (first_later (by decide) (first_here (by decide))) ⟨rfl, rfl⟩,
   cmd_cause rfl (first_here (by decide)) ⟨rfl, rfl⟩,
   cmd_cause rfl (first_here (by decide)) ⟨rfl, rfl⟩,
   cmd_cause rfl (first_here (by decide)) ⟨rfl, rfl⟩,
   cmd_cause rfl (first_later (by decide) (first_here (by decide))) ⟨rfl, rfl⟩,
   cmd_cause rfl (first_later (by decide) (first_later (by decide) (first_later (by decide) (first_here (by decide))))) ⟨rfl, rfl⟩,
   cmd_cause rfl (first_later (by decide) (first_later (by decide) (first_later (by decide) (first_later (by decide)
     (first_here ⟨_, _, rfl, by decide⟩))))) ⟨rfl, rfl⟩⟩
/-- A sequence form's cause in a scene of sequences. -/
theorem sq_cause {qs : List Sq} {rs : List (Nat × DWord)} {i : Instr} {n m : BitVec 8} {F : CauseForm} {c : Check}
    (h : causeForm (sqScene qs rs) 0 (regPart rs) placedGroup i = some F) (f : FirstFails F.checks c)
    (hc : c.2.1.cause = n ∧ c.2.1.detail = m) : CauseWitness (sqScene qs rs) (regPart rs) placedGroup i n m :=
  cause_of h ⟨rfl, rfl, rfl⟩ ⟨_, rfl⟩ rfl f hc
/-- The handle of a live sequence that nothing outside has changed passes its checks. -/
theorem handle_passes {s : State} {pid h : Nat} {waits : Bool} {cs : List Check} {c : Check} {q : Sq} (hd : s.dropped = [])
    (e : liveSq s (placeOf s s.agent).part h = some q) (t : q.tampered = false) (f : FirstFails cs c) :
    FirstFails (handleChecks s pid h waits ++ cs) c :=
  first_later (by simp [hd]) (first_later (by simp [e]) (first_later (by rintro ⟨r, e', y⟩; cases e.symm.trans e'; simp [t] at y) f))
/-- A sequence whose descriptor was changed from outside. -/
def tamperedSq : Sq := { oneSq with tampered := true }
set_option maxRecDepth 40000 in
/-- Obligations.CausesRaised: handles that are not live and that were tampered with, a sequence dropped while an instruction waits, numbers
of slots out of range, a commit of slots that are not reserved, an extension beyond the window, a descriptor that is in use or illegal. -/
theorem witness_CausesRaised_sequences :
    AllOf (fun i => CauseWitness (sqScene [] []) (regPart []) placedGroup i 0x0B 0x01) [.sqdrop ⟨2, false⟩, .sqlen ⟨1, 2, false, 0, false⟩,
      .sqwait ⟨1, 2, 3, false, false, 0, false⟩, .sqbind ⟨2, false, 0, false⟩, .sqsum ⟨1, 2, 3, false, false⟩,
      .sqaddr ⟨1, 2, 3, false, false⟩, .sqinfo ⟨1, 2, false, 0⟩] ∧
    CauseWitness (sqScene [tamperedSq] []) (regPart []) placedGroup (.sqdrop ⟨2, false⟩) 0x0B 0x01 ∧
    CauseWitness { sqScene [] [] with dropped := [⟨0, 0⟩] } (regPart []) placedGroup (.sqwait ⟨1, 2, 3, false, false, 0, false⟩) 0x0B 0x06 ∧
    CauseWitness (sqScene [oneSq] [(3, 0)]) (regPart [(3, 0)]) placedGroup (.sqres ⟨1, 2, 3, false, false, true⟩) 0x0B 0x02 ∧
    CauseWitness (sqScene [oneSq] [(3, 65537)]) (regPart [(3, 65537)]) placedGroup (.sqres ⟨1, 2, 3, false, false, true⟩) 0x0B 0x02 ∧
    CauseWitness (sqScene [oneSq] [(3, 3), (4, 2)]) (regPart [(3, 3), (4, 2)]) placedGroup (.sqcom ⟨4, 2, 3, false, false⟩) 0x0B 0x03 ∧
    CauseWitness (sqScene [oneSq] [(3, 257)]) (regPart [(3, 257)]) placedGroup (.sqext ⟨2, 3, false, false⟩) 0x0B 0x05 ∧
    CauseWitness (sqScene [oneSq] []) (regPart []) placedGroup (.sqmint ⟨2, false⟩) 0x0B 0x05 ∧
    CauseWitness (sqScene [] [(2, 63)]) (regPart [(2, 63)]) placedGroup (.sqmint ⟨2, false⟩) 0x0B 0x05 ∧
    CauseWitness (sqScene [] [(2, 128)]) (regPart [(2, 128)]) placedGroup (.sqmint ⟨2, false⟩) 0x0B 0x05 ∧
    CauseWitness (sqScene [oneSq] [(4, 63)]) (regPart [(4, 63)]) placedGroup (.sqfork ⟨4, 2, 3, false, false⟩) 0x0B 0x05 := by
  refine ⟨⟨?_, ?_, ?_, ?_, ?_, ?_, ?_⟩, ?_, ?_, ?_, ?_, ?_, ?_, ?_, ?_, ?_, ?_⟩
  · exact sq_cause rfl (first_later (by decide) (first_here (by decide))) ⟨rfl, rfl⟩
  · exact sq_cause rfl (first_later (by decide) (first_here (by decide))) ⟨rfl, rfl⟩
  · exact sq_cause rfl (first_later (by decide) (first_here (by decide))) ⟨rfl, rfl⟩
  · exact sq_cause rfl (first_later (by decide) (first_here (by decide))) ⟨rfl, rfl⟩
  · exact sq_cause rfl (first_later (by decide) (first_here (by decide))) ⟨rfl, rfl⟩
  · exact sq_cause rfl (first_later (by decide) (first_here (by decide))) ⟨rfl, rfl⟩
  · exact sq_cause rfl (first_later (by decide) (first_here (by decide))) ⟨rfl, rfl⟩
  · exact sq_cause rfl (first_later (by decide) (first_later (by decide) (first_here ⟨_, rfl, rfl⟩))) ⟨rfl, rfl⟩
  · exact cause_of rfl ⟨rfl, rfl, rfl⟩ ⟨[], rfl⟩ rfl (first_here (by decide)) ⟨rfl, rfl⟩
  · exact sq_cause rfl (handle_passes rfl rfl rfl (first_here (by decide))) ⟨rfl, rfl⟩
  · exact sq_cause rfl (handle_passes rfl rfl rfl (first_here (by decide))) ⟨rfl, rfl⟩
  · exact sq_cause rfl (handle_passes rfl rfl rfl (first_here ⟨_, rfl, by decide⟩)) ⟨rfl, rfl⟩
  · exact sq_cause rfl (handle_passes rfl rfl rfl (first_here ⟨_, rfl, by decide⟩)) ⟨rfl, rfl⟩
  · exact sq_cause rfl (first_here (by decide)) ⟨rfl, rfl⟩
  · exact sq_cause rfl (first_here (by decide)) ⟨rfl, rfl⟩
  · exact sq_cause rfl (first_later (by decide) (first_here fun h => absurd h.sizes.1 (by decide))) ⟨rfl, rfl⟩
  · exact sq_cause rfl (handle_passes rfl rfl rfl (first_here (by decide))) ⟨rfl, rfl⟩
/-- A scene whose core's table holds one entry of its context. -/
def entryScene (e : DictEntry) : State :=
  { scene [] with cores := [(0, { Core.zero with tableCtx := some 0, table := ⟨[(0, e)], 1, 1⟩ })] }
set_option maxRecDepth 40000 in
/-- Obligations.CausesRaised: a jump to an odd address; references to a poisoned entry, to an undefined one, and to one that names no
instruction; a fetch from a page that is not mapped, an undefined word. -/
theorem witness_CausesRaised_words :
    (∃ c, thread? (scene [(2, 1)]) (scene [(2, 1)]).agent = some (regPart [(2, 1)]).thr ∧
      FirstFails (targetChecks (scene [(2, 1)]) (sVal (regPart [(2, 1)]).thr 2)) c ∧ c.2.1.cause = 0x06) ∧
    (refEntry (entryScene ⟨0x8000000000000003, true⟩) 0 0).poison = true ∧
    ((refEntry (entryScene ⟨3, false⟩) 0 0).poison = false ∧ (refEntry (entryScene ⟨3, false⟩) 0 0).val.getLsbD 63 = false) ∧
    ((refEntry (entryScene ⟨0x800000000000007F, false⟩) 0 0).val.getLsbD 63 = true ∧
      ∃ er, decode32 (fillEntry (refEntry (entryScene ⟨0x800000000000007F, false⟩) 0 0).val 0 0) = .error er) ∧
    (∃ u n tr w, nextTurn (setPar 0 (fun t => { t with pages := [] }) (State.reset.withFetchWord 16 0)) = (.turn (.agent (.part 0)), u) ∧
      mayIssue u (.part 0) = true ∧ thread? u (.part 0) = some placedPart.thr ∧ heldWait placedPart.thr.wait = false ∧
      fetchAt u (placeOf u (.part 0)) placedPart.thr.pc = (.trap n tr, w)) ∧
    ∃ h t k v er, fetchHalf (State.reset.withFetchWord 32 0x7F) placedPlace 0x1000 = (.ok h, t) ∧ h.getLsbD 0 = true ∧
      fetchHalf t placedPlace (pc56 (0x1000 + 2)) = (.ok k, v) ∧ decode32 (k ++ h) = .error er := by
  refine ⟨⟨_, rfl, first_here (by decide), rfl⟩, rfl, ⟨rfl, by decide⟩, ⟨by decide, _, rfl⟩, ⟨_, _, _, _, rfl, by decide, rfl, rfl, rfl⟩,
    _, _, _, _, _, rfl, by decide, rfl, rfl⟩

/-! ### States in which operations of the host, the operator and the hardware take effect -/

/-- An operation that takes effect in a state. -/
def EventWitness (form : State → Instr → Option EventForm) (s : State) (i : Instr) : Prop := ∃ F, form s i = some F ∧ F.ok
/-- Its proof from the form's own checks. -/
theorem event_of {form : State → Instr → Option EventForm} {s : State} {i : Instr} (F : EventForm) (h : form s i = some F) (ok : F.ok) :
    EventWitness form s i := ⟨F, h, ok⟩
/-- A running partition with two megabytes and one page on the device. -/
def runPar : Partition :=
  { Partition.zero with tdi := .run, ideKeyed := true, quads := [0], pool := 2097152, keyCur := some 0, nonce := some 0
                        pages := [(0, dataPage)], report := some ⟨[0], 2097152, 2000, 0, 0⟩ }
/-- A state with one partition and registers of its function, in a session, and no context. -/
def bare (t : Partition) (f : FnRegs) : State :=
  { State.reset with fwRuns := true, pars := [(0, t)], fns := [(0, f)], spdm := [(0, .session)]
                     frames := [(4096, ⟨4096, 0, false⟩)] }
/-- The same with the placed launch in it. -/
def busy (f : FnRegs) : State :=
  { scene [] with agent := .none, inbox := [], fns := [(0, f)], spdm := [(0, .session)]
                  pars := [(0, { runPar with pages := [(0, dataPage), (0x1000, placedPage)] })] }
/-- Obligations.RegisterWrites: each register at its first and last offset, open; and requests before RUN. -/
theorem witness_RegisterWrites :
    AllOf (EventWitness registerForm (bare { runPar with tdi := .locked } .zero)) [.registerWrite (.vf 0) 0x10 1, .registerWrite (.vf 0) 0x18 1] ∧
    EventWitness registerForm (bare runPar .zero) (.registerWrite (.vf 0) 0x10 1) ∧
    EventWitness registerForm (bare { runPar with tdi := .locked, ideKeyed := false } .zero) (.registerWrite (.vf 0) 0x18 1) ∧
    AllOf (EventWitness registerForm (bare runPar { FnRegs.zero with dlock := 31 })) [.registerWrite (.vf 0) 0x1000 1,
      .registerWrite (.vf 0) 0x1060 1, .registerWrite (.vf 0) 0x2008 1, .registerWrite (.vf 0) 0x2010 1, .registerWrite (.vf 0) 0x2018 1,
      .registerWrite (.vf 0) 0x4000 1, .registerWrite (.vf 0) 0x3010 1, .registerWrite (.vf 0) 0x3030 1, .registerWrite (.vf 0) 0x3028 1,
      .registerWrite (.vf 0) 0x3008 6, .registerWrite .pf 0x10 1, .registerWrite .pf 0x18 1, .registerWrite .pf 0x5008 1,
      .registerWrite .pf 0x5010 1, .registerWrite .pf 0x5018 1, .vfEnable true, .vfEnable false, .lqctlWrite 0 3 0x24, .lqprodWrite 0 0 1,
      .mlctlWrite 0 0x26, .registerWrite (.vf 0) 0x4010 0xFFFFFFFFF0, .registerWrite .pf 0x5000 4] ∧
    AllOf (EventWitness registerForm (bare { runPar with tdi := .locked } .zero)) [.registerWrite (.vf 0) 0x1000 1, .lqctlWrite 0 3 0x24,
      .lqprodWrite 0 0 1, .mlctlWrite 0 0x26] := by
  refine ⟨⟨?_, ?_⟩, ?_, ?_, ⟨?_, ?_, ?_, ?_, ?_, ?_, ?_, ?_, ?_, ?_, ?_, ?_, ?_, ?_, ?_, ?_, ?_, ?_, ?_, ?_, ?_, ?_⟩, ?_, ?_, ?_, ?_⟩ <;>
    exact event_of _ rfl (by decide)
/-- Registers of a function with a queue and a log ring enabled, and commands under way. -/
def busyRegs : FnRegs := { FnRegs.zero with lq := [(0, ⟨0, 4, true, 0, 0⟩)], mlen_ := true, mbusy := true, cbusy := true }
/-- Obligations.RegisterWrites: writes that are ignored (FEATREQ of the PF while VF Enable is 1, queues and rings while EN is 1, memory
command registers while BUSY is 1), requests without IDE and in UNLOCKED and ERROR, and commands that are turned away. -/
theorem witness_RegisterWrites_ignored :
    AllOf (EventWitness registerForm { bare runPar .zero with pf := { State.reset.pf with vfEnable := true } })
      [.registerWrite .pf 0x10 1, .registerWrite .pf 0x18 1] ∧
    AllOf (EventWitness registerForm (bare runPar busyRegs))
      [.registerWrite (.vf 0) 0x1000 1, .lqctlWrite 0 0 0x25, .registerWrite (.vf 0) 0x4000 1, .mlctlWrite 0 0x26,
        .registerWrite (.vf 0) 0x2008 1, .registerWrite (.vf 0) 0x2010 1, .registerWrite (.vf 0) 0x2018 1, .mcmdReserve 0 0, .mcmdInval 0 5,
        .killContext 0 1, .resumePart 0 2] ∧
    AllOf (EventWitness registerForm (bare { runPar with tdi := .unlocked } .zero)) [.registerWrite (.vf 0) 0x10 1, .lqctlWrite 0 0 0x25,
      .lqprodWrite 0 0 1, .mlctlWrite 0 0x26, .mcmdUnmap 0 1, .mcmdProtect 0 2, .mcmdAdmit 0 3, .mcmdReclaim 0 4, .mcmdExport 0 6,
      .mcmdImport 0 7, .mcmdRefusedOp 0 15, .resumeSequencerContext 0 3, .ccmdRefusedOp 0 15] ∧
    AllOf (EventWitness registerForm (bare { runPar with tdi := .error } .zero)) [.registerWrite (.vf 0) 0x18 1] ∧
    AllOf (EventWitness registerForm { bare runPar .zero with bare := true }) [.registerWrite (.vf 0) 0x1000 1, .mcmdReserve 0 0] := by
  refine ⟨⟨?_, ?_⟩, ⟨?_, ?_, ?_, ?_, ?_, ?_, ?_, ?_, ?_, ?_, ?_⟩, ⟨?_, ?_, ?_, ?_, ?_, ?_, ?_, ?_, ?_, ?_, ?_, ?_, ?_⟩, ?_, ?_, ?_⟩ <;>
    exact event_of _ rfl (by decide)
/-- Obligations.InterfaceRequests: a request in each state that its rule allows, and the end of each kind of leave. -/
theorem witness_InterfaceRequests :
    AllOf (EventWitness tdispForm (bare runPar .zero)) [.getTdispVersion 0, .getTdispCapabilities 0, .getDeviceInterfaceState 0,
      .getDeviceInterfaceReport 0, .stopInterface 0, .ideKm 0, .ideIntegrityFailure 0] ∧
    AllOf (EventWitness tdispForm (bare { runPar with tdi := .unlocked } .zero)) [.lockInterface 0, .stopInterface 0] ∧
    AllOf (EventWitness tdispForm (bare { runPar with tdi := .locked } .zero)) [.startInterface 0, .getDeviceInterfaceReport 0] ∧
    EventWitness tdispForm (bare { runPar with tdi := .locked } { FnRegs.zero with featReq1 := 1 }) (.startInterface 0) ∧
    EventWitness tdispForm (bare { runPar with leaving := some .stop } .zero) (.leaveScrub 0) ∧
    EventWitness tdispForm (bare { runPar with leaving := some .destroy } .zero) (.leaveScrub 0) := by
  refine ⟨⟨?_, ?_, ?_, ?_, ?_, ?_, ?_⟩, ⟨?_, ?_⟩, ⟨?_, ?_⟩, ?_, ?_, ?_⟩ <;> exact event_of _ rfl (by decide)
/-- A state whose function has an SPDM state. -/
def spdmAt (x : Spdm) : State := { bare runPar .zero with spdm := [(0, x)] }
/-- Obligations.SecureRequests, in the state each request needs. -/
theorem witness_SecureRequests :
    AllOf (EventWitness spdmForm (spdmAt .idle)) [.getVersion (.vf 0), .getCapabilities (.vf 0), .negotiateAlgorithms (.vf 0)] ∧
    AllOf (EventWitness spdmForm (spdmAt .negotiated)) [.getDigests (.vf 0), .getCertificate (.vf 0), .challenge (.vf 0),
      .getMeasurements (.vf 0), .keyExchange (.vf 0)] ∧
    EventWitness spdmForm (spdmAt .keyed) (.finish (.vf 0)) ∧
    AllOf (EventWitness spdmForm (spdmAt .session)) [.endSession (.vf 0), .vendorDefinedRequest (.vf 0), .getMeasurements (.vf 0)] := by
  refine ⟨⟨?_, ?_, ?_⟩, ⟨?_, ?_, ?_, ?_, ?_⟩, ?_, ?_, ?_, ?_⟩ <;> exact event_of _ rfl (by decide)
/-- Obligations.TenantGrants: rotations, grants, and a debug policy wherever the free signature check accepts one. -/
theorem witness_TenantGrants :
    AllOf (EventWitness grantForm (bare runPar .zero)) [.keyRotationRequest 0, .checkpointPermit 0 true, .checkpointPermit 0 false,
      .checkpointKeySupply 0 7] ∧
    EventWitness grantForm (bare { runPar with keyNext := some 1 } .zero) (.frameReencrypt 0 4096) ∧
    ∀ sig, Config.signatureValid 0 0x4450 0 31 sig = true → EventWitness grantForm (bare runPar .zero) (.debugPolicy 0 ⟨0x4450, 0, 31, 0, sig⟩) := by
  refine ⟨⟨?_, ?_, ?_, ?_⟩, ?_, ?_⟩
  · exact event_of _ rfl (by decide)
  · exact event_of _ rfl (by decide)
  · exact event_of _ rfl (by decide)
  · exact event_of _ rfl (by decide)
  · exact event_of _ rfl (by decide)
  · exact fun sig h => event_of _ rfl ⟨by decide, rfl, by show (0x4450 : DWord).toNat / 2 ^ 16 = (0 : BitVec 6).toNat; decide, rfl, by show (31 : BitVec 64).toNat < 2 ^ 5; decide, rfl, h⟩
/-- Obligations.OperatorCommands. -/
theorem witness_OperatorCommands :
    EventWitness operatorForm { bare runPar .zero with pf := { State.reset.pf with vfEnable := true } } (.partitionCreate 63) ∧
    AllOf (EventWitness operatorForm (bare runPar .zero)) [.partitionDestroy 0, .assignQuads 0 [0, 191], .setQuantum 0 250, .setQuantum 0 16000,
      .setPoolSize 0 2097152, .firmwareUpdate ⟨.mc, 1, 1⟩, .deviceStart, .peerAuthentication 1 true, .peerAuthentication 1 false,
      .linkCrcError (.ualink 7), .ualinkPortRestored 7] := by
  refine ⟨?_, ?_, ?_, ?_, ?_, ?_, ?_, ?_, ?_, ?_, ?_, ?_⟩ <;> exact event_of _ rfl (by decide)

/-- A launch record of one cluster of four teams, each of one group of eight lanes. -/
def goodWords : List DWord := [0x1000, 0, 0, 0, 0, 4, 0, 0, 0, 0, 0, 0x0600000000000000, 0, 0, 0, 0]
/-- A partition with a record fetched for queue 3; its pool holds a save area of any size (DESIGN CHOICE, log entry 18). -/
def fetchedState (w : List DWord) : State :=
  bare { runPar with pool := 2097152 + Config.areaBytes (anyOf 0 0 (freeCtxIds (bare runPar .zero))), fetched := [(3, ⟨0, w⟩)] } .zero
/-- The registers of a launch queue with one record at address 0. -/
def queueRegs (base : DWord) : FnRegs := { FnRegs.zero with lq := [(0, ⟨base, 4, true, 1, 0⟩)] }
/-- The placed launch with its one team exited, its sequencer context ended, and nothing left of it. -/
def doneScene : State :=
  { busy .zero with
    ctxs := [(0, { placedContext with exitedTeams := 4 })], parts := []
    seqs := [(0, { placedSeq with ended := true })] }
/-- A launch of two clusters, one of them placed. -/
def placingScene : State :=
  { busy .zero with ctxs := [(0, { placedContext with lr := { placedLaunch with coop := false, seqCtx := 0, teams := 8 } })], seqs := [] }
/-- A state with a completion record for an address. -/
def doneAt (addr : Nat) : State :=
  { bare runPar .zero with dones := [{ id := 5, part := 0, addr := addr, status := 0, detail := 0, tag := 1, notify := true, asked := [] }] }
/-- The save area of a launch of one group of eight lanes in each of four teams fits that pool. -/
theorem fits_fetched (w : List DWord) (l : Launch) (h : l.groups = 1 ∧ l.w = 8 ∧ l.teams = 4) :
    poolUsed (fetchedState w) 0 + areaOf (anyOf 0 0 (freeCtxIds (bare runPar .zero))) l ≤ poolSize (fetchedState w) 0 := by
  have m : min 4 (Config.liveTeams 4) ≤ 4 := Nat.min_le_left _ _
  show 4096 + 0 + (4096 * (l.groups * l.w * min l.teams (Config.liveTeams l.teams)) +
    Config.areaBytes (anyOf 0 0 (freeCtxIds (bare runPar .zero)))) ≤
    2097152 + Config.areaBytes (anyOf 0 0 (freeCtxIds (bare runPar .zero)))
  rw [h.1, h.2.1, h.2.2]
  omega
/-- The record as a COOP launch. -/
def coopWords : List DWord := goodWords.set 4 0x100000000
/-- Its context. -/
def coopCtx : Context := newContext 0 3 0 (launchOf coopWords)
/-- The state in which a COOP launch looks for room, whatever context id it takes. -/
def coopState (c : Nat) : State := makeContext c coopCtx (dropFetched 0 3 (fetchedState coopWords))
/-- Every core of the partition's quad is usable for it. -/
theorem coop_fresh (c core : Nat) : freshOk (coopState c) [] (coopState c).nextId c coopCtx core = [0].contains (coreQuad core) := by
  show ((([0].contains (coreQuad core) && true && !false && bankFits coopCtx.lr (0 + 1)) && (true || _)) && (chitRun [] 1).isSome) = _
  rw [show bankFits coopCtx.lr (0 + 1) = true by decide, show (chitRun [] 1).isSome = true by decide]
  simp
/-- The one cluster of that launch is placed. -/
theorem coop_places (c : Nat) : ∃ w, placeAll c (clusterCount coopCtx.lr) (coopState c) = some w := by
  have h : ctxOf? (coopState c) c = some coopCtx := Cells.get?_insert_self _ _ _
  have n : nextSpot (coopState c) [] c coopCtx = some (0, 0, 0) := by
    unfold nextSpot
    simp only [coop_fresh]
    show List.findSome? (fun d => findRect 0 d fun _ core => [0].contains (coreQuad core)) [0, 1, 2, 3] = _
    decide
  have p : placeNext c (coopState c) = some (enterCluster c coopCtx (0, 0, 0) [] (coopState c)) := by
    simp only [placeNext, h]
    rw [if_pos (by decide), n]; rfl
  rw [show clusterCount coopCtx.lr = 1 by decide, placeAll, p]
  exact ⟨_, rfl⟩
/-- A COOP launch is admitted. -/
theorem coop_admit : EventWitness launchForm (fetchedState coopWords) (.launchAdmit 0 3) := by
  obtain ⟨w, h⟩ := coop_places (anyOf 0 0 (freeCtxIds (bare runPar .zero)))
  have e : ∃ ok : Prop, ok ∧ launchForm (fetchedState coopWords) (.launchAdmit 0 3) =
      (placeAll (anyOf 0 0 (freeCtxIds (bare runPar .zero))) (clusterCount coopCtx.lr)
        (coopState (anyOf 0 0 (freeCtxIds (bare runPar .zero))))).map fun w => ⟨ok, w⟩ := ⟨_, ⟨by decide, fits_fetched _ _ (by decide)⟩, rfl⟩
  obtain ⟨ok, y, e⟩ := e
  exact event_of ⟨ok, w⟩ (by rw [e, h]; rfl) y
/-- Obligations.LaunchEvents: a record that is fetched, one that ATS refuses, one admitted and one turned away; a cluster placed; a
launch completed; a completion record written, and one whose address is misaligned. -/
theorem witness_LaunchEvents :
    EventWitness fetchForm (bare runPar (queueRegs 0)) (.launchFetch 0 0) ∧
    EventWitness fetchForm (bare runPar (queueRegs 0x80000000000000)) (.launchFetch 0 0) ∧
    EventWitness launchForm (fetchedState goodWords) (.launchAdmit 0 3) ∧
    EventWitness launchForm (fetchedState coopWords) (.launchAdmit 0 3) ∧
    EventWitness launchForm (fetchedState (1 :: goodWords.tail)) (.launchAdmit 0 3) ∧
    EventWitness launchForm placingScene (.clusterPlace 0) ∧ EventWitness launchForm doneScene (.launchComplete 0) ∧
    EventWitness launchForm (doneAt 0) (.doneWrite 5) ∧ EventWitness launchForm (doneAt 8) (.doneWrite 5) := by
  refine ⟨?_, ?_, ?_, ?_, ?_, ?_, ?_, ?_, ?_⟩
  · exact event_of _ rfl (by decide)
  · exact event_of _ rfl (by decide)
  · exact event_of _ rfl ⟨by decide, fits_fetched _ _ (by decide)⟩
  · exact coop_admit
  · exact event_of _ rfl (by decide)
  · exact event_of _ rfl (by decide)
  · exact event_of _ rfl (by decide)
  · exact event_of _ rfl (by decide)
  · exact event_of _ rfl (by decide)

/-- Registers of a memory command on a range. -/
def rangeRegs (va len : DWord) : FnRegs := { FnRegs.zero with mva := va, mlen := len }
/-- A running partition whose page at 0 is in host memory, and one with a page of kind SEQ. -/
def hostPar : Partition := { runPar with pages := [(0, { dataPage with state := .host })] }
/-- Obligations.MemoryAndContextCommands: each memory command on its pages; the last OP that is refused. -/
theorem witness_MemoryAndContextCommands :
    EventWitness mcmdForm (bare runPar (rangeRegs 0x10000 0x10000)) (.mcmdReserve 0 0xD0) ∧
    EventWitness mcmdForm (bare runPar (rangeRegs 0xC0000000000000 0x10000)) (.mcmdReserve 0 0x2D0) ∧
    AllOf (EventWitness mcmdForm (bare runPar (rangeRegs 0 4096))) [.mcmdUnmap 0 1, .mcmdProtect 0 0x42, .mcmdAdmit 0 3, .mcmdReclaim 0 4,
      .mcmdInval 0 5, .mcmdRefusedOp 0 8, .mcmdRefusedOp 0 15] ∧
    EventWitness mcmdForm (bare hostPar (rangeRegs 0 4096)) (.mcmdAdmit 0 3) ∧
    AllOf (EventWitness mcmdForm { bare runPar (rangeRegs 0 4096) with peers := [0] }) [.mcmdExport 0 0xC6, .mcmdImport 0 7] ∧
    EventWitness mcmdForm (bare runPar { FnRegs.zero with mbusy := true }) (.mcmdComplete 0) := by
  refine ⟨?_, ?_, ⟨?_, ?_, ?_, ?_, ?_, ?_, ?_⟩, ?_, ⟨?_, ?_⟩, ?_⟩ <;> exact event_of _ rfl (by decide)
/-- The launch with its part stopped. -/
def stoppedScene (why : Stop) : State :=
  { busy .zero with
    parts := [(0, { regPart [] with thr := { (regPart []).thr with stop := why } })]
    seqs := [(0, { placedSeq with thr := { placedSeq.thr with stop := .seqStopped } })] }
/-- Obligations.MemoryAndContextCommands: a kill; each mode of a resumption of a part and of a sequencer context; refused OPs. -/
theorem witness_MemoryAndContextCommands_contexts :
    AllOf (EventWitness ccmdForm (stoppedScene .noHandler)) [.killContext 0 1, .resumePart 0 2, .resumePart 0 0x12, .resumePart 0 0x22,
      .resumePart 0 0x32, .resumeSequencerContext 0 3, .resumeSequencerContext 0 0x13, .resumeSequencerContext 0 0x23, .ccmdRefusedOp 0 4,
      .ccmdRefusedOp 0 15] ∧
    EventWitness ccmdForm (stoppedScene .escalated) (.resumePart 0 2) := by
  refine ⟨⟨?_, ?_, ?_, ?_, ?_, ?_, ?_, ?_, ?_, ?_⟩, ?_⟩ <;> exact event_of _ rfl (by decide)
/-- A partition that grants checkpoints, named in CKPART. -/
def ckState : State :=
  { bare { runPar with ckPermit := true, ckKey := some 0 } .zero with
    pf := { State.reset.pf with ckpart := 1 }
    ports := 0xFF }
/-- Such a state with a checkpoint or a restore under way, and an image in the tier. -/
def ckRunning (restore : Bool) : State :=
  { ckState with
    ck := some { restore := restore, cont := true, parts := [0] }
    tier := makeImages ckState [0] 0 }
/-- The image in the tier is found where its free tags verify. -/
theorem images_of (h : Config.imageTags 0 0 = true) :
    findImages (ckRunning true) [0] 0 = some ((makeImages ckState [0] 0).map fun i => (0, i)) := by
  show (if (some 0 : Option Nat) = some 0 ∧ Config.imageTags 0 0 = true then _ else _) = _
  rw [if_pos ⟨rfl, h⟩]
  rfl
/-- A restore from it completes. -/
theorem restore_of (h : Config.imageTags 0 0 = true) : EventWitness checkpointForm (ckRunning true) .restoreComplete := by
  have k : checkpointForm (ckRunning true) .restoreComplete = match findImages (ckRunning true) [0] 0 with
      | none => none
      | some l => match restoreAll l (ckRunning true) with
        | none => none
        | some u => some ⟨true = true ∧ allSaved (ckRunning true) [0] = true ∧ fewQuads (ckRunning true) l = false,
            ckEnd 0x00 (BitVec.ofNat 64 (l.map fun x => x.2.size).sum) (some false) ([(0 : BitVec 6)].foldl (fun s p => mlNote p s) u)⟩ := rfl
  rw [images_of h] at k
  exact event_of _ k (by decide)
/-- Obligations.CheckpointEvents: a checkpoint and a restore begin wherever the free attestation of tier 0 succeeds; the ends of
both, the second where the image's free tags verify, an abort taken and one refused, and lost links. -/
theorem witness_CheckpointEvents :
    (Config.tierAttested 0 = true → EventWitness checkpointForm ckState (.checkpoint 5) ∧ EventWitness checkpointForm ckState (.restore 2)) ∧
    AllOf (EventWitness checkpointForm (ckRunning false)) [.checkpointComplete, .checkpointAbort 3, .checkpointAbort 11,
      .linkFailure 0, .linkFailure 7] ∧
    (Config.imageTags 0 0 = true → EventWitness checkpointForm (ckRunning true) .restoreComplete) ∧
    EventWitness checkpointForm ckState (.checkpointAbort 7) := by
  refine ⟨fun h => ⟨?_, ?_⟩, ⟨?_, ?_, ?_, ?_, ?_⟩, fun h => ?_, ?_⟩
  · exact event_of _ rfl ⟨by decide, by decide, by decide, by decide, h, by decide⟩
  · exact event_of _ rfl ⟨by decide, by decide, by decide, h, by decide⟩
  · exact event_of _ rfl (by decide)
  · exact event_of _ rfl (by decide)
  · exact event_of _ rfl (by decide)
  · exact event_of _ rfl (by decide)
  · exact event_of _ rfl (by decide)
  · exact restore_of h
  · exact event_of _ rfl (by decide)
/-- A debugger with every right; its context stopped or not. -/
def debugScene (stop : Bool) : State :=
  setCtx 0 (fun k => { k with dbgStop := stop }) (busy { FnRegs.zero with dlock := 31 })
/-- Obligations.DebugEvents: each action; accesses to a register, to memory and to a box. -/
theorem witness_DebugEvents :
    AllOf (EventWitness debugForm (debugScene true)) [.debugStop 0 1, .debugResume 0 2, .debugStep 0 3, .armBreakpoints 0 4,
      .disarmBreakpoints 0 5, .dbgregAccess 0 0x8000000000000000, .dbgregAccess 0 0xC000000000000000, .dbgmemAccess 0 0x8000000000000000,
      .dbgmemAccess 0 0x8100000000000000] ∧
    EventWitness debugForm (debugScene false) (.debugStop 0 1) := by
  refine ⟨⟨?_, ?_, ?_, ?_, ?_, ?_, ?_, ?_, ?_⟩, ?_⟩ <;> exact event_of _ rfl (by decide)

/-- The launch with a landing in a uniform register, one in two lanes, stores and a line update in flight. -/
def flightScene : State :=
  { busy .zero with
    lands := [⟨7, .part 0, 0, .sreg (.part 0) 31 5, true, false⟩, ⟨8, .part 0, 0, .lanes 0 [(128, 7), (191, 8)], true, false⟩]
    upds := [{ ticket := 3, die := 1, addr := 4096, data := [1], mark := .kept, clock := [1, 0, 0, 0] }], stores := storeState.stores }
/-- A deterministic launch whose first team has exited. -/
def tellerScene : State :=
  { busy .zero with
    ctxs := [(0, { placedContext with lr := { placedLaunch with det := true } })], teams := [(0, { placedTeam with exited := true })] }
/-- Obligations.FabricEvents. -/
theorem witness_FabricEvents :
    AllOf (EventWitness fabricForm flightScene) [.dataLanding 7, .dataLanding 8, .homeWrite 1, .homeWrite 2, .dieCopyUpdate 3,
      .l1LineExpiry 767 255 0] ∧
    EventWitness fabricForm tellerScene (.tellerApply 0) := by
  refine ⟨⟨?_, ?_, ?_, ?_, ?_, ?_⟩, ?_⟩ <;> exact event_of _ rfl (by decide)
/-- A partition that exports its data page to partition 2 of device 1. -/
def exportState : State :=
  { bare { runPar with exports := [(0, ⟨1, 2, 0, 4096, true, true⟩)] } .zero with peers := [1] }
/-- Obligations.OutsideAccesses: the host at the end of a line in its own and in device memory; a peer's read, write and atomic at the
end of an export; a message; both answers to a page request. -/
theorem witness_OutsideAccesses :
    AllOf (EventWitness accessForm exportState) [.hostMemoryAccess ⟨0, 0x10000, true, 1, [1]⟩, .hostMemoryAccess ⟨0, 0x1007F, false, 1, []⟩,
      .hostMemoryAccess ⟨0, 0, true, 1, [1]⟩, .hostMemoryAccess ⟨0, 0xF80, false, 128, []⟩, .peerAccess ⟨1, 0, 2, 0, 0, .read, 16, [], 9⟩,
      .peerAccess ⟨1, 0, 2, 0, 4088, .write, 8, [1, 2, 3, 4, 5, 6, 7, 8], 9⟩, .peerAccess ⟨1, 0, 2, 0, 0, .atomic 0 2, 4, [1, 0, 0, 0], 9⟩,
      .peerCollectiveArrival ⟨1, 0, 0, 0, []⟩] ∧
    AllOf (EventWitness accessForm { bare hostPar .zero with pris := [⟨0, 0, 0⟩] }) [.priResponse 0 0 true, .priResponse 0 0 false] := by
  refine ⟨⟨?_, ?_, ?_, ?_, ?_, ?_, ?_, ?_⟩, ?_, ?_⟩ <;> exact event_of _ rfl True.intro
/-- The hypotheses of Obligations.OutsideAccesses for HOST_MEMORY_ACCESS: the end of a line in the host's memory, and of one in a
frame. -/
theorem witness_OutsideAccesses_host :
    AllOf (fun i => ∃ a t, i = .hostMemoryAccess a ∧ a.len ≠ 0 ∧ a.va % 128 + a.len ≤ 128 ∧ a.va < region 0x80 ∧
      hostOwned exportState a.part a.va = true ∧ parOf? exportState a.part = some t)
      [.hostMemoryAccess ⟨0, 0x1007F, true, 1, [1]⟩, .hostMemoryAccess ⟨0, 0x10000, false, 128, []⟩] ∧
    AllOf (fun i => ∃ a pa, i = .hostMemoryAccess a ∧ a.len ≠ 0 ∧ a.va % 128 + a.len ≤ 128 ∧ a.va < region 0x80 ∧
      hostOwned exportState a.part a.va = false ∧ physOf exportState a.part a.va = some pa ∧
      onDescriptor exportState a.part a.va a.len = false)
      [.hostMemoryAccess ⟨0, 4095, true, 1, [1]⟩, .hostMemoryAccess ⟨0, 0, false, 128, []⟩] := by
  refine ⟨⟨?_, ?_⟩, ?_, ?_⟩ <;> exact ⟨_, _, rfl, by decide, by decide, by decide, by decide, by first | exact ⟨rfl, by decide⟩ | rfl⟩
/-- The hypotheses of Obligations.OutsideAccesses for PEER_ACCESS: each kind of access, at the start and the end of the export. -/
theorem witness_OutsideAccesses_peer :
    AllOf (fun i => ∃ a t e u pa b z w, i = .peerAccess a ∧ a.len ≠ 0 ∧ a.len ≤ 16 ∧ a.offset % a.len = 0 ∧
      a.dev.toNat ∈ exportState.peers ∧ peerHeld exportState a.target = false ∧ parOf? exportState a.target = some t ∧
      exportFor t a.dev a.part a.offset = some e ∧ a.offset + a.len ≤ e.len ∧
      reach exportState a.target (Config.portDie a.port).toNat (accKind a.kind) (e.base + a.offset) a.len = .phys u pa b z w ∧
      poisonedAt u pa a.len = none ∧ e.rd = true ∧ e.wr = true)
      [.peerAccess ⟨1, 0, 2, 0, 0, .read, 16, [], 9⟩, .peerAccess ⟨1, 7, 2, 0, 4088, .write, 8, [1, 2, 3, 4, 5, 6, 7, 8], 9⟩,
        .peerAccess ⟨1, 0, 2, 0, 4092, .atomic 0 2, 4, [1, 0, 0, 0], 9⟩] := by
  refine ⟨?_, ?_, ?_⟩ <;>
    exact ⟨_, _, _, _, _, _, _, _, rfl, by decide, by decide, by decide, by decide, by decide, rfl, rfl, by decide, rfl, rfl, rfl, rfl⟩
/-- The hypotheses of Obligations.OutsideAccesses for PRI_RESPONSE. -/
theorem witness_OutsideAccesses_pri :
    let s : State := { bare hostPar .zero with pris := [⟨0, 0, 0⟩] }
    ∃ r t pg w, (s.pris.find? fun q => q.part == 0 && q.page == 0) = some r ∧ parOf? s 0 = some t ∧ Cells.get? 0 t.pages = some pg ∧
      pg.state = .host ∧ admitHost 0 r.die 0 pg { s with pris := s.pris.erase r } = some w :=
  ⟨_, _, _, _, rfl, rfl, rfl, rfl, rfl⟩
/-- The launch with operations in its sequencer context and a command of its part (whose tiles have been pushed, for `cpyq`). -/
def engineScene (ops : List EngOp) (k : CmdKind) : State :=
  { busy .zero with
    seqs := [(0, { placedSeq with ops := ops })], quads := [(0, { Quad.zero with busy := some 0 })]
    cmds := [{ ticket := 5, core := 0, ctx := 0, tid := 0, gid := 0, who := .part 0, pc := 0x1000, chit := some 0, kind := k, asked := []
               pushed := 4, sent := [], pos := 0, failed := none, recorded := false }] }
/-- A copy of one byte from address 0 to address 1. -/
def oneByte : CpyDesc :=
  { src := 0, dst := 1, ctrl := 0, param := 0, count := [1, 0, 0, 0, 0, 0, 0, 0], valid := [1, 0, 0, 0, 0, 0, 0, 0]
    sstride := [0, 0, 0, 0, 0, 0, 0, 0], dstride := [0, 0, 0, 0, 0, 0, 0, 0] }
/-- The placed sequencer context in an `mpick` that waits, with no team left in its quad. -/
def idleSeqScene : State :=
  { busy .zero with
    seqs := [(0, { placedSeq with thr := { placedSeq.thr with wait := .monitor .fifoEntry } })]
    teams := [(0, { placedTeam with exited := true })] }
/-- A dense pass of the smallest shape over two boxes that are lent to quad 0. -/
def passScene : State :=
  let b : Box := { heldOne with lends := [⟨0, 0, 0, false⟩] }
  { setCluster 0 (fun u => { u with boxes := [(0, b)] }) (engineScene [{ postedPass with kind := .pass true 6 1 1 }] (.cpyq 0 0)) with
    quads := [] }
/-- Obligations.EngineEvents: a grant and the end of a pass, an operation, an end without teams, a copy, a take. -/
theorem witness_EngineEvents :
    EventWitness engineEventForm passScene (.passGrant 0) ∧
    EventWitness engineEventForm (engineScene [{ postedPass with granted := true }] (.cpyq 0 0)) (.passComplete 0) ∧
    EventWitness engineEventForm (engineScene [{ postedPass with kind := .zero }] (.cpyq 0 0)) (.engineOpComplete 0 9) ∧
    EventWitness engineEventForm idleSeqScene (.sequencerContextAutoEnd 0) ∧
    EventWitness engineEventForm (engineScene [] (.cpy oneByte)) (.commandComplete 5) ∧
    EventWitness engineEventForm (engineScene [] (.cpyq 0 0)) (.outlierQueuePush 5) ∧
    EventWitness engineEventForm { passScene with clus := [] } (.passGrant 0) ∧
    EventWitness engineEventForm { passScene with quads := [(0, { Quad.zero with busy := some 0 })] } (.passComplete 0) := by
  refine ⟨?_, ?_, ?_, ?_, ?_, ?_, ?_, ?_⟩ <;> exact event_of _ rfl (by decide)
/-- The launch with one operation in its sequencer context, over a box of one granule that is lent to quad 0. -/
def accScene (o : EngOp) : State :=
  setCluster 0 (fun u => { u with boxes := [(0, { heldOne with lends := [⟨0, 0, 0, false⟩] })] }) (engineScene [o] (.cpyq 0 0))
/-- The headers of two tiles without outliers, and entries for them. -/
def grantedSplit : EngOp :=
  let h : List Byte := [0x53, 0x5A, 0, 0, 0, 0, 0, 0x80, 0x3F] ++ List.replicate 55 0
  { postedPass with kind := .pass false 0 1 1, granted := true, heads := [h, h], popped := [⟨0, [], false⟩, ⟨0, [], false⟩] }
/-- The hypotheses of Obligations.AccumulatorResults: `mzero`, both forms of `mscale`, a dense pass and a split one. -/
theorem witness_AccumulatorResults :
    (∃ q, dueOp (accScene { postedPass with kind := .zero }) 0 9 q { postedPass with kind := .zero }) ∧
    seqChitOk (accScene { postedPass with kind := .zero }) 0 none = true ∧
    (∃ q, dueOp (accScene { postedPass with kind := .scale 0x3F800000 }) 0 9 q { postedPass with kind := .scale 0x3F800000 }) ∧
    (0x3F800000 : DWord).extractLsb' 32 32 = 0 ∧
    (∃ q b, dueOp (accScene { postedPass with kind := .scaleRow 1 }) 0 9 q { postedPass with kind := .scaleRow 1 } ∧
      lentBox (accScene { postedPass with kind := .scaleRow 1 }) 0 q (descHandle 1) = some b ∧ descOff 1 + 256 ≤ b.bytes ∧
      boxPoison b (descOff 1) 256 = none ∧ accPoisoned q 0 64 = false) := by
  refine ⟨⟨_, rfl, by rfl⟩, by decide, ⟨_, rfl, by rfl⟩, by decide, ⟨_, _, ⟨rfl, by rfl⟩, by rfl, by decide, by decide, by decide⟩⟩
/-- Its passes: the smallest dense shape, and a split pass of one step. -/
theorem witness_AccumulatorResults_passes :
    (∃ q b, grantedOp (accScene { postedPass with kind := .pass true 6 1 1, granted := true }) 0 =
        some (q, { postedPass with kind := .pass true 6 1 1, granted := true }) ∧
      hasArray (accScene { postedPass with kind := .pass true 6 1 1, granted := true }) 0 = true ∧
      passBox (accScene { postedPass with kind := .pass true 6 1 1, granted := true }) q (descHandle 1) = some b ∧
      passSound q { postedPass with kind := .pass true 6 1 1, granted := true } b b) ∧
    ∃ q b, grantedOp (accScene grantedSplit) 0 = some (q, grantedSplit) ∧ hasArray (accScene grantedSplit) 0 = true ∧
      passBox (accScene grantedSplit) q (descHandle 1) = some b ∧ passSound q grantedSplit b b := by
  refine ⟨⟨_, _, rfl, by decide, rfl, ?_, by decide, by decide⟩, ⟨_, _, rfl, by decide, rfl, ?_, by decide +kernel, by decide +kernel, ?_, by decide +kernel⟩⟩
  · intro st h; simp only [stepsOf, List.mem_map] at h; obtain ⟨k, -, rfl⟩ := h; rfl
  · intro st h; simp only [grantedSplit, stepsOf, List.mem_map] at h; obtain ⟨k, -, rfl⟩ := h; rfl
  · decide +kernel
/-- The launch whose part waits, seated or not, with a group that has a box to take, a first phase of the team's barrier in which all
lanes are marked, and a record that waits for its ring. -/
def waitScene (w : Wait) (seated : Bool) : State :=
  let all : Cells BarState := [(0, ⟨0, [(0, BitVec.allOnes 64)]⟩)]
  { busy .zero with
    parts := [(0, { regPart [] with seated := seated, thr := { (regPart []).thr with wait := w } })], groups := [(0, takingGroup)]
    teams := [(0, { placedTeam with tbars := all })], seqs := []
    recs := [{ id := 4, ctx := 0, core := 0, who := .part 0, words := [1, 2, 3, 4, 5, 6, 7], asked := [] }] }
/-- The launch with a record that waits for its page, of the management log or of its context. -/
def noteScene (c : Option Nat) : State :=
  { busy .zero with fns := [(0, { FnRegs.zero with mlen_ := true })], notes := [⟨4, 0, c, [1, 2, 3, 4, 5, 6, 7], []⟩] }
/-- Obligations.WaitEvents: a wake, a barrier, a free seat, WEDGE in a part and in a sequencer context, a record,
one of the log and one of a context that waited for their page, one of a kill. -/
theorem witness_WaitEvents :
    EventWitness waitForm (waitScene (.monitor .takeQueue) true) (.monitorWake (.part 0)) ∧
    AllOf (EventWitness waitForm (waitScene .none false)) [.barrierComplete (.team 0 0), .reseatExchange 0, .pendingRecordWrite 4] ∧
    EventWitness waitForm { waitScene (.monitor (.barrier (.team 0 1) 0)) true with recs := [] } (.wedgeDetect 0) ∧
    EventWitness waitForm { busy .zero with
        parts := [], teams := [(0, { placedTeam with exited := true })]
        seqs := [(0, { placedSeq with thr := { placedSeq.thr with wait := .monitor (.chits false 1) } })] } (.wedgeDetect 0) ∧
    EventWitness waitForm (noteScene none) (.pendingRecordWrite 4) ∧ EventWitness waitForm (noteScene (some 0)) (.pendingRecordWrite 4) ∧
    EventWitness waitForm { busy .zero with kills :=
        [{ id := 4, part := 0, ring := 0, log := 6, words := [1, 2, 3, 4, 5, 6, 7], asked := [], reason := 1, done := 0, tag := 0, notify := false }] }
      (.pendingRecordWrite 4) := by
  refine ⟨?_, ⟨?_, ?_, ?_⟩, ?_, ?_, ?_, ?_, ?_⟩ <;> exact event_of _ rfl (by decide)
/-- The launch whose cluster is in a state of residence, in a module that has stopped for heat or not. -/
def unitScene (r : Residence) (hot : Bool) : State :=
  { setCluster 0 (fun u => { u with res := r }) (busy .zero) with thermalStop := hot }
/-- Obligations.UnitEvents: a quantum, a swap, a save; each outcome of a scrub; heat at the full and at the lowest clock. -/
theorem witness_UnitEvents :
    AllOf (EventWitness unitForm (unitScene .resident false)) [.quantumBoundary 0, .scrubberRead (.laneWord 0 63 63) .clean,
      .scrubberRead (.sector 8160) .correctable, .scrubberRead (.control 0) .uncorrectable, .thermalLimit] ∧
    EventWitness unitForm { unitScene .resident false with clockMhz := 1800 } .thermalLimit ∧
    EventWitness unitForm (unitScene .loading false) (.bankSwap 0) ∧
    EventWitness unitForm { unitScene .resident false with quads := [(0, { Quad.zero with tlb := [⟨0, 0, 4096⟩] })] }
      (.scrubberRead (.tlbEntry 0 0) .uncorrectable) ∧
    AllOf (EventWitness unitForm (unitScene .saving true)) [.unitSaved 0, .thermalResume, .thermalSaveTimeout 0] := by
  refine ⟨⟨?_, ?_, ?_, ?_, ?_⟩, ?_, ?_, ?_, ?_, ?_, ?_⟩ <;> exact event_of _ rfl (by decide)

/-! ### Values that loads deliver, registers read and records hold -/

/-- The data page of the scene is reached, and no cache, queue or mark stands in the way. -/
theorem home_scene {rs : List (Nat × DWord)} {k : AccessKind} {a n : Nat} (h : a % n = 0) (hp : (4096 + a) % n = 0 ∧ n ≤ 128) (ha : a < 4096)
    (hk : allowed dataPage k = true) : AtHome (scene rs) (placeOf (scene rs) (.part 0)) k a n (4096 + a) where
  mapped := ⟨0, dataPage, h, .inl (by simp only [region]; omega),
    ⟨_, rfl, by simp only [pageOf, dataPage, placedPage]; simp [show a < 4096 from ha]⟩, rfl, by decide, hk, fun _ => rfl,
    ⟨4096, rfl, rfl, by omega⟩⟩
  place := hp
  plain := rfl
  queue := fun _ h => absurd h List.not_mem_nil
  l1 := fun _ h => absurd h List.not_mem_nil
  copies := fun _ h => absurd h List.not_mem_nil
  sound := fun _ _ => rfl
/-- The hypotheses on values of Obligations.UniformMemoryForms: the last doubleword and the last word of the data page. -/
theorem witness_UniformMemoryForms_values :
    (thread? (scene []) (scene []).agent = some (regPart []).thr ∧ roomFor (scene []) (scene []).agent true false = true) ∧
    AtHome (scene []) (placeOf (scene []) (.part 0)) .read (uniformAddress (regPart []).thr ⟨1, 2, false, 511⟩ 8) 8 (4096 + 4088) ∧
    AtHome (scene []) (placeOf (scene []) (.part 0)) .read (uniformAddress (regPart []).thr ⟨1, 2, false, 1023⟩ 4) 4 (4096 + 4092) :=
  ⟨⟨rfl, rfl⟩, home_scene (by decide) (by decide) (by decide) rfl, home_scene (by decide) (by decide) (by decide) rfl⟩
/-- The hypotheses on values of Obligations.LaneMemoryForms and Obligations.BoxAccessForms: a load and an atomic of two lanes at one address
of the data page, and a box that the group holds. -/
theorem witness_LaneMemoryForms_BoxAccessForms_values :
    (roomFor (scene []) (scene []).agent true false = true ∧ roomFor (scene []) (scene []).agent true true = true) ∧
    actives (regPart []) placedGroup 0 = [0, 63] ∧
    (∀ l ∈ actives (regPart []) placedGroup 0, AtHome (scene []) (placeOf (scene []) (scene []).agent) .read
      (laneAddress (regPart []) placedGroup 2 ((7 : BitVec 4).toInt * (16 : Nat)) l) 16 (4096 + 112)) ∧
    (∀ l ∈ actives (regPart []) placedGroup 0, AtHome (scene []) (placeOf (scene []) (scene []).agent) .write
      (laneAddress (regPart []) placedGroup 2 0 l) 4 4096) ∧
    heldBox (scene [(0, 1)]) 0 placedGroup (sVal (regPart [(0, 1)]).thr (boxReg 0)) = some (0, heldOne) ∧
    fits heldOne (boxOffset (regPart [(0, 1)]) placedGroup 2 63) 4 := by
  have e : actives (regPart []) placedGroup 0 = [0, 63] := by decide
  refine ⟨⟨rfl, rfl⟩, e, fun l h => ?_, fun l h => ?_, rfl, by unfold fits; decide⟩ <;>
    (rw [e] at h; simp only [List.mem_cons, List.not_mem_nil, or_false] at h; obtain rfl | rfl := h <;>
      exact home_scene (by decide) (by decide) (by decide) rfl)
/-- The hypotheses on values of Obligations.SpecialRegisterForms, in the placed part and in the placed sequencer context. -/
theorem witness_SpecialRegisterForms_values :
    (Runs base 0 placedPart placedGroup ∧ Cells.get? placedGroup.tid base.teams = some placedTeam ∧
      ctxOf? base placedTeam.ctx = some placedContext ∧ GeometryFits placedTeam placedContext ∧ placedGroup.gslot < 64 ∧ placedGroup.w ≤ 64 ∧
      placedGroup.groups ≤ 16 ∧ placedGroup.vregs ≤ 256 ∧ placedGroup.grp < 16 ∧ placedPart.wb < placedGroup.vregs ∧
      placedPart.tstack.length ≤ 4 ∧ (coreOf base placedTeam.core).table.ndef ≤ 128) ∧
    seqBase.agent = .seq 0 ∧ Cells.get? 0 seqBase.seqs = some placedSeq ∧ ctxOf? seqBase placedSeq.ctx = some placedContext ∧
    (seqBase.teams.find? fun t => t.2.uid == placedSeq.uid && t.2.core == quadCore (0 / 8)) = some (0, placedTeam) := by
  refine ⟨⟨runs_base, rfl, rfl, ⟨by decide, by decide, by decide⟩, ?_⟩, rfl, rfl, rfl, rfl⟩
  decide
/-- A cause of two lanes on two pages. -/
def laneCause : Trap := { Trap.plain 0x07 0 with paged := true, addrs := [(0, 4), (63, 0x1000)], mask := 0x8000000000000001 }
/-- A record was written. -/
theorem written {r : RingRes} (h : (match r with
    | .ok _ => true
    | _ => false) = true) : ∃ u, r = .ok u := by
  cases r <;> first | exact ⟨_, rfl⟩ | exact Bool.noConfusion h
/-- A record is written to a ring of 64 slots at the start of the data page. -/
theorem ring_scene : ∃ u, ringWrite 0 (coreDie 0) 0 6 [1, 2, 3, 4, 5, 6, 7] (scene []) = .ok u := written (by decide +kernel)
/-- The other hypotheses of Obligations.TrapStopsPart: a sequencer context that stops, WEDGE in a part without a handler, with a full stack
and with room, a cause that names addresses and one that does not, and a record that is written. -/
theorem witness_TrapStopsPart :
    (Cells.get? 0 (seqScene []).seqs = some { placedSeq with thr := (regPart []).thr } ∧ ctxOf? (seqScene []) placedSeq.ctx = some placedContext ∧
      ringBusy (seqScene []) (.seq 0) placedSeq.ctx = false ∧ (Trap.plain 0x0E 31).cause ≠ 0x07 ∧ (seqScene []).agent = .seq 0 ∧
      (thread? (seqScene []) (.seq 0)).isSome = true) ∧
    (Cells.get? 0 (trapScene 0x2000 4).parts = some (trapPart 4) ∧ (trapContext 0x2000).tvec ≠ 0 ∧ (trapPart 4).tstack.length = 4 ∧
      (trapPart 3).tstack.length ≠ 4) ∧
    LaneCause laneCause ∧ namesAddress (Trap.plain 0x06 0) = false ∧
    AgentIs base (.part 0) ⟨placedTeam.core, placedGroup.gslot, placedTeam.tslot, false, 0⟩ ∧ AgentIs base (.seq 1535) ⟨quadCore 191, 7, 0, true, 0⟩ ∧
    ∃ u, ringWrite 0 (coreDie 0) 0 6 [1, 2, 3, 4, 5, 6, 7] (scene []) = .ok u := by
  refine ⟨⟨rfl, rfl, rfl, by decide, rfl, rfl⟩, ⟨rfl, by decide, by decide, by decide⟩,
    ⟨by decide, rfl, by decide, by decide, by decide, by decide⟩, by decide, ⟨by decide, _, _, _, rfl, rfl, rfl, rfl⟩, ⟨by decide, by decide, rfl⟩, ?_⟩
  exact ring_scene
/-- The hypotheses on values of Obligations.FabricEvents: words that land in two lanes, and a lane read by `vread` that is full, and one that
is empty. -/
theorem witness_FabricEvents_values :
    let l : Landing := ⟨9, .part 0, 0, .fromLane (.part 0) 1 0 128, true, false⟩
    ((flightScene.lands.find? fun x => x.ticket == 8) = some ⟨8, .part 0, 0, .lanes 0 [(128, 7), (191, 8)], true, false⟩ ∧
      Cells.get? 0 flightScene.groups = some placedGroup ∧ (191 : Nat) ∉ ([] : List (Nat × Word)).map Prod.fst) ∧
    (([l].find? fun x => x.ticket == 9) = some l ∧ (thread? flightScene (.part 0)).isSome = true ∧
      (Cells.get LaneWord.zero 128 placedGroup.lanes).full = true ∧ (Cells.get LaneWord.zero 128 loadingGroup.lanes).full = false) :=
  ⟨⟨rfl, rfl, by decide⟩, rfl, rfl, rfl, rfl⟩
/-- The hypotheses on values of Obligations.AccumulatorResults and Obligations.CommandResults: a tile's header and its last row, element
values at the lowest exponent, the least parameters and 4,096 codes. -/
theorem witness_AccumulatorResults_CommandResults_values :
    (let h : Num.TileHead := ⟨true, 16, 0xFFFF, 0x7F7F, List.replicate 16 16⟩
     h.beta < 0x7F80 ∧ (63 : Nat) < 64) ∧
    (∀ v, Num.EVal.fin v ∈ [Num.EVal.fin ⟨1, -157⟩, .inf true] ++ [.nan true, .fin ⟨-1, 0⟩] → -((157 : Nat) : Int) ≤ v.e) ∧
    EncoderFits { f4 := true, tau := 0x7F80, cap := 16, spill := 3, ulim := 8, adapt := true, tensor := 0xFFFF } ∧
    ((Array.replicate 4096 0xFFFF).size = 4096 ∧ ∀ e < 4096, (Array.replicate 4096 0xFFFF).getD e 0 < 2 ^ 16) := by
  refine ⟨by decide, fun v h => ?_, ⟨by decide, by decide⟩, by simp, fun e h => ?_⟩
  · simp only [List.cons_append, List.nil_append, List.mem_cons, Num.EVal.fin.injEq, reduceCtorEq, List.not_mem_nil, false_or, or_false] at h
    obtain rfl | rfl := h <;> decide
  · rw [Array.getD_eq_getD_getElem?]; simp [h]

/-! ### Commands and engine operations whose results are stated -/

/-- Where the data page lies. -/
def dataLoc (a : Nat) : Nat := 4096 + a
/-- A range of the data page is one piece. -/
theorem pieces_data {va n : Nat} (h : va + n ≤ 4096) (p : 0 < n) : pieces va n = [(va, n)] := by
  have e : ¬ region 0xC0 ≤ va := by simp only [region]; omega
  simp only [pieces, if_neg e, cutRange]
  rw [if_neg (by omega), if_pos (by omega)]
/-- An engine of die 0 reaches the data page, the first of its partition. -/
theorem reaches_data {s : State} {pl : Place} {k : AccessKind} {t : Partition} {va n : Nat} (ht : parOf? s pl.part = some t)
    (hp : t.pages.head? = some (0, dataPage)) (hc : s.tablePoison = []) (hf : inPool s pl.part 4096 4096 = true) (hq : s.sqs = [])
    (hs : s.poison = []) (hd : pl.die = 0) (hk : k = .engineRead ∨ k = .engineWrite) (p : 0 < n) (h : va + n ≤ 4096) :
    EngineReaches s pl k va n dataLoc := by
  intro q hm
  rw [pieces_data h p, List.mem_singleton] at hm
  subst hm
  obtain ⟨r, hp⟩ : ∃ r, t.pages = (0, dataPage) :: r := by
    cases hl : t.pages with
    | nil => simp [hl] at hp
    | cons x r => simp only [hl, List.head?_cons, Option.some.injEq] at hp; exact ⟨r, by rw [hp]⟩
  have hv : va < 4096 := by omega
  refine ⟨.inl (by simp only [region]; omega), ⟨t, 0, dataPage, 4096, ht, ?_, by simp [hc], by decide, ?_, rfl, hf, ?_⟩, ?_, ?_⟩
  · simp [pageOf, hp, dataPage, placedPage, hv]
  · rcases hk with rfl | rfl <;> rfl
  · intro j _; simp [dataLoc]; omega
  · intro _; simp [onDescriptor, hq]
  · intro _ j hj
    refine ⟨by simp [poisonedAt, hs], ?_⟩
    rw [hd]; simp only [physDie, dataLoc, stackSpan]
    simp only at hj
    rw [Nat.div_eq_of_lt (by omega)]
/-- A command of the placed part, as CHIT asks or held, whose buffers have been sent or not. -/
def resultCmd (k : CmdKind) (chit : Option (BitVec 6)) : Cmd :=
  { ticket := 5, core := 0, ctx := 0, tid := 0, gid := 0, who := .part 0, pc := 0x1000, chit := chit, kind := k, asked := []
    pushed := 0, sent := [], pos := 0, failed := none, recorded := false }
/-- The launch with one command, a box of sixteen granules that starts with a tile's header, and messages from other devices. -/
def resultScene (k : CmdKind) (ms : List PeerCollective) : State :=
  { setCluster 0 (fun u => { u with boxes := [(0, { heldOne with gran := 16, front := [(0, 0x53), (1, 0x5A), (7, 0x80), (8, 0x3F)] })] })
      (engineScene [] (.cpyq 0 0)) with
    cmds := [resultCmd k (some 0)], arrivals := ms }
/-- The command runs. -/
theorem runs_result (k : CmdKind) (ms : List PeerCollective) :
    commandRuns (resultScene k ms) 5 (resultCmd k (some 0)) := ⟨rfl, rfl, rfl⟩
/-- A part of the data page can be read and written by it. -/
theorem data_result (k : CmdKind) (ms : List PeerCollective) {w : AccessKind} (hw : w = .engineRead ∨ w = .engineWrite) {a n : Nat} (p : 0 < n)
    (h : a + n ≤ 4096) : EngineReaches (resultScene k ms) (enginePlace (resultScene k ms) 0 0) w a n dataLoc :=
  reaches_data rfl rfl rfl rfl rfl rfl rfl hw p h
/-- Places of the data page differ. -/
theorem apart_data (p : Nat → Prop) : Apart dataLoc p := fun a b _ _ h => by simp only [dataLoc] at h; omega
/-- The hypotheses of Obligations.CommandResults on the end of a command: with a chit of its team, and with a part that it holds. -/
theorem witness_CommandResults_end :
    (Cells.get? 0 (resultScene (.cpyq 0 0) []).teams = some placedTeam ∧ (chitRange placedTeam).getLsbD 0 = true) ∧
    ∃ p, Cells.get? 0 (waitScene (.command 5 4) true).parts = some p ∧ (resultCmd (.cpyq 0 0) none).who = .part 0 ∧
      p.thr.wait = .command (resultCmd (.cpyq 0 0) none).ticket 4 := ⟨⟨rfl, by decide⟩, _, rfl, rfl, rfl⟩
/-- The hypotheses of Obligations.CommandResults for `cpy`: a byte copied within the data page. -/
theorem witness_CommandResults_cpy :
    let d := oneByte
    let c := resultCmd (.cpy d) (some 0)
    let s := resultScene (.cpy d) []
    let src := copyAddr 0 1 d.sstride
    let dst := copyAddr 1 1 d.dstride
    commandRuns s 5 c ∧ copyField d 2 + 1 = 1 ∧ copyStart (d.ctrl.getLsbD 0) d.src = 0 ∧ copyStart (d.ctrl.getLsbD 1) d.dst = 1 ∧
    cpySizes d = (1, 1) ∧ CopyLegal d 1 ∧ d.ctrl.getLsbD 19 = false ∧
    (∀ i, (∀ k < 1, i k < d.count.getD k 0) → OperandReads s c false d.src (src i) 1 dataLoc ∧ OperandWrites s c false d.dst (dst i) 1 dataLoc) ∧
    Apart dataLoc (fun _ => True) ∧
    ∀ i k : Nat → Nat, (∀ j < 1, i j < d.count.getD j 0) → (∀ j < 1, k j < d.count.getD j 0) → dataLoc (src i) ≠ dataLoc (dst k) := by
  have a : ∀ (i : Nat → Nat) n, (∀ k < 1, i k < oneByte.count.getD k 0) → copyAddr n 1 [0, 0, 0, 0, 0, 0, 0, 0] i = (BitVec.ofInt 64 n).toNat := by
    intro i n h
    simp [copyAddr, List.range_succ]
  refine ⟨runs_result _ _, rfl, rfl, rfl, rfl, ⟨by decide, by decide, by decide, by decide, by decide, by decide, by decide, rfl⟩, rfl, ?_,
    apart_data _, ?_⟩
  · intro i h
    rw [show copyAddr 0 1 oneByte.sstride i = 0 from a i 0 h, show copyAddr 1 1 oneByte.dstride i = 1 from a i 1 h]
    exact ⟨data_result _ _ (.inl rfl) (by decide) (by decide), data_result _ _ (.inr rfl) (by decide) (by decide)⟩
  · intro i k hi hk
    rw [show copyAddr 0 1 oneByte.sstride i = 0 from a i 0 hi, show copyAddr 1 1 oneByte.dstride k = 1 from a k 1 hk]
    decide
/-- The encoding of one element of the data page, with zeros beside it, into the box. -/
def encodeOne : CpyDesc :=
  { src := 0, dst := 1, ctrl := 0x8080026, param := 0, count := [64, 64, 0, 0, 0, 0, 0, 0], valid := [1, 1, 0, 0, 0, 0, 0, 0]
    sstride := [2, 0, 0, 0, 0, 0, 0, 0], dstride := [0, 0, 0, 0, 0, 0, 0, 0] }
/-- The parameter word 0. -/
def plainParam : Num.EncPar := { f4 := false, tau := 0, cap := 0, spill := 0, ulim := 0, adapt := false, tensor := 0 }
set_option maxRecDepth 20000 in
/-- The hypotheses of Obligations.CommandResults for a `cpy` that encodes. -/
theorem witness_CommandResults_encode :
    let d := encodeOne
    let c := resultCmd (.cpy d) (some 0)
    let s := resultScene (.cpy d) []
    commandRuns s 5 c ∧ copyField d 2 + 1 = 2 ∧ d.ctrl.getLsbD 0 = false ∧ CopyLegal d 2 ∧ d.ctrl.getLsbD 19 = true ∧ d.ctrl.getLsbD 1 = true ∧
    encParam d.param = some plainParam ∧
    (∀ i, (∀ k < 2, i k < d.valid.getD k 0) → OperandReads s c false d.src (copyAddr 0 2 d.sstride i) 2 dataLoc ∧
      ofBytes (cpyConvert d (operandBytes s c false d.src dataLoc (copyAddr 0 2 d.sstride i) 2)) = 0) ∧
    OperandWrites s c true d.dst (descOff d.dst) (Num.encodeTile plainParam ((Array.range 4096).map fun _ => 0)).bytes.length dataLoc := by
  refine ⟨runs_result _ _, rfl, rfl, ⟨by decide, by decide, by decide, by decide, by decide, by decide, by decide, by decide⟩, rfl, rfl, rfl, ?_,
    ⟨_, rfl, by decide +kernel⟩⟩
  intro i h
  have h0 : i 0 = 0 := by have := h 0 (by decide); simp [encodeOne] at this; omega
  have a : copyAddr 0 2 encodeOne.sstride i = 0 := by simp [copyAddr, encodeOne, List.range_succ, h0]
  rw [a]
  exact ⟨data_result _ _ (.inl rfl) (by decide) (by decide), by decide⟩
/-- The hypotheses of Obligations.CommandResults for `cpyx`: an index in range, and one at the limit. -/
theorem witness_CommandResults_cpyx :
    let k := CmdKind.cpyx 1 0 128 5 [(0, 4), (63, 5)]
    commandRuns (resultScene k []) 5 (resultCmd k (some 0)) ∧ ([(0, 4), (63, 5)].map Prod.fst : List Nat).Nodup ∧
    (∀ q ∈ [(0, 4), (63, 5)], OperandWrites (resultScene k []) (resultCmd k (some 0)) true 1 (descOff 1 + q.1 * 128) 128 dataLoc) ∧
    OperandReads (resultScene k []) (resultCmd k (some 0)) false 0 ((0 + 4 * 128) % 2 ^ 64) 128 dataLoc := by
  refine ⟨runs_result _ _, by decide, ?_, data_result _ _ (.inl rfl) (by decide) (by decide)⟩
  intro q h
  simp only [List.mem_cons, List.not_mem_nil, or_false] at h
  obtain rfl | rfl := h <;> exact ⟨_, rfl, by decide⟩
/-- The head of the tile in the box. -/
def plainHead : Num.TileHead := ⟨false, 0, 0, 0x3F80, List.replicate 16 0⟩
set_option maxRecDepth 20000 in
/-- The hypotheses of Obligations.CommandResults for `cpyq` of one tile, `menc` and `mdec`. -/
theorem witness_CommandResults_tiles :
    (let k := CmdKind.cpyq 1 0x10
     let s := resultScene k []
     let c := resultCmd k (some 0)
     commandRuns s 5 c ∧ cpyqTurn s c 0 = true ∧ c.pushed ≤ 1 ∧ (queueOf s 0 0).length + 1 ≤ 4 ∧ 0 = copyStart true 1 + c.pos ∧
     Num.readHead (operandBytes s c true 1 dataLoc 0 64).toArray = some plainHead ∧ OperandReads s c true 1 0 64 dataLoc ∧
     OperandReads s c true 1 (0 + 2368) 0 dataLoc ∧ ∃ x, teamBox s c.tid (descHandle 1) = some x ∧ 0 + 2368 ≤ x.2.bytes) ∧
    (let k := CmdKind.menc 0x200000000001 0x200000000001 0
     let s := resultScene k []
     let c := resultCmd k (some 0)
     commandRuns s 5 c ∧ encParam 0 = some plainParam ∧ Cells.get? c.gid s.groups = some placedGroup ∧
     OperandReads s c true 0x200000000001 (descOff 0x200000000001) 8192 id ∧
     OperandWrites s c true 1 (descOff 1) (Num.encodeTile plainParam ((Array.range 4096).map fun i =>
       ofBytes (operandBytes s c true 0x200000000001 id (descOff 0x200000000001 + 2 * i) 2))).bytes.length id) ∧
    (let k := CmdKind.mdec 0x200000000001 1
     let s := resultScene k []
     let c := resultCmd k (some 0)
     commandRuns s 5 c ∧ Cells.get? c.gid s.groups = some placedGroup ∧ OperandReads s c true 1 (descOff 1) 64 id ∧
     Num.readHead (operandBytes s c true 1 id (descOff 1) 64).toArray = some plainHead ∧
     OperandReads s c true 1 (descOff 1) (Num.tileBytes false 0) id ∧
     OperandWrites s c true 0x200000000001 (descOff 0x200000000001)
       (Num.decodeTile plainHead (operandBytes s c true 1 id (descOff 1) (Num.tileBytes false 0)).toArray).1.length id) := by
  refine ⟨⟨runs_result _ _, by decide, by decide, by decide, rfl, by decide, ⟨_, rfl, by decide, rfl⟩, ⟨_, rfl, by decide, rfl⟩, _, rfl, by decide⟩,
    ⟨runs_result _ _, rfl, rfl, ⟨_, rfl, by decide, rfl⟩, ⟨_, rfl, by decide +kernel⟩⟩,
    runs_result _ _, rfl, ⟨_, rfl, by decide, rfl⟩, by decide, ⟨_, rfl, by decide, rfl⟩, ⟨_, rfl, by decide +kernel⟩⟩
/-- The word of a reduction of one element over this module alone. -/
def soloWord : DWord := 0x4000200 ||| Config.deviceId.setWidth 64
/-- Its fields, whatever the module's device number is. -/
theorem soloWord_fields : redDevs soloWord = [Config.deviceId] ∧ redCount soloWord = 1 ∧ redFirst soloWord + 1 ≤ 512 ∧
    redElems soloWord = 1 ∧ soloWord.getLsbD 25 = false ∧ soloWord.extractLsb' 19 6 = 0 := by
  have h : ∀ d : BitVec 9, redDevs (0x4000200#64 ||| d.setWidth 64) = [d] ∧ redCount (0x4000200#64 ||| d.setWidth 64) = 1 ∧
      redFirst (0x4000200#64 ||| d.setWidth 64) + 1 ≤ 512 ∧ redElems (0x4000200#64 ||| d.setWidth 64) = 1 ∧
      (0x4000200#64 ||| d.setWidth 64).getLsbD 25 = false ∧ (0x4000200#64 ||| d.setWidth 64).extractLsb' 19 6 = 0 := by decide +kernel
  exact h Config.deviceId
set_option maxRecDepth 20000 in
/-- The hypotheses of Obligations.CommandResults for transfers of one line with device 5, and for a reduction. -/
theorem witness_CommandResults_transfers :
    (let w : DWord := 0x800005
     let m : PeerCollective := ⟨5, 1, 0, w, []⟩
     let k := CmdKind.xsend 0 w
     let s := resultScene k [m]
     commandRuns s 5 (resultCmd k (some 0)) ∧ xferTurn s (resultCmd k (some 0)) = true ∧
     arrivalOf s (w.setWidth 9) 1 (w.extractLsb' 9 6) = some m ∧ xferLen m.word = w.toNat / 2 ^ 16 % 2 ^ 32 ∧
     OperandReads s (resultCmd k (some 0)) (w.getLsbD 15) 0 (copyStart (w.getLsbD 15) 0) (w.toNat / 2 ^ 16 % 2 ^ 32) dataLoc) ∧
    (let w : DWord := 0x800005
     let m : PeerCollective := ⟨5, 0, 0, w, List.replicate 128 7⟩
     let k := CmdKind.xrecv 0 w
     let s := resultScene k [m]
     commandRuns s 5 (resultCmd k (some 0)) ∧ xferTurn s (resultCmd k (some 0)) = true ∧
     arrivalOf s (w.setWidth 9) 0 (w.extractLsb' 9 6) = some m ∧ xferLen m.word = w.toNat / 2 ^ 16 % 2 ^ 32 ∧
     m.data.length = w.toNat / 2 ^ 16 % 2 ^ 32 ∧
     OperandWrites s (resultCmd k (some 0)) (w.getLsbD 15) 0 (copyStart (w.getLsbD 15) 0) (w.toNat / 2 ^ 16 % 2 ^ 32) dataLoc) ∧
    (let k := CmdKind.xred 0 soloWord
     let s := resultScene k []
     let c := resultCmd k (some 0)
     commandRuns s 5 c ∧ xferTurn s c = true ∧ 0 < redCount soloWord ∧ redFirst soloWord + redCount soloWord ≤ 512 ∧ Config.deviceId ∈ redDevs soloWord ∧
     strangers s (soloWord.extractLsb' 19 6) soloWord = [] ∧ (∀ d ∈ redDevs soloWord, d = Config.deviceId) ∧ fresh c = true ∧
     OperandReads s c false 0 0 (redElems soloWord * 4) dataLoc ∧ OperandWrites s c false 0 0 (redElems soloWord * 4) dataLoc) := by
  obtain ⟨h1, h2, h3, h4, -, -⟩ := soloWord_fields
  refine ⟨⟨runs_result _ _, by decide, rfl, rfl, data_result _ _ (.inl rfl) (by decide) (by decide)⟩,
    ⟨runs_result _ _, by decide, rfl, rfl, rfl, data_result _ _ (.inr rfl) (by decide) (by decide)⟩, ?_⟩
  dsimp only
  rw [h1, h2, h4]
  exact ⟨runs_result _ _, by simp [xferTurn, resultScene], by decide, h3, List.mem_singleton.2 rfl, rfl, fun _ h => List.mem_singleton.1 h, rfl,
    data_result _ _ (.inl rfl) (by decide) (by decide), data_result _ _ (.inr rfl) (by decide) (by decide)⟩
/-- The drain of accumulator 0 into the box, and the store of it as E4M3 codes into the data page. -/
def drainOp : EngOp := { postedPass with kind := .drain 1 }
/-- The store. -/
def storeOp : EngOp := { postedPass with kind := .store 0 0x33F800000 2 }
/-- The launch with one operation and a box of four granules lent to quad 0. -/
def drainScene (o : EngOp) : State :=
  setCluster 0 (fun u => { u with boxes := [(0, { heldOne with gran := 4, lends := [⟨0, 0, 0, false⟩] })] }) (engineScene [o] (.cpyq 0 0))
set_option maxRecDepth 20000 in
/-- The hypotheses of Obligations.CommandResults for `mdrain` and `mstore`, at their start. -/
theorem witness_CommandResults_engine :
    (∃ q b, dueOp (drainScene drainOp) 0 9 q drainOp ∧ boxIn (drainScene drainOp) q.uid (descHandle 1) = some b ∧ b.escrow = true ∧
      descOk 1 = true ∧ (∃ l ∈ b.lends, l.quad = 0 ∧ l.recalled = false) ∧ descOff 1 + 16384 ≤ b.bytes ∧ descOff 1 % 128 = 0 ∧
      seqChitOk (drainScene drainOp) 0 drainOp.chit = true ∧ accPoisoned q (accOf drainOp) 64 = false) ∧
    ∃ q, dueOp (drainScene storeOp) 0 9 q storeOp ∧ seqChitOk (drainScene storeOp) 0 storeOp.chit = true ∧
      accPoisonFrom q (accOf storeOp) 0 = false ∧
      (∀ i v, i < 64 → v < 1 → EngineReaches (drainScene storeOp)
        { ctx := q.ctx, part := ctxPart (drainScene storeOp) q.ctx, core := 1024 + 0 / 8, die := 0 / 8 / 48 } .engineWrite (0 + i * 64 + 64 * v) 64
        dataLoc) ∧ Apart dataLoc (fun _ => True) := by
  refine ⟨⟨_, _, ⟨rfl, rfl⟩, rfl, rfl, by decide, ⟨_, .head _, rfl, rfl⟩, by decide, by decide, by decide, by decide⟩, _, ⟨rfl, rfl⟩, by decide,
    by decide, ?_, apart_data _⟩
  intro i v hi hv
  exact reaches_data rfl rfl rfl rfl rfl rfl rfl (.inr rfl) (by decide) (by omega)

/-- The hypotheses of Obligations.RoundingResults and Obligations.OrderAndSumResults: a packed format, two formats, the last operation. -/
theorem witness_RoundingResults_OrderAndSumResults :
    (Num.Fmt.f16 = .bf16 ∨ Num.Fmt.f16 = .f16) ∧ Num.Fmt.e4m3 ≠ .f32 ∧ 10 < 11 := by decide

/-! ### Values that the spec works out -/

/-- Lane 0 of a register after an instruction, from given registers in lane 0. -/
def lane0 (i : Instr) (ws : List (Nat × Word)) (r : Nat) : LaneWord :=
  let s := sceneOf (regPart []) { placedGroup with lanes := ws.map fun w => (w.1 * 64, ⟨w.2, true, false⟩) }
  ((Cells.get? 0 (after i s).groups).map fun g => Cells.get LaneWord.zero (r * 64) g.lanes).getD LaneWord.zero
/-- AFL after an instruction, from given registers in lane 0. -/
def aflAfter (i : Instr) (ws : List (Nat × Word)) : BitVec 8 :=
  let s := sceneOf (regPart []) { placedGroup with lanes := ws.map fun w => (w.1 * 64, ⟨w.2, true, false⟩) }
  ((Cells.get? 0 (after i s).groups).map Group.afl).getD 0
/-- Bit-field extracts of position 8 and length 12 (R144). -/
theorem test_bfx :
    (lane0 (.bfxN32 ⟨0, 1, 2, 3, false, false⟩) [(2, 0xABCD1234), (3, 0xC08)] 1).val = 0xD12 ∧
    (lane0 (.bfxI32 ⟨0, 1, 2, 3, false, false⟩) [(2, 0xABCD1234), (3, 0xC08)] 1).val = 0xFFFFFD12 := by decide +kernel
/-- The insert of the same field, by the definition of R144 (its printed example does not follow from it: DEDUCED, log entry 33). -/
theorem test_bfi : (lane0 (.bfi ⟨0, 1, 2, 3, false, false⟩) [(1, 0x12345678), (2, 0xFFF), (3, 0xC08)] 1).val = 0x123FFF78 := by
  decide +kernel
/-- A fused multiply-add rounds once; the two instructions round twice (R153). -/
theorem test_ffma :
    (lane0 (.ffma ⟨0, 1, 2, 3, false, false, false⟩) [(1, 0xBF800000), (2, 0x3F800001), (3, 0x3F7FFFFE)] 1).val = 0xA8800000 := by
  decide +kernel
/-- The minimum of +0 and −0 is −0; `fmaxn` of a NaN and −3.0 is −3.0 (R90). -/
theorem test_fmin :
    (lane0 (.fmin ⟨0, 1, 2, 3, false, false⟩) [(2, 0), (3, 0x80000000)] 1).val = 0x80000000 ∧
    (lane0 (.fmaxn ⟨0, 1, 2, 3, false, false⟩) [(2, 0x7FC00000), (3, 0xC0400000)] 1).val = 0xC0400000 := by decide +kernel
/-- −0.3 to N32 is 0 with INX only; −0.7 is 0 with INV and SAT (R29, R86). -/
theorem test_fcvt_n32 :
    (lane0 (.fcvt ⟨0, 1, 2, 6, 0, false, 0⟩) [(1, 9), (2, 0xBE99999A)] 1).val = 0 ∧
    aflAfter (.fcvt ⟨0, 1, 2, 6, 0, false, 0⟩) [(2, 0xBE99999A)] = Num.fINX ∧
    (lane0 (.fcvt ⟨0, 1, 2, 6, 0, false, 0⟩) [(1, 9), (2, 0xBF333333)] 1).val = 0 ∧
    aflAfter (.fcvt ⟨0, 1, 2, 6, 0, false, 0⟩) [(2, 0xBF333333)] = Num.fINV ||| Num.fSAT := by decide +kernel
/-- The cluster of R15: its quads, a core of it by rank, and the core's team index. -/
theorem test_cluster :
    rectQuads 2 1 4 1 = [60, 61] ∧ rankCore 2 1 4 1 6 = 192 + 3 * 16 + 10 ∧ 5 * shapeSize 2 + 6 = 46 := by decide
/-- Words that the spec prints in its text: a shuffle, and a shift that it assembles bit by bit (R170, R181). -/
theorem test_decode_worked :
    decode32 0x63C41031 = .ok (.shflDown ⟨0, 8, 8, 30, false, false⟩) ∧
    decode32 0b00000100000001001010011000111111 = .ok (.sshli ⟨9, 9, false, 32⟩) := ⟨rfl, rfl⟩
/-- A write of k0 is discarded, and a write of k1 is not (R22). -/
theorem test_k0 :
    ((Cells.get? 0 (after (.knot ⟨0, 0, 1⟩) (scene [])).groups).map Group.masks) = some [] ∧
    ((Cells.get? 0 (after (.knot ⟨0, 1, 1⟩) (scene [])).groups).map fun g => Cells.get 0 1 g.masks) = some 0x8000000000000001 := by
  decide +kernel
/-- A trap keeps the instruction's address and length in its frame and enters T1 at TVEC (R355). -/
theorem test_trap :
    ((Cells.get? 0 (after (.trap ⟨9⟩) (trapScene 0x2000 0)).parts).map fun p =>
      (p.thr.pc, p.priv, p.tstack.map TFrame.pc, p.thr.report.info.toNat % 2 ^ 16)) =
    some (0x2000, true, [0x1000], 0x090E) := by decide +kernel
/-- A misaligned store raises ALIGN and stores nothing (R244, R353). -/
theorem test_misaligned_store :
    (after (.sst64 ⟨1, 2, false, 0⟩) (scene [(2, 4)])).stores = [] ∧
    ((Cells.get? 0 (after (.sst64 ⟨1, 2, false, 0⟩) (scene [(2, 4)])).parts).map fun p => p.thr.report.info.toNat % 2 ^ 8) = some 6 := by
  decide +kernel
/-- A step runs the placed word: `iadd v1, v2, v3` retires at the next word (R36). -/
theorem test_step :
    (match step (State.reset.withFetchWord 32 0x00610203) with
     | .next t => (Cells.get? 0 t.parts).map fun p => p.thr.pc
     | _ => none) = some 0x1004 := by decide +kernel

end Sys2Proof.Tests
end

section
/-!
PROOFS. Register writes (O27): the fields of a written word, commands that start nothing, an equation for each register that a write
may reach, then the family.
-/

namespace Sys2Proof.Claim

open Machine

/-! ### Fields of a written word -/

/-- The low bits of a word are its remainder. -/
theorem toNat_lowBits (v : DWord) (n : Nat) : (v.extractLsb' 0 n).toNat = v.toNat % 2 ^ n := by
  simp [BitVec.extractLsb'_toNat]
/-- No low bit is set exactly where the remainder is 0. -/
theorem lowBits_eq_zero {v : DWord} {n : Nat} : v.extractLsb' 0 n = 0#n ↔ v.toNat % 2 ^ n = 0 := by
  simp [← BitVec.toNat_inj]
/-- No bit from bit n on is set exactly where the word is below 2 ^ n. -/
theorem highBits_beq_zero (v : DWord) {m n : Nat} (h : m + n = 64) : (v.extractLsb' n m == 0) = decide (v.toNat < 2 ^ n) := by
  have hv : v.toNat < 2 ^ n * 2 ^ m := by rw [← Nat.pow_add, Nat.add_comm n, h]; exact v.isLt
  have hq : v.toNat / 2 ^ n < 2 ^ m := Nat.div_lt_of_lt_mul hv
  rw [Bool.eq_iff_iff]
  simp [← BitVec.toNat_inj, Nat.shiftRight_eq_div_pow, Nat.mod_eq_of_lt hq]

/-! ### Open functions -/

/-- A VF that is open has a partition (R346). -/
theorem parOf?_of_vfOpen {s : State} {p : BitVec 6} (h : vfOpen s p = true) : ∃ t, parOf? s p = some t := by
  unfold vfOpen at h
  cases e : parOf? s p with
  | none => simp [e] at h
  | some t => exact ⟨t, rfl⟩

/-! ### Writes of the command registers that start nothing (R331, R346, R368) -/

/-- What a write that starts nothing does: a closed VF answers, a busy register ignores it. -/
theorem commandTurnedAway_cases {s : State} {p : BitVec 6} {op busy : Bool} {F : EventForm}
    (h : commandTurnedAway s p op busy = some F) :
    op = true ∧ ((vfOpen s p = false ∧ F.next = send (.unsupported p) s) ∨ (vfOpen s p = true ∧ busy = true ∧ F.next = s)) := by
  cases op with
  | false => exact nomatch h
  | true =>
    refine ⟨rfl, ?_⟩
    cases ho : vfOpen s p with
    | false =>
      simp only [commandTurnedAway, ho, Bool.true_eq_false, if_true, if_false] at h
      cases h
      exact .inl ⟨rfl, rfl⟩
    | true =>
      cases busy with
      | false => simp [commandTurnedAway, ho] at h
      | true =>
        simp only [commandTurnedAway, ho, Bool.true_eq_false, if_true, if_false] at h
        cases h
        exact .inr ⟨rfl, rfl, rfl⟩
/-- A write of MCMD that starts nothing. -/
theorem mcmd_turnedAway {ops : Nat → Bool} {s : State} {p : BitVec 6} {v : BitVec 64} {F : EventForm}
    (checks : Partition → FnRegs → List (Bool × BitVec 8)) (act : Partition → FnRegs → State → State)
    (h : commandTurnedAway s p (ops (v.toNat % 16)) (fnOf s p).mbusy = some F) : mcmd ops p v checks act s = F.next := by
  obtain ⟨hop, ⟨hclosed, e⟩ | ⟨hopen, hbusy, e⟩⟩ := commandTurnedAway_cases h
  · simp [mcmd, hop, hclosed, e, unsupported]
  · obtain ⟨t, ht⟩ := parOf?_of_vfOpen hopen
    simp [mcmd, hop, hopen, ht, hbusy, e]
/-- A write of CCMD that starts nothing. -/
theorem ccmdRow_turnedAway {ops : Nat → Bool} {s : State} {p : BitVec 6} {v : BitVec 64} {F : EventForm}
    (h : commandTurnedAway s p (ops (v.toNat % 16)) (fnOf s p).cbusy = some F) :
    ccmdRow (ops (ccmdOp v)) p v s = .next F.next := by
  obtain ⟨hop, ⟨hclosed, e⟩ | ⟨hopen, hbusy, e⟩⟩ := commandTurnedAway_cases h
  · simp [ccmdRow, ccmdOp, hop, doCcmd, hclosed, e, unsupported]
  · simp [ccmdRow, ccmdOp, hop, doCcmd, hopen, hbusy, e]

/-! ### Registers without a row of their own -/

/-- A register request to a VF that is not open for it (R346). -/
theorem vfWrite_closed {s : State} {p : BitVec 6} {off : Nat} (hf : ¬ (off = 0x10 ∨ off = 0x18)) (hc : vfOpen s p = false) (v : DWord) :
    vfWrite p off v s = send (.unsupported p) s := by
  simp [vfWrite, hf, hc, unsupported]
/-- FEATREQ of a VF by the state of its TDI (R9, R346). -/
theorem vfWrite_featReq {off : Nat} (hf : off = 0x10 ∨ off = 0x18) (s : State) (p : BitVec 6) (v : DWord) :
    vfWrite p off v s =
      if vfIde s p = false then send (.unsupported p) s
      else if tdiOf s p = some .run then s
      else if tdiOf s p = some .locked then
        setFn p (fun f => if off = 0x10 then { f with featReq0 := v } else { f with featReq1 := v }) s
      else send (.unsupported p) s := by
  unfold vfWrite
  rw [if_pos hf]
  cases h : vfIde s p with
  | false => rfl
  | true =>
    by_cases hr : tdiOf s p = some .run
    · simp [hr]
    · simp [hr, unsupported]

section
variable {s : State} {p : BitVec 6} (ho : vfOpen s p = true) (v : DWord)
include ho

/-- LQBASE of one of the four queues, ignored while EN is 1 (R280). -/
theorem vfWrite_lqBase {off : Nat} (hq : off = 0x1000 ∨ off = 0x1020 ∨ off = 0x1040 ∨ off = 0x1060) :
    vfWrite p off v s = if (lqOf s p ((off - 0x1000) / 0x20)).en = true then s
      else lqSet p ((off - 0x1000) / 0x20) (fun r => { r with base := v }) s := by
  have hf : ¬ (off = 0x10 ∨ off = 0x18) := by omega
  have hr : 0x1000 ≤ off ∧ off < 0x1080 ∧ off % 0x20 = 0 := by omega
  unfold vfWrite
  rw [if_neg hf, if_neg (by simp [ho]), if_pos hr]
  rfl
/-- MVA is ignored while BUSY is 1 (R331). -/
theorem vfWrite_mva : vfWrite p 0x2008 v s =
    if (fnOf s p).mbusy = true then s else setFn p (fun f => { f with mva := lowField 56 v }) s := by
  simp [vfWrite, ho]
/-- MLEN is ignored while BUSY is 1 (R331). -/
theorem vfWrite_mlen : vfWrite p 0x2010 v s =
    if (fnOf s p).mbusy = true then s else setFn p (fun f => { f with mlen := v }) s := by
  simp [vfWrite, ho]
/-- MPEER is ignored while BUSY is 1 (R331). -/
theorem vfWrite_mpeer : vfWrite p 0x2018 v s =
    if (fnOf s p).mbusy = true then s else setFn p (fun f => { f with mpeer := v &&& 0x3F7FFF }) s := by
  simp [vfWrite, ho]
/-- The base of the management log (R368). -/
theorem vfWrite_mlBase : vfWrite p 0x4000 v s = setFn p (fun f => { f with mlbase := lowField 56 v }) s := by
  simp [vfWrite, ho]
/-- CCMD without a command in it is ignored while BUSY is 1 (R368). -/
theorem vfWrite_ccmd (hv : v.toNat % 2 ^ 4 = 0) : vfWrite p 0x4010 v s =
    if (fnOf s p).cbusy = true then s else setFn p (fun f => { f with ccmd := lowField 38 v }) s := by
  simp [vfWrite, ho, lowBits_eq_zero.mpr hv]
/-- DBGSEL, where the policy opens it (R351, R393). -/
theorem vfWrite_dbgSel : vfWrite p 0x3010 v s =
    if lockOpen s p 1 = true then setFn p (fun f => { f with dsel := lowField 31 v }) s else s := by
  simp [vfWrite, ho]
/-- DBGDATA, where the policy opens registers or memory (R351, R393). -/
theorem vfWrite_dbgData : vfWrite p 0x3030 v s =
    if lockOpen s p 2 = true ∨ lockOpen s p 3 = true then setFn p (fun f => { f with ddata := v }) s else s := by
  simp [vfWrite, ho]
/-- DBGPROF answers with the count that it names, where the policy opens it (R351, R391, R393). -/
theorem vfWrite_dbgProf : vfWrite p 0x3028 v s =
    if lockOpen s p 4 = true then
      send (.regValue p 0x3028 (profRead (setFn p (fun f => { f with dprof := lowField 4 v }) s) p))
        (setFn p (fun f => { f with dprof := lowField 4 v }) s)
    else s := by
  simp [vfWrite, ho]
/-- DBGCTL with no action of its own row, where the policy opens it (R351, R393). -/
theorem vfWrite_dbgCtl (hv : v.toNat % 16 = 0 ∨ 6 ≤ v.toNat % 16) : vfWrite p 0x3008 v s =
    if lockOpen s p 1 = true then
      setFn p (fun f => { f with dact := v.extractLsb' 0 4, dstat := if v.toNat % 16 = 0 then f.dstat else 0x01 }) s
    else s := by
  have h0 : v.extractLsb' 0 4 = 0#4 ↔ v.toNat % 16 = 0 := lowBits_eq_zero
  have h6 : (v.extractLsb' 0 4).toNat = v.toNat % 16 := toNat_lowBits v 4
  simp [vfWrite, ho, h0, h6, hv]
end

/-- The count that DBGPROF shows after a write of it (R391, R393). -/
theorem profRead_setFn (s : State) (p : BitVec 6) (v : DWord) :
    let f := fnOf s p
    let u := setFn p (fun f => { f with dprof := lowField 4 v }) s
    profRead u p = if ((ctxOf? s (f.dsel.toNat % 2 ^ 8)).any fun k => k.part == p) = true then
      profValue u (f.dsel.toNat % 2 ^ 8) (f.dsel.toNat / 2 ^ 8 % 2 ^ 10) (v.toNat % 2 ^ 4) else 0 := by
  intro f u
  have hu : fnOf u p = { f with dprof := lowField 4 v } := Cells.get_put_self _ _ _ _
  have hc : ∀ c, ctxOf? u c = ctxOf? s c := fun _ => rfl
  have hsel : (f.dsel.extractLsb' 8 10).toNat = f.dsel.toNat / 2 ^ 8 % 2 ^ 10 := by
    simp [BitVec.extractLsb'_toNat, Nat.shiftRight_eq_div_pow]
  have hcnt : ((lowField 4 v).extractLsb' 0 4).toNat = v.toNat % 2 ^ 4 := by
    rw [toNat_lowBits, lowField, lowMask, BitVec.toNat_and, BitVec.toNat_ofNat]
    exact (congrArg (· % 2 ^ 4) (Nat.and_two_pow_sub_one_eq_mod v.toNat 4)).trans (Nat.mod_mod _ _)
  unfold profRead
  simp only [hu, hc, toNat_lowBits, hsel, hcnt]
  cases ctxOf? s (f.dsel.toNat % 2 ^ 8) <;> rfl

/-- A form that chooses between two is one of them: the branches of a claim, taken one by one. -/
theorem of_ite_eq_some {c : Prop} [Decidable c] {a b : Option EventForm} {F : EventForm} {P : Prop}
    (h : (if c then a else b) = some F) (ht : c → a = some F → P) (he : ¬ c → b = some F → P) : P := by
  by_cases hc : c
  · exact ht hc (by rwa [if_pos hc] at h)
  · exact he hc (by rwa [if_neg hc] at h)

/-- Every write of a VF's register has the effect that the claim gives it. -/
theorem vfWrite_of_vfRegister {s : State} {p : BitVec 6} {off : Nat} {v : DWord} {F : EventForm}
    (h : vfRegister s p off v = some F) (hok : F.ok) : vfWrite p off v s = F.next := by
  unfold vfRegister at h
  refine of_ite_eq_some h (fun hc e => ?_) (fun _ h => ?_)
  · cases e; exact vfWrite_closed (by simp [hc]) hc.2.2 v
  refine of_ite_eq_some h (fun hf h => ?_) (fun _ h => ?_)
  · rw [vfWrite_featReq hf]
    refine of_ite_eq_some h (fun hi e => ?_) (fun hi h => ?_)
    · cases e; exact if_pos hi
    rw [if_neg hi]
    refine of_ite_eq_some h (fun hr e => ?_) (fun hr h => ?_)
    · cases e; exact if_pos hr
    rw [if_neg hr]
    refine of_ite_eq_some h (fun hl e => ?_) (fun hl e => ?_)
    · cases e; exact if_pos hl
    · cases e; exact if_neg hl
  refine of_ite_eq_some h (fun hq e => ?_) (fun _ h => ?_)
  · cases e; exact vfWrite_lqBase hok v hq
  refine of_ite_eq_some h (fun e hF => ?_) (fun _ h => ?_)
  · cases e; cases hF; exact vfWrite_mva hok v
  refine of_ite_eq_some h (fun e hF => ?_) (fun _ h => ?_)
  · cases e; cases hF; exact vfWrite_mlen hok v
  refine of_ite_eq_some h (fun e hF => ?_) (fun _ h => ?_)
  · cases e; cases hF; exact vfWrite_mpeer hok v
  refine of_ite_eq_some h (fun e hF => ?_) (fun _ h => ?_)
  · cases e; cases hF; exact vfWrite_mlBase hok v
  refine of_ite_eq_some h (fun e hF => ?_) (fun _ h => ?_)
  · cases e; cases hF; exact vfWrite_ccmd hok.1 v hok.2
  refine of_ite_eq_some h (fun e hF => ?_) (fun _ h => ?_)
  · cases e; cases hF; exact vfWrite_dbgSel hok v
  refine of_ite_eq_some h (fun e hF => ?_) (fun _ h => ?_)
  · cases e; cases hF; exact vfWrite_dbgData hok v
  refine of_ite_eq_some h (fun e hF => ?_) (fun _ h => ?_)
  · cases e; cases hF; rw [vfWrite_dbgProf hok v, profRead_setFn]; rfl
  refine of_ite_eq_some h (fun e hF => ?_) (fun _ h => ?_)
  · cases e; cases hF; rw [vfWrite_dbgCtl hok.1 v hok.2]; rfl
  · cases h

/-- Every write of a register of the PF has the effect that the claim gives it. -/
theorem pfWrite_of_pfRegister {s : State} {off : Nat} {v : DWord} {F : EventForm}
    (h : pfRegister s off v = some F) (hok : F.ok) : pfWrite off v s = F.next := by
  unfold pfRegister at h
  refine of_ite_eq_some h (fun e hF => ?_) (fun _ h => ?_)
  · cases e; cases hF; rfl
  refine of_ite_eq_some h (fun e hF => ?_) (fun _ h => ?_)
  · cases e; cases hF; rfl
  refine of_ite_eq_some h (fun e hF => ?_) (fun _ h => ?_)
  · cases e; cases hF
    simp [pfWrite, lowBits_eq_zero.mpr hok, lowField, lowMask]
  refine of_ite_eq_some h (fun e hF => ?_) (fun _ h => ?_)
  · cases e; cases hF; rfl
  refine of_ite_eq_some h (fun e hF => ?_) (fun _ h => ?_)
  · cases e; cases hF; rfl
  refine of_ite_eq_some h (fun e hF => ?_) (fun _ h => ?_)
  · cases e; cases hF; rfl
  · cases h

/-! ### Control registers of queues and of the management log (R280, R368) -/

/-- The EN bit that a control register takes: its LOG lies between its bounds and its reserved bits are 0. -/
theorem enable_bit (v : DWord) (lo : Nat) :
    (v.getLsbD 5 && decide (lo ≤ (v.extractLsb' 0 5).toNat) && decide ((v.extractLsb' 0 5).toNat ≤ 16) && v.extractLsb' 6 58 == 0) =
      (v.getLsbD 5 && decide (lo ≤ (v.setWidth 5).toNat ∧ (v.setWidth 5).toNat ≤ 16) && decide (v.toNat < 2 ^ 6)) := by
  rw [highBits_beq_zero v (m := 58) (n := 6) rfl, BitVec.setWidth_eq_extractLsb' (by omega), Bool.and_assoc (v.getLsbD 5), Bool.decide_and]

/-- LQCTL: closed, ignored while EN is 1, else taken (R280). -/
theorem execLqctlWrite_eq (p : BitVec 6) (q : BitVec 2) (v : BitVec 64) (s : State) :
    execLqctlWrite p q v s = .next (
      if vfOpen s p = false then send (.unsupported p) s
      else if (lqOf s p q.toNat).en = true then s
      else lqSet p q.toNat (fun r =>
        { r with log := v.setWidth 5
                 en := v.getLsbD 5 && decide (4 ≤ (v.setWidth 5).toNat ∧ (v.setWidth 5).toNat ≤ 16) && decide (v.toNat < 2 ^ 6) }) s) := by
  rw [← enable_bit]
  unfold execLqctlWrite
  cases vfOpen s p <;> rfl
/-- LQPROD: closed, else taken with every update applied (R222, R280). -/
theorem execLqprodWrite_eq (p : BitVec 6) (q : BitVec 2) (v : BitVec 64) (s : State) :
    execLqprodWrite p q v s = .next (
      if vfOpen s p = false then send (.unsupported p) s
      else lqSet p q.toNat (fun r => { r with prod := v.setWidth 32 }) (drainUpds s)) := by
  unfold execLqprodWrite
  cases vfOpen s p <;> rfl
/-- MLCTL: closed, ignored while EN is 1, else taken (R368). -/
theorem execMlctlWrite_eq (p : BitVec 6) (v : BitVec 64) (s : State) :
    execMlctlWrite p v s = .next (
      if vfOpen s p = false then send (.unsupported p) s
      else if (fnOf s p).mlen_ = true then s
      else setFn p (fun f =>
        { f with mllog := v.setWidth 5
                 mlen_ := v.getLsbD 5 && decide (6 ≤ (v.setWidth 5).toNat ∧ (v.setWidth 5).toNat ≤ 16) && decide (v.toNat < 2 ^ 6) }) s) := by
  rw [← enable_bit]
  unfold execMlctlWrite
  cases vfOpen s p <;> rfl

/-! ### O27 -/

/-- Settles O27: case by case over the rows of the table that write a register. -/
theorem registerWrites : Obligations.RegisterWrites := by
  intro i F s h hok
  cases i with
  | mcmdReserve p v => exact congrArg _ (mcmd_turnedAway (ops := fun o => o == 0) _ _ h)
  | mcmdUnmap p v => exact congrArg _ (mcmd_turnedAway (ops := fun o => o == 1) _ _ h)
  | mcmdProtect p v => exact congrArg _ (mcmd_turnedAway (ops := fun o => o == 2) _ _ h)
  | mcmdAdmit p v => exact congrArg _ (mcmd_turnedAway (ops := fun o => o == 3) _ _ h)
  | mcmdReclaim p v => exact congrArg _ (mcmd_turnedAway (ops := fun o => o == 4) _ _ h)
  | mcmdInval p v => exact congrArg _ (mcmd_turnedAway (ops := fun o => o == 5) _ _ h)
  | mcmdExport p v => exact congrArg _ (mcmd_turnedAway (ops := fun o => o == 6) _ _ h)
  | mcmdImport p v => exact congrArg _ (mcmd_turnedAway (ops := fun o => o == 7) _ _ h)
  | mcmdRefusedOp p v => exact congrArg _ (mcmd_turnedAway (ops := fun o => decide (8 ≤ o)) _ _ h)
  | killContext p v => exact ccmdRow_turnedAway (ops := fun o => o == 1) h
  | resumePart p v => exact ccmdRow_turnedAway (ops := fun o => o == 2) h
  | resumeSequencerContext p v => exact ccmdRow_turnedAway (ops := fun o => o == 3) h
  | ccmdRefusedOp p v => exact ccmdRow_turnedAway (ops := fun o => decide (4 ≤ o)) h
  | registerWrite f off v =>
    cases f with
    | pf => exact congrArg _ (pfWrite_of_pfRegister h hok)
    | vf p => exact congrArg _ (vfWrite_of_vfRegister h hok)
  | vfEnable on => cases on <;> cases h <;> rfl
  | lqctlWrite p q v =>
    refine of_ite_eq_some h (fun hc e => ?_) (fun hc e => ?_)
    · cases e; exact (execLqctlWrite_eq p q v s).trans (congrArg _ (if_pos hc))
    · cases e; exact (execLqctlWrite_eq p q v s).trans (congrArg _ (if_neg hc))
  | lqprodWrite p q v =>
    refine of_ite_eq_some h (fun hc e => ?_) (fun hc e => ?_)
    · cases e; exact (execLqprodWrite_eq p q v s).trans (congrArg _ (if_pos hc))
    · cases e; exact (execLqprodWrite_eq p q v s).trans (congrArg _ (if_neg hc))
  | mlctlWrite p v =>
    refine of_ite_eq_some h (fun hc e => ?_) (fun hc e => ?_)
    · cases e; exact (execMlctlWrite_eq p v s).trans (congrArg _ (if_pos hc))
    · cases e; exact (execMlctlWrite_eq p v s).trans (congrArg _ (if_neg hc))
  | _ => cases h

end Sys2Proof.Claim
end

section
/-!
PROOFS. TDISP requests, keying and the end of a leave (O28): what the shared answer of a TDISP request does, then each request.
-/

namespace Sys2Proof.Claim

open Machine

/-- A TDISP request that a secured session carries reaches its partition (R342). -/
theorem tdisp_inSession {s : State} {p : BitVec 6} {t : Partition} (ht : parOf? s p = some t) (hs : inSession s (.vf p) = true)
    (f : Partition → State → State) : tdisp p f s = .next (f t s) := by
  simp [tdisp, ht, hs]
/-- A TDI in CONFIG_LOCKED or RUN goes to ERROR and its partition leaves (R343). -/
theorem toError_frozen {s : State} {p : BitVec 6} {t : Partition} (ht : parOf? s p = some t) (h : t.tdi = .locked ∨ t.tdi = .run) :
    toError p s = startLeave p .error (setPar p (fun t => { t with tdi := .error }) s) := by
  unfold toError tdiOf
  rw [ht, Option.map_some]
  obtain h | h := h <;> rw [h]
/-- LOCK_INTERFACE where its conditions hold (R343, R409). -/
theorem execLockInterface_ok {s : State} {p : BitVec 6} {t : Partition} (ht : parOf? s p = some t) (hs : inSession s (.vf p) = true)
    (hu : t.tdi = .unlocked) (hl : t.leaving = none) (hp : 0 < t.pool) (hr : reservedElsewhere s p + t.pool ≤ hbmBytes) :
    execLockInterface p s = .next (answer p true (some .locked) (setPar p (fun t =>
      { t with tdi := .locked, policyDigest := Config.content s.tick
               report := some ⟨t.quads, t.pool, t.quantum, t.bar, Config.content s.tick⟩ }) s)) := by
  rw [execLockInterface, tdisp_inSession ht hs, if_pos ⟨hu, by simp [hl], hp, hr⟩]
/-- START_INTERFACE on a locked TDI that does not leave, with the firmware running (R8, R343): the features decide. -/
theorem execStartInterface_locked {s : State} {p : BitVec 6} {t : Partition} (ht : parOf? s p = some t)
    (hs : inSession s (.vf p) = true) (hk : t.tdi = .locked) (hl : t.leaving = none) (hf : s.fwRuns = true) :
    let u := setFn p (fun f => { f with featMiss0 := f.featReq0 &&& ~~~feat0, featMiss1 := f.featReq1 }) s
    execStartInterface p s = .next (
      if (fnOf s p).featReq0 &&& ~~~feat0 = 0 ∧ (fnOf s p).featReq1 = 0 then
        answer p true (some .run) (setPar p (fun t =>
          { t with tdi := .run, keyCur := some s.nextId, keyNext := none, nonce := some (Config.content s.tick), touchMap := [] })
          { u with nextId := s.nextId + 1 })
      else answer p false (some .locked) u) := by
  intro u
  have hgo : ¬ (t.tdi ≠ .locked ∨ t.leaving.isSome = true ∨ (!s.fwRuns) = true) := by simp [hk, hl, hf]
  rw [execStartInterface, tdisp_inSession ht hs, if_neg hgo]
  by_cases hm : (fnOf s p).featReq0 &&& ~~~feat0 = 0 ∧ (fnOf s p).featReq1 = 0
  · rw [if_pos hm]
    exact congrArg _ (if_neg fun hor => hor.elim (· hm.1) (· hm.2))
  · rw [if_neg hm]
    exact congrArg _ (if_pos (Decidable.not_and_iff_not_or_not.mp hm))
/-- GET_DEVICE_INTERFACE_REPORT of a frozen interface (R342, R348). -/
theorem execGetDeviceInterfaceReport_frozen {s : State} {p : BitVec 6} {t : Partition} {r : Frozen} (ht : parOf? s p = some t)
    (hs : inSession s (.vf p) = true) (hr : t.report = some r) (h : t.tdi = .locked ∨ t.tdi = .run) :
    execGetDeviceInterfaceReport p s = .next (send (.report p r.quads r.pool r.quantum r.bar feat0 r.policy) s) := by
  rw [execGetDeviceInterfaceReport, tdisp_inSession ht hs]
  simp only [hr, if_pos h]
/-- STOP_INTERFACE: an unlocked TDI stays, any other begins to leave (R343, R344). -/
theorem execStopInterface_inSession {s : State} {p : BitVec 6} {t : Partition} (ht : parOf? s p = some t)
    (hs : inSession s (.vf p) = true) :
    execStopInterface p s = .next (if t.tdi = .unlocked then answer p true (some .unlocked) s
      else answer p true (some t.tdi) (startLeave p .stop s)) := by
  rw [execStopInterface, tdisp_inSession ht hs]
/-- LEAVE_SCRUB once nothing of the partition is in flight (R344). -/
theorem execLeaveScrub_idle {s : State} {p : BitVec 6} {t : Partition} {why : Leave} (ht : parOf? s p = some t)
    (hl : t.leaving = some why) (hi : parIdle s p = true) :
    execLeaveScrub p s = .next (send (.left p) (
      if why = .destroy then { scrub p s with pars := Cells.erase p.toNat (scrub p s).pars }
      else setPar p (fun _ => { Partition.zero with tdi := if why = .error then .error else .unlocked, quads := t.quads
                                                    pool := t.pool, quantum := t.quantum, bar := t.bar, ideKeyed := t.ideKeyed
                                                    hostMem := t.hostMem, hostPoison := t.hostPoison }) (scrub p s))) := by
  simp [execLeaveScrub, ht, hl, hi]

/-- Settles O28: case by case over the requests, each for a partition that is there. -/
theorem interfaceRequests : Obligations.InterfaceRequests := by
  intro i F s h hok
  cases i with
  | getTdispVersion p =>
    cases h
    obtain ⟨hs, hp⟩ := hok
    obtain ⟨t, ht⟩ := Option.isSome_iff_exists.mp hp
    exact tdisp_inSession ht hs _
  | getTdispCapabilities p =>
    cases h
    obtain ⟨hs, hp⟩ := hok
    obtain ⟨t, ht⟩ := Option.isSome_iff_exists.mp hp
    exact tdisp_inSession ht hs _
  | getDeviceInterfaceState p =>
    cases ht : parOf? s p with
    | none => simp [tdispForm, ht] at h
    | some t =>
      simp only [tdispForm, ht] at h
      cases h
      exact tdisp_inSession ht hok _
  | getDeviceInterfaceReport p =>
    cases ht : parOf? s p with
    | none => simp [tdispForm, ht] at h
    | some t =>
      cases hr : t.report with
      | none => simp [tdispForm, ht, hr] at h
      | some r =>
        simp only [tdispForm, ht, hr] at h
        cases h
        obtain ⟨hs, hst⟩ := hok
        exact execGetDeviceInterfaceReport_frozen ht hs hr hst
  | lockInterface p =>
    cases ht : parOf? s p with
    | none => simp [tdispForm, ht] at h
    | some t =>
      simp only [tdispForm, ht] at h
      cases h
      obtain ⟨hs, hu, hl, hp, hr⟩ := hok
      exact execLockInterface_ok ht hs hu hl hp hr
  | startInterface p =>
    cases ht : parOf? s p with
    | none => simp [tdispForm, ht] at h
    | some t =>
      simp only [tdispForm, ht] at h
      cases h
      obtain ⟨hs, hk, hl, hf⟩ := hok
      exact execStartInterface_locked ht hs hk hl hf
  | stopInterface p =>
    cases ht : parOf? s p with
    | none => simp [tdispForm, ht] at h
    | some t =>
      simp only [tdispForm, ht] at h
      cases h
      exact execStopInterface_inSession ht hok
  | ideKm p => cases h; rfl
  | ideIntegrityFailure p =>
    cases ht : parOf? s p with
    | none => simp [tdispForm, ht] at h
    | some t =>
      simp only [tdispForm, ht] at h
      cases h
      exact congrArg _ (toError_frozen ht hok)
  | leaveScrub p =>
    cases ht : parOf? s p with
    | none => simp [tdispForm, ht] at h
    | some t =>
      cases hl : t.leaving with
      | none => simp [tdispForm, ht, hl] at h
      | some why =>
        simp only [tdispForm, ht, hl] at h
        cases h
        exact execLeaveScrub_idle ht hl hok
  | _ => cases h

end Sys2Proof.Claim
end

section
/-!
PROOFS. Quanta, swaps, saves, soft errors and heat (O40): each operation where its condition holds.
-/

namespace Sys2Proof.Claim

open Machine

/-- QUANTUM_BOUNDARY (R300): no unit is served during a thermal stop or while the partition launches nothing (R376, R378). -/
theorem execQuantumBoundary_eq (p : BitVec 6) (s : State) :
    execQuantumBoundary p s = .next (passQuantum p
      (if s.thermalStop = true ∨ launching s p = false then s else (waitingUnits s p).foldl (fun s w => serve p w s) s)) := by
  have hc : (s.thermalStop || !launching s p) = true ↔ s.thermalStop = true ∨ launching s p = false := by
    rw [Bool.or_eq_true, Bool.not_eq_true']
  rw [execQuantumBoundary]
  simp only [hc]
/-- BANK_SWAP of a cluster that is being loaded (R302). -/
theorem execBankSwap_loading {s : State} {unit : Nat} {u : Cluster} (hu : Cells.get? unit s.clus = some u) (hr : u.res = .loading) :
    let coming := (unitOf s unit).filter fun v => (Cells.get? v s.clus).map Cluster.res == some .loading
    let t := u.evicts.foldl (fun s v => settleUnit v s) s
    execBankSwap unit s = .next (
      if coming.all (stillMatches s u.evicts) = true then
        if u.evicts.any (unitHeld t) = true then u.evicts.foldl (fun s v => signalUnit v s) t
        else coming.foldl (fun s v => swapIn v s) (u.evicts.foldl (fun s v => swapOut v s) t)
      else coming.foldl (fun s v => setCluster v (fun x => { x with res := .saved, evicts := [] }) s) s) := by
  intro coming t
  simp only [execBankSwap, hu, hr, ne_eq, not_true_eq_false, if_false]
  rw [List.filter_congr (l := unitOf s unit) (q := fun v => (Cells.get? v s.clus).map Cluster.res == some .loading)]
  intro v _
  cases Cells.get? v s.clus <;> rfl
/-- UNIT_SAVED of a cluster that stands in its save, or that is to leave its cores first (R302, R376, R378). -/
theorem execUnitSaved_due {s : State} {unit : Nat} {u : Cluster} (hu : Cells.get? unit s.clus = some u)
    (h : u.res = .saving ∨ (u.res = .resident ∧ stopping s u.ctx = true)) :
    execUnitSaved unit s = .next (if u.res = .resident then leaveUnit unit s else saveUnit unit s) := by
  obtain hr | ⟨hr, hs⟩ := h
  · simp [execUnitSaved, hu, hr]
  · simp [execUnitSaved, hu, hr, hs]
/-- THERMAL_LIMIT outside a thermal stop (R4, R376). -/
theorem execThermalLimit_running {s : State} (hs : s.thermalStop = false) :
    execThermalLimit s = .next (if 1800 < s.clockMhz then { s with clockMhz := max 1800 (s.clockMhz - 100) }
      else send .thermalTrip (noteAll (stopUnits (fun _ => true) { s with thermalStop := true }))) := by
  have hgo : ¬ s.thermalStop = true := by simp [hs]
  rw [execThermalLimit, if_neg hgo]
/-- THERMAL_SAVE_TIMEOUT during a thermal stop, of a unit whose save has not completed (R376, R381). -/
theorem execThermalSaveTimeout_due {s : State} {unit : Nat} {u : Cluster} (hu : Cells.get? unit s.clus = some u)
    (hs : s.thermalStop = true) (hr : u.res = .saving ∨ u.res = .resident) :
    execThermalSaveTimeout unit s = .next (
      if copying s (ctxPart s u.ctx) = true then { s with deferred := s.deferred ++ [.kill (ctxPart s u.ctx) u.ctx 0x03] }
      else killNow u.ctx 0x03 s) := by
  obtain hr | hr := hr <;> simp [execThermalSaveTimeout, hu, hs, hr]

/-- Settles O40: case by case over the operations. -/
theorem unitEvents : Obligations.UnitEvents := by
  intro i F s h hok
  cases i with
  | quantumBoundary p =>
    cases h
    exact execQuantumBoundary_eq p s
  | bankSwap unit =>
    cases hu : Cells.get? unit s.clus with
    | none => simp [unitForm, hu] at h
    | some u =>
      simp only [unitForm, hu] at h
      cases h
      exact execBankSwap_loading hu hok
  | unitSaved unit =>
    cases hu : Cells.get? unit s.clus with
    | none => simp [unitForm, hu] at h
    | some u =>
      simp only [unitForm, hu] at h
      cases h
      exact execUnitSaved_due hu hok
  | scrubberRead loc err =>
    show execScrubberRead loc err s = _
    unfold execScrubberRead
    cases hp : scrubPart s loc with
    | none => simp [unitForm, hp] at h
    | some p =>
      simp only [unitForm, hp] at h
      cases h
      rfl
  | thermalLimit =>
    cases h
    have hs : s.thermalStop = false := hok
    exact execThermalLimit_running hs
  | thermalResume => cases h; exact congrArg _ (if_pos hok)
  | thermalSaveTimeout unit =>
    cases hu : Cells.get? unit s.clus with
    | none => simp [unitForm, hu] at h
    | some u =>
      simp only [unitForm, hu] at h
      cases h
      obtain ⟨hs, hr⟩ := hok
      exact execThermalSaveTimeout_due hu hs hr
  | _ => cases h

end Sys2Proof.Claim
end
